-- ==== Sys2Proof/Word.lean ====
section
/-! DEFINITION. The word type, bytes, and the plainest facts about them (R7, R10). -/

namespace Sys2Proof

/-- A scalar register, an address, a doubleword of memory: 64 bits (R10). -/
abbrev Word := BitVec 64

/-- One byte of memory (R7). -/
abbrev Byte := BitVec 8

/-- A table of values by number, sorted by number with no repeats; a number with no entry holds the default its
reader names. -/
abbrev Tbl (α : Type) := List (Nat × α)

/-- Memory: bytes by location, sorted, with no entry of value zero. -/
abbrev Memory := List Host.Cell

end Sys2Proof
end

