-- ==== Sys2Proof/Syntax.lean ====
section
/-! DEFINITION. The names instructions and events speak of, and the one inductive of operations: a constructor for
each row of the opcode table, 241 instructions with words and 116 events of the panel's other agents. -/

namespace Sys2Proof

/-- A core with a program counter: a hart slot of a logical cell of a die (R10), or the steward core of a die (R34).
`p` is the cell's position among the die's logical cells, `slot` its physical hart slot, as in cr.hsel (R29). -/
inductive CoreId where
  | hart (die p slot : Nat)
  | steward (die : Nat)
  deriving DecidableEq, Repr

/-- A member of a batch: queue, sequence and member index, as the crew header has them (R381). -/
structure MemberId where
  queue : Nat
  seq : Nat
  index : Nat
  deriving DecidableEq, Repr

/-- One crew of a member, by its rank in the train (R246). -/
structure CrewRef where
  mem : MemberId
  rank : Nat
  deriving DecidableEq, Repr

/-- A barrier object, bound by cell rank and offset in the hold, so that it follows its crew (R207, R260). -/
structure ObjRef where
  crew : CrewRef
  cellRank : Nat
  off : Nat
  deriving DecidableEq, Repr

/-- Trap causes (R86). -/
inductive Cause where
  | illegal | priv | vtype | splitmode | brk | svc
  | align | straddle | page | hugeabsent | perm | seal | owner | sparse
  | stream | layout | table | bankcmd | bobj | launch
  | ecc | link | energy
  deriving DecidableEq, Repr

/-- What a trap reports: cause, address, element with its row, and for PAGE and HUGEABSENT the reason and the walk
level of the fault record (R120, R376). -/
structure TrapInfo where
  cause : Cause
  addr : Word := 0
  elem : Nat := 0
  reason : Nat := 0
  level : Nat := 0
  deriving DecidableEq, Repr

/-- Where one crew is put: its die, and for each cell rank the cell, the first hold block and the hart slots in
ascending slot rank (R247, R248, R391). -/
structure CrewPlace where
  die : Nat
  cells : List (Nat × Nat × List Nat)
  deriving DecidableEq, Repr

/-- A frame of the boot protocol as received on host port 0 (R351): addresses, header fields and payload. -/
structure BootFrame where
  src : BitVec 48
  dst : BitVec 48
  op : BitVec 8
  flags : BitVec 8
  seq : BitVec 16
  offset : BitVec 32
  length : BitVec 16
  status : BitVec 16
  payload : List Byte
  deriving DecidableEq, Repr

/-- The heading of an incoming RDMA request: port, queue pair, remote key and virtual address, and whether the bytes it reads
hold an uncorrectable error (R383, R385). -/
structure RdmaHead where
  port : Nat
  qp : Nat
  rkey : BitVec 32
  va : Word
  spoilt : Bool
  deriving DecidableEq, Repr

/-- Measurements firmware writes into the telemetry of the management page (R398): panel power in mW, panel energy in
µJ, and the temperature of each site in 1/16 °C. -/
structure Telemetry where
  power : Nat
  temps : List Int
  deriving DecidableEq, Repr

/-- Energy a die measured in one µs, in nJ, and its power in mW (R399, R402): by cell, outside the cells, by owned stack for
its bank commands, and what no crew is charged: refresh, idle stacks, the heater load. -/
structure EnergySample where
  power : Nat
  cells : List (Nat × Nat)
  rest : Nat
  stackTbl : List (Nat × Nat)
  idle : Nat
  deriving DecidableEq, Repr

/-- A memory error (R411, R412): the die and, when a core consumes the data, the core; whether it is in DRAM, whether
it is corrected, and the logical cell it lies in. -/
structure EccError where
  die : Nat
  consumer : Option CoreId
  dram : Bool
  corrected : Bool
  cell : Option Nat
  addr : Word
  bank : Option (Nat × Nat)
  deriving DecidableEq, Repr

/-- What the security block sees (R360): its triggers, the tamper mesh, the supply and the clock in bits 0 to 2, and the
temperatures of the sites. -/
structure AlarmReport where
  trigger : BitVec 3
  temps : List Int
  deriving DecidableEq, Repr

/-- A retraining of a link module (R410): whether the module exceeded its rate of flit retries, and whether it trained. -/
structure Retraining where
  rate : Bool
  ok : Bool
  deriving DecidableEq, Repr

/-- A NAK of a request of the panel (R383, R386): the request, and whether the target only is not ready to take it (RNR). -/
structure NakReport where
  id : Nat
  rnr : Bool
  deriving DecidableEq, Repr

/-- The operations of the panel, one constructor for each row of the opcode table. A field keeps the table's letter
and width; in the majors 0x3B to 0x3D `opt` is the whole option field (R85). -/
inductive Instr where
  /-- ADD (R96): Writes gd with gs1 + gs2 modulo 2^64. -/
  | add (d : BitVec 5) (a : BitVec 5) (b : BitVec 5)
  /-- SUB (R96): Writes gd with gs1 - gs2 modulo 2^64. -/
  | sub (d : BitVec 5) (a : BitVec 5) (b : BitVec 5)
  /-- AND (R96): Writes gd with the bitwise AND of gs1 and gs2. -/
  | and (d : BitVec 5) (a : BitVec 5) (b : BitVec 5)
  /-- OR (R96): Writes gd with the bitwise OR of gs1 and gs2. -/
  | or (d : BitVec 5) (a : BitVec 5) (b : BitVec 5)
  /-- XOR (R96): Writes gd with the bitwise XOR of gs1 and gs2. -/
  | xor (d : BitVec 5) (a : BitVec 5) (b : BitVec 5)
  /-- SLL (R96): Shifts gs1 left by the low six bits of gs2. -/
  | sll (d : BitVec 5) (a : BitVec 5) (b : BitVec 5)
  /-- SRL (R96): Shifts gs1 right with zeros by the low six bits of gs2. -/
  | srl (d : BitVec 5) (a : BitVec 5) (b : BitVec 5)
  /-- SRA (R96): Shifts gs1 right with copies of bit 63 by the low six bits of gs2. -/
  | sra (d : BitVec 5) (a : BitVec 5) (b : BitVec 5)
  /-- ROTL (R96): Rotates gs1 left by the low six bits of gs2. -/
  | rotl (d : BitVec 5) (a : BitVec 5) (b : BitVec 5)
  /-- ROTR (R96): Rotates gs1 right by the low six bits of gs2. -/
  | rotr (d : BitVec 5) (a : BitVec 5) (b : BitVec 5)
  /-- MIN (R96): Writes gd with the signed minimum of gs1 and gs2. -/
  | min (d : BitVec 5) (a : BitVec 5) (b : BitVec 5)
  /-- MAX (R96): Writes gd with the signed maximum of gs1 and gs2. -/
  | max (d : BitVec 5) (a : BitVec 5) (b : BitVec 5)
  /-- MINU (R96): Writes gd with the unsigned minimum of gs1 and gs2. -/
  | minu (d : BitVec 5) (a : BitVec 5) (b : BitVec 5)
  /-- MAXU (R96): Writes gd with the unsigned maximum of gs1 and gs2. -/
  | maxu (d : BitVec 5) (a : BitVec 5) (b : BitVec 5)
  /-- SLT (R96): Writes 1 to gd if gs1 < gs2 signed, else 0. -/
  | slt (d : BitVec 5) (a : BitVec 5) (b : BitVec 5)
  /-- SLTU (R96): Writes 1 to gd if gs1 < gs2 unsigned, else 0. -/
  | sltu (d : BitVec 5) (a : BitVec 5) (b : BitVec 5)
  /-- MUL (R96): Writes the low 64 bits of gs1 times gs2. -/
  | mul (d : BitVec 5) (a : BitVec 5) (b : BitVec 5)
  /-- MULH (R96): Writes the high 64 bits of the signed product. -/
  | mulh (d : BitVec 5) (a : BitVec 5) (b : BitVec 5)
  /-- MULHU (R96): Writes the high 64 bits of the unsigned product. -/
  | mulhu (d : BitVec 5) (a : BitVec 5) (b : BitVec 5)
  /-- DIV (R97): Signed division toward zero that never traps. -/
  | div (d : BitVec 5) (a : BitVec 5) (b : BitVec 5)
  /-- DIVU (R97): Unsigned division that never traps. -/
  | divu (d : BitVec 5) (a : BitVec 5) (b : BitVec 5)
  /-- REM (R97): Signed remainder that never traps. -/
  | rem (d : BitVec 5) (a : BitVec 5) (b : BitVec 5)
  /-- REMU (R97): Unsigned remainder that never traps. -/
  | remu (d : BitVec 5) (a : BitVec 5) (b : BitVec 5)
  /-- CLZ (R96): Counts the leading zero bits of gs1. -/
  | clz (d : BitVec 5) (a : BitVec 5)
  /-- CTZ (R96): Counts the trailing zero bits of gs1. -/
  | ctz (d : BitVec 5) (a : BitVec 5)
  /-- CPOP (R96): Counts the one bits of gs1. -/
  | cpop (d : BitVec 5) (a : BitVec 5)
  /-- ADDSH (R96): Writes gs1 + (gs2 << s) modulo 2^64. -/
  | addsh (d : BitVec 5) (a : BitVec 5) (b : BitVec 5) (s : BitVec 2)
  /-- SLLI (R96): Shifts gs1 left by an immediate amount. -/
  | slli (d : BitVec 5) (a : BitVec 5) (h : BitVec 5) (g : BitVec 1)
  /-- SRLI (R96): Shifts gs1 right with zeros by an immediate amount. -/
  | srli (d : BitVec 5) (a : BitVec 5) (h : BitVec 5) (g : BitVec 1)
  /-- SRAI (R96): Shifts gs1 right arithmetically by an immediate amount. -/
  | srai (d : BitVec 5) (a : BitVec 5) (h : BitVec 5) (g : BitVec 1)
  /-- LDX (R100): Loads from gs1 + (gs2 << s) into gd with the selected size. -/
  | ldx (d : BitVec 5) (a : BitVec 5) (b : BitVec 5) (z : BitVec 3) (s : BitVec 2)
  /-- STX (R100): Stores the low bits of gd at gs1 + (gs2 << s). -/
  | stx (d : BitVec 5) (a : BitVec 5) (b : BitVec 5) (z : BitVec 2) (s : BitVec 2)
  /-- ADDI (R98): Writes gs1 plus a sign-extended 16-bit immediate. -/
  | addi (d : BitVec 5) (a : BitVec 5) (i : BitVec 16)
  /-- ANDI (R98): ANDs gs1 with a sign-extended 14-bit immediate. -/
  | andi (d : BitVec 5) (a : BitVec 5) (k : BitVec 14)
  /-- ORI (R98): ORs gs1 with a sign-extended 14-bit immediate. -/
  | ori (d : BitVec 5) (a : BitVec 5) (k : BitVec 14)
  /-- XORI (R98): XORs gs1 with a sign-extended 14-bit immediate. -/
  | xori (d : BitVec 5) (a : BitVec 5) (k : BitVec 14)
  /-- SLTI (R98): Writes 1 if gs1 is below the signed immediate. -/
  | slti (d : BitVec 5) (a : BitVec 5) (i : BitVec 16)
  /-- LUI (R99): Writes sext(imm20) times 4,096 to gd. -/
  | lui (d : BitVec 5) (i : BitVec 20)
  /-- AUPC (R99): Writes PC plus sext(imm20) times 4,096 to gd. -/
  | aupc (d : BitVec 5) (i : BitVec 20)
  /-- LD (R100): Loads from gs1 + off12 into gd, sign- or zero-extended by size. -/
  | ld (d : BitVec 5) (a : BitVec 5) (z : BitVec 3) (o : BitVec 12)
  /-- ST (R100): Stores the low bits of gd at gs1 + off12. -/
  | st (d : BitVec 5) (a : BitVec 5) (z : BitVec 2) (o : BitVec 12)
  /-- JAL (R108): Links PC + 4 into gd and jumps by off21 words. -/
  | jal (d : BitVec 5) (o : BitVec 21)
  /-- JALR (R108): Jumps to gs1 + imm16, trapping ALIGN on an unaligned target. -/
  | jalr (d : BitVec 5) (a : BitVec 5) (i : BitVec 16)
  /-- CRR (R110): Reads a control register into gd. -/
  | crr (d : BitVec 5) (c : BitVec 12)
  /-- CRW (R110): Writes gs1 to a control register and returns the old value. -/
  | crw (d : BitVec 5) (a : BitVec 5) (c : BitVec 12)
  /-- CRS (R110): Sets the bits of gs1 in a control register and returns the old value. -/
  | crs (d : BitVec 5) (a : BitVec 5) (c : BitVec 12)
  /-- CRC (R110): Clears the bits of gs1 in a control register and returns the old value. -/
  | crc (d : BitVec 5) (a : BitVec 5) (c : BitVec 12)
  /-- SVC (R119): Closes the strip and parks the hart with cause SVC and its code. -/
  | svc (c : BitVec 12)
  /-- BRK (R119): Traps BRK precisely to cr.tvec with the code in cr.eaddr. -/
  | brk (c : BitVec 12)
  /-- NOP (R118): Does nothing. -/
  | nop
  /-- HALT (R118): Closes the strip and ends the hart or lane thread. -/
  | halt
  /-- YIELD (R118): Closes the strip and lets a pending pre-emption save the crew. -/
  | yield
  /-- WFE (R118): Clears the event latch if set, otherwise waits for it. -/
  | wfe
  /-- IFENCE (R118): Closes the strip so later fetches observe earlier stores. -/
  | ifence
  /-- RETT (R122): Returns from a trap to cr.ckpt or cr.epc and clears active. -/
  | rett
  /-- ENRG (R126): Reads the crew's energy account once earlier instructions are charged. -/
  | enrg (d : BitVec 5)
  /-- TOPO (R125): Writes a topology item into gd. -/
  | topo (d : BitVec 5) (i : BitVec 12)
  /-- BANY (R107): Branches when any examined mask bit is 1. -/
  | bany (m : BitVec 6) (o : BitVec 16)
  /-- BALL (R107): Branches when every examined mask bit is 1. -/
  | ball (m : BitVec 6) (o : BitVec 16)
  /-- LOOP (R109): Counts gs[31:0] down and branches while it was non-zero. -/
  | loop (s : BitVec 5) (o : BitVec 16)
  /-- BEQ (R106): Branches when gs1 equals gs2. -/
  | beq (a : BitVec 5) (b : BitVec 5) (o : BitVec 16)
  /-- BNE (R106): Branches when gs1 differs from gs2. -/
  | bne (a : BitVec 5) (b : BitVec 5) (o : BitVec 16)
  /-- BLT (R106): Branches when gs1 < gs2 signed. -/
  | blt (a : BitVec 5) (b : BitVec 5) (o : BitVec 16)
  /-- BGE (R106): Branches when gs1 >= gs2 signed. -/
  | bge (a : BitVec 5) (b : BitVec 5) (o : BitVec 16)
  /-- BLTU (R106): Branches when gs1 < gs2 unsigned. -/
  | bltu (a : BitVec 5) (b : BitVec 5) (o : BitVec 16)
  /-- BGEU (R106): Branches when gs1 >= gs2 unsigned. -/
  | bgeu (a : BitVec 5) (b : BitVec 5) (o : BitVec 16)
  /-- SETVL (R22): Closes the strip and sets VL, RC, VTYPE and grant from AVL in gs1, opening a strip. -/
  | setvl (d : BitVec 5) (a : BitVec 5) (r : BitVec 3) (f : BitVec 4) (g : BitVec 2)
  /-- SETVLQ (R134): Closes the strip, pops AVL from the length queue and sets vector state. -/
  | setvlq (d : BitVec 5) (r : BitVec 3) (f : BitVec 4) (g : BitVec 2)
  /-- VLD (R135): Loads packed rows from B + off into vd. -/
  | vld (v : BitVec 6) (b : BitVec 5) (o : BitVec 6) (m : BitVec 4)
  /-- VLDS (R135): Loads rows at a byte stride held in gs. -/
  | vlds (v : BitVec 6) (b : BitVec 5) (s : BitVec 5) (m : BitVec 4)
  /-- VLDX (R135): Gathers elements from B plus indexed byte offsets. -/
  | vldx (v : BitVec 6) (b : BitVec 5) (x : BitVec 6) (c : BitVec 1) (m : BitVec 4)
  /-- VLDF (R139): Loads as VLD but shortens VL at the first faulting element above the lowest. -/
  | vldf (v : BitVec 6) (b : BitVec 5) (o : BitVec 6) (m : BitVec 4)
  /-- VST (R135): Stores packed rows of vs at B + off through the store buffer. -/
  | vst (v : BitVec 6) (b : BitVec 5) (o : BitVec 6) (c : BitVec 1) (m : BitVec 4)
  /-- VSTS (R135): Stores rows at a byte stride held in gs. -/
  | vsts (v : BitVec 6) (b : BitVec 5) (s : BitVec 5) (c : BitVec 1) (m : BitVec 4)
  /-- VSTX (R135): Scatters elements to B plus indexed byte offsets. -/
  | vstx (v : BitVec 6) (b : BitVec 5) (x : BitVec 6) (c : BitVec 1) (m : BitVec 4)
  /-- VLDZ (R143): Loads and checks sparse blocks, expanding them into vd. -/
  | vldz (v : BitVec 6) (b : BitVec 5) (s : BitVec 5) (m : BitVec 4)
  /-- VSTZ (R142): Stores rows as sparse blocks, raising SPARSE if they exceed the capacity. -/
  | vstz (v : BitVec 6) (b : BitVec 5) (s : BitVec 5) (c : BitVec 1) (m : BitVec 4)
  /-- VLDM (R140): Loads mask bits of each row from memory. -/
  | vldm (v : BitVec 6) (b : BitVec 5) (o : BitVec 6)
  /-- VSTM (R140): Stores mask bits of each row to memory. -/
  | vstm (v : BitVec 6) (b : BitVec 5) (o : BitVec 6)
  /-- VCVT (R151): Converts each active element from the cr.vtype format to tfmt. -/
  | vcvt (d : BitVec 6) (a : BitVec 6) (t : BitVec 4) (s : BitVec 1) (m : BitVec 4) (c : BitVec 1) (r : BitVec 3)
  /-- VMV (R158): Copies each active element. -/
  | vmv (d : BitVec 6) (a : BitVec 6) (m : BitVec 4) (c : BitVec 1) (n : BitVec 1)
  /-- VMVX (R158): Writes element 0 of row 0 of vs1 into gd. -/
  | vmvx (d : BitVec 5) (a : BitVec 6) (c : BitVec 1)
  /-- VBCAST (R158): Writes the low w bits of gs into each active element. -/
  | vbcast (d : BitVec 6) (s : BitVec 5) (m : BitVec 4) (n : BitVec 1)
  /-- VFSQRT (R55): Writes the correctly rounded square root. -/
  | vfsqrt (d : BitVec 6) (a : BitVec 6) (m : BitVec 4) (c : BitVec 1) (n : BitVec 1)
  /-- VFRCP (R59): Computes the reciprocal by the defined algorithm. -/
  | vfrcp (d : BitVec 6) (a : BitVec 6) (m : BitVec 4) (c : BitVec 1) (n : BitVec 1)
  /-- VFRSQ (R60): Computes the reciprocal square root by the defined algorithm. -/
  | vfrsq (d : BitVec 6) (a : BitVec 6) (m : BitVec 4) (c : BitVec 1) (n : BitVec 1)
  /-- VFEXP2 (R57): Computes 2^x by the defined algorithm. -/
  | vfexp2 (d : BitVec 6) (a : BitVec 6) (m : BitVec 4) (c : BitVec 1) (n : BitVec 1)
  /-- VFLOG2 (R58): Computes log2(x) by the defined algorithm. -/
  | vflog2 (d : BitVec 6) (a : BitVec 6) (m : BitVec 4) (c : BitVec 1) (n : BitVec 1)
  /-- VFCLASS (R150): Writes a 4-bit class code per active element. -/
  | vfclass (d : BitVec 6) (a : BitVec 6) (m : BitVec 4) (c : BitVec 1) (n : BitVec 1)
  /-- VFKEY (R152): Writes an order-preserving unsigned key per active element. -/
  | vfkey (d : BitVec 6) (a : BitVec 6) (m : BitVec 4) (c : BitVec 1) (n : BitVec 1)
  /-- VREDSUM (R154): Adds the present elements of each row into element 0 of vd. -/
  | vredsum (d : BitVec 6) (a : BitVec 6) (m : BitVec 4) (c : BitVec 1) (n : BitVec 1)
  /-- VREDMAX (R154): Writes the maximum of the start value and present elements. -/
  | vredmax (d : BitVec 6) (a : BitVec 6) (m : BitVec 4) (c : BitVec 1) (n : BitVec 1)
  /-- VREDMIN (R154): Writes the minimum of the start value and present elements. -/
  | vredmin (d : BitVec 6) (a : BitVec 6) (m : BitVec 4) (c : BitVec 1) (n : BitVec 1)
  /-- VFREDSUM (R155): Sums each row by the fixed tree and combines with the .f32 start value. -/
  | vfredsum (d : BitVec 6) (a : BitVec 6) (m : BitVec 4) (c : BitVec 1) (n : BitVec 1)
  /-- VFREDMAX (R155): Takes each row's maximum by the fixed tree and combines with the start value. -/
  | vfredmax (d : BitVec 6) (a : BitVec 6) (m : BitVec 4) (c : BitVec 1) (n : BitVec 1)
  /-- MAND (R157): Writes x AND y per mask bit. -/
  | mand (d : BitVec 6) (a : BitVec 6) (b : BitVec 6)
  /-- MOR (R157): Writes x OR y per mask bit. -/
  | mor (d : BitVec 6) (a : BitVec 6) (b : BitVec 6)
  /-- MXOR (R157): Writes x XOR y per mask bit. -/
  | mxor (d : BitVec 6) (a : BitVec 6) (b : BitVec 6)
  /-- MANDN (R157): Writes x AND NOT y per mask bit. -/
  | mandn (d : BitVec 6) (a : BitVec 6) (b : BitVec 6)
  /-- MNOT (R157): Writes NOT x per mask bit. -/
  | mnot (d : BitVec 6) (a : BitVec 6)
  /-- MSET (R157): Sets every mask bit below VL. -/
  | mset (d : BitVec 6)
  /-- MFIRST (R157): Writes the lowest set element of row 0 into gd, or -1. -/
  | mfirst (d : BitVec 5) (a : BitVec 6)
  /-- MPOP (R157): Writes the count of set elements over all rows into gd. -/
  | mpop (d : BitVec 5) (a : BitVec 6)
  /-- MPOPQ (R157): Pushes each row's set-element count tentatively into the length queue. -/
  | mpopq (a : BitVec 6)
  /-- MIOTA (R157): Writes each element with the count of set bits below it. -/
  | miota (d : BitVec 6) (a : BitVec 6)
  /-- VSPLIT (R163): Closes the strip and starts lane threads on the granted lanes. -/
  | vsplit (w : BitVec 1)
  /-- VJOIN (R165): Makes a lane thread wait until all active lane threads join. -/
  | vjoin
  /-- REPF (R81): Captures the next n instructions and replays them count times with staggered registers. -/
  | repf (n : BitVec 4) (v : BitVec 6) (g : BitVec 5) (s : BitVec 5)
  /-- VMERGE (R159): Interleaves vs1 and vs2 elements into vd. -/
  | vmerge (d : BitVec 6) (a : BitVec 6) (b : BitVec 6) (m : BitVec 4) (c : BitVec 1) (e : BitVec 1)
  /-- VSLIDEUP (R159): Slides elements of vs1 up by gs. -/
  | vslideup (d : BitVec 6) (a : BitVec 6) (s : BitVec 5) (m : BitVec 4) (c : BitVec 1) (n : BitVec 1)
  /-- VSLIDEDN (R159): Slides elements of vs1 down by gs. -/
  | vslidedn (d : BitVec 6) (a : BitVec 6) (s : BitVec 5) (m : BitVec 4) (c : BitVec 1) (n : BitVec 1)
  /-- VPERM (R159): Permutes vs1 by indices in vs2. -/
  | vperm (d : BitVec 6) (a : BitVec 6) (b : BitVec 6) (m : BitVec 4) (c : BitVec 1) (e : BitVec 1)
  /-- VCOMPRESS (R161): Packs the gated elements of each row to the low positions. -/
  | vcompress (d : BitVec 6) (a : BitVec 6) (m : BitVec 4) (c : BitVec 1) (n : BitVec 1)
  /-- VINCX (R162): Adds increments into bins named by indices. -/
  | vincx (d : BitVec 6) (a : BitVec 6) (b : BitVec 6) (m : BitVec 4) (c : BitVec 1) (e : BitVec 1)
  /-- VIDX (R160): Writes start + (i*VL + e) * step into each active element. -/
  | vidx (d : BitVec 6) (a : BitVec 5) (b : BitVec 5) (m : BitVec 4) (n : BitVec 1)
  /-- VADD_VV (R144): Adds vector elements modulo 2^w. -/
  | vaddVv (d : BitVec 6) (a : BitVec 6) (b : BitVec 6) (m : BitVec 4) (c : BitVec 1) (e : BitVec 1)
  /-- VSUB_VV (R144): Subtracts vector elements modulo 2^w. -/
  | vsubVv (d : BitVec 6) (a : BitVec 6) (b : BitVec 6) (m : BitVec 4) (c : BitVec 1) (e : BitVec 1)
  /-- VMUL_VV (R144): Multiplies vector elements modulo 2^w. -/
  | vmulVv (d : BitVec 6) (a : BitVec 6) (b : BitVec 6) (m : BitVec 4) (c : BitVec 1) (e : BitVec 1)
  /-- VMULH_VV (R144): Writes the high half of the exact product. -/
  | vmulhVv (d : BitVec 6) (a : BitVec 6) (b : BitVec 6) (m : BitVec 4) (c : BitVec 1) (e : BitVec 1)
  /-- VADD_VS (R144): Adds a scalar to vector elements. -/
  | vaddVs (d : BitVec 6) (a : BitVec 6) (s : BitVec 5) (m : BitVec 4) (c : BitVec 1) (n : BitVec 1)
  /-- VSUB_VS (R144): Subtracts a scalar from vector elements. -/
  | vsubVs (d : BitVec 6) (a : BitVec 6) (s : BitVec 5) (m : BitVec 4) (c : BitVec 1) (n : BitVec 1)
  /-- VMUL_VS (R144): Multiplies vector elements by a scalar. -/
  | vmulVs (d : BitVec 6) (a : BitVec 6) (s : BitVec 5) (m : BitVec 4) (c : BitVec 1) (n : BitVec 1)
  /-- VMULH_VS (R144): High half of vector times scalar. -/
  | vmulhVs (d : BitVec 6) (a : BitVec 6) (s : BitVec 5) (m : BitVec 4) (c : BitVec 1) (n : BitVec 1)
  /-- VADD_VI (R144): Adds an immediate to vector elements. -/
  | vaddVi (d : BitVec 6) (a : BitVec 6) (k : BitVec 6) (m : BitVec 4) (c : BitVec 1) (n : BitVec 1)
  /-- VSUB_VI (R144): Subtracts an immediate from vector elements. -/
  | vsubVi (d : BitVec 6) (a : BitVec 6) (k : BitVec 6) (m : BitVec 4) (c : BitVec 1) (n : BitVec 1)
  /-- VMUL_VI (R144): Multiplies vector elements by an immediate. -/
  | vmulVi (d : BitVec 6) (a : BitVec 6) (k : BitVec 6) (m : BitVec 4) (c : BitVec 1) (n : BitVec 1)
  /-- VMULH_VI (R144): High half of vector times immediate. -/
  | vmulhVi (d : BitVec 6) (a : BitVec 6) (k : BitVec 6) (m : BitVec 4) (c : BitVec 1) (n : BitVec 1)
  /-- VMAC_VV (R144): Accumulates vs1 times vs2 into vd. -/
  | vmacVv (d : BitVec 6) (a : BitVec 6) (b : BitVec 6) (m : BitVec 4) (c : BitVec 1) (e : BitVec 1)
  /-- VMIN_VV (R144): Writes the lesser of two vector elements. -/
  | vminVv (d : BitVec 6) (a : BitVec 6) (b : BitVec 6) (m : BitVec 4) (c : BitVec 1) (e : BitVec 1)
  /-- VMAX_VV (R144): Writes the greater of two vector elements. -/
  | vmaxVv (d : BitVec 6) (a : BitVec 6) (b : BitVec 6) (m : BitVec 4) (c : BitVec 1) (e : BitVec 1)
  /-- VABSD_VV (R144): Writes the absolute difference of two vector elements. -/
  | vabsdVv (d : BitVec 6) (a : BitVec 6) (b : BitVec 6) (m : BitVec 4) (c : BitVec 1) (e : BitVec 1)
  /-- VMAC_VS (R144): Accumulates vs1 times a scalar into vd. -/
  | vmacVs (d : BitVec 6) (a : BitVec 6) (s : BitVec 5) (m : BitVec 4) (c : BitVec 1) (n : BitVec 1)
  /-- VMIN_VS (R144): Lesser of element and scalar. -/
  | vminVs (d : BitVec 6) (a : BitVec 6) (s : BitVec 5) (m : BitVec 4) (c : BitVec 1) (n : BitVec 1)
  /-- VMAX_VS (R144): Greater of element and scalar. -/
  | vmaxVs (d : BitVec 6) (a : BitVec 6) (s : BitVec 5) (m : BitVec 4) (c : BitVec 1) (n : BitVec 1)
  /-- VABSD_VS (R144): Absolute difference of element and scalar. -/
  | vabsdVs (d : BitVec 6) (a : BitVec 6) (s : BitVec 5) (m : BitVec 4) (c : BitVec 1) (n : BitVec 1)
  /-- VMAC_VI (R144): Accumulates vs1 times an immediate into vd. -/
  | vmacVi (d : BitVec 6) (a : BitVec 6) (k : BitVec 6) (m : BitVec 4) (c : BitVec 1) (n : BitVec 1)
  /-- VMIN_VI (R144): Lesser of element and immediate. -/
  | vminVi (d : BitVec 6) (a : BitVec 6) (k : BitVec 6) (m : BitVec 4) (c : BitVec 1) (n : BitVec 1)
  /-- VMAX_VI (R144): Greater of element and immediate. -/
  | vmaxVi (d : BitVec 6) (a : BitVec 6) (k : BitVec 6) (m : BitVec 4) (c : BitVec 1) (n : BitVec 1)
  /-- VABSD_VI (R144): Absolute difference of element and immediate. -/
  | vabsdVi (d : BitVec 6) (a : BitVec 6) (k : BitVec 6) (m : BitVec 4) (c : BitVec 1) (n : BitVec 1)
  /-- VAND_VV (R144): Bitwise AND of vector elements. -/
  | vandVv (d : BitVec 6) (a : BitVec 6) (b : BitVec 6) (m : BitVec 4) (c : BitVec 1) (e : BitVec 1)
  /-- VOR_VV (R144): Bitwise OR of vector elements. -/
  | vorVv (d : BitVec 6) (a : BitVec 6) (b : BitVec 6) (m : BitVec 4) (c : BitVec 1) (e : BitVec 1)
  /-- VXOR_VV (R144): Bitwise XOR of vector elements. -/
  | vxorVv (d : BitVec 6) (a : BitVec 6) (b : BitVec 6) (m : BitVec 4) (c : BitVec 1) (e : BitVec 1)
  /-- VSLL_VV (R144): Shifts elements left by vector amounts. -/
  | vsllVv (d : BitVec 6) (a : BitVec 6) (b : BitVec 6) (m : BitVec 4) (c : BitVec 1) (e : BitVec 1)
  /-- VAND_VS (R144): Bitwise AND with a scalar. -/
  | vandVs (d : BitVec 6) (a : BitVec 6) (s : BitVec 5) (m : BitVec 4) (c : BitVec 1) (n : BitVec 1)
  /-- VOR_VS (R144): Bitwise OR with a scalar. -/
  | vorVs (d : BitVec 6) (a : BitVec 6) (s : BitVec 5) (m : BitVec 4) (c : BitVec 1) (n : BitVec 1)
  /-- VXOR_VS (R144): Bitwise XOR with a scalar. -/
  | vxorVs (d : BitVec 6) (a : BitVec 6) (s : BitVec 5) (m : BitVec 4) (c : BitVec 1) (n : BitVec 1)
  /-- VSLL_VS (R144): Shifts elements left by a scalar amount. -/
  | vsllVs (d : BitVec 6) (a : BitVec 6) (s : BitVec 5) (m : BitVec 4) (c : BitVec 1) (n : BitVec 1)
  /-- VAND_VI (R144): Bitwise AND with an immediate. -/
  | vandVi (d : BitVec 6) (a : BitVec 6) (k : BitVec 6) (m : BitVec 4) (c : BitVec 1) (n : BitVec 1)
  /-- VOR_VI (R144): Bitwise OR with an immediate. -/
  | vorVi (d : BitVec 6) (a : BitVec 6) (k : BitVec 6) (m : BitVec 4) (c : BitVec 1) (n : BitVec 1)
  /-- VXOR_VI (R144): Bitwise XOR with an immediate. -/
  | vxorVi (d : BitVec 6) (a : BitVec 6) (k : BitVec 6) (m : BitVec 4) (c : BitVec 1) (n : BitVec 1)
  /-- VSLL_VI (R144): Shifts elements left by an immediate amount. -/
  | vsllVi (d : BitVec 6) (a : BitVec 6) (k : BitVec 6) (m : BitVec 4) (c : BitVec 1) (n : BitVec 1)
  /-- VSRL_VV (R144): Logical right shift by vector amounts. -/
  | vsrlVv (d : BitVec 6) (a : BitVec 6) (b : BitVec 6) (m : BitVec 4) (c : BitVec 1) (e : BitVec 1)
  /-- VSRA_VV (R144): Arithmetic right shift by vector amounts. -/
  | vsraVv (d : BitVec 6) (a : BitVec 6) (b : BitVec 6) (m : BitVec 4) (c : BitVec 1) (e : BitVec 1)
  /-- VSADD_VV (R144): Saturating add of vector elements. -/
  | vsaddVv (d : BitVec 6) (a : BitVec 6) (b : BitVec 6) (m : BitVec 4) (c : BitVec 1) (e : BitVec 1)
  /-- VSSUB_VV (R144): Saturating subtract of vector elements. -/
  | vssubVv (d : BitVec 6) (a : BitVec 6) (b : BitVec 6) (m : BitVec 4) (c : BitVec 1) (e : BitVec 1)
  /-- VSRL_VS (R144): Logical right shift by a scalar. -/
  | vsrlVs (d : BitVec 6) (a : BitVec 6) (s : BitVec 5) (m : BitVec 4) (c : BitVec 1) (n : BitVec 1)
  /-- VSRA_VS (R144): Arithmetic right shift by a scalar. -/
  | vsraVs (d : BitVec 6) (a : BitVec 6) (s : BitVec 5) (m : BitVec 4) (c : BitVec 1) (n : BitVec 1)
  /-- VSADD_VS (R144): Saturating add of a scalar. -/
  | vsaddVs (d : BitVec 6) (a : BitVec 6) (s : BitVec 5) (m : BitVec 4) (c : BitVec 1) (n : BitVec 1)
  /-- VSSUB_VS (R144): Saturating subtract of a scalar. -/
  | vssubVs (d : BitVec 6) (a : BitVec 6) (s : BitVec 5) (m : BitVec 4) (c : BitVec 1) (n : BitVec 1)
  /-- VSRL_VI (R144): Logical right shift by an immediate. -/
  | vsrlVi (d : BitVec 6) (a : BitVec 6) (k : BitVec 6) (m : BitVec 4) (c : BitVec 1) (n : BitVec 1)
  /-- VSRA_VI (R144): Arithmetic right shift by an immediate. -/
  | vsraVi (d : BitVec 6) (a : BitVec 6) (k : BitVec 6) (m : BitVec 4) (c : BitVec 1) (n : BitVec 1)
  /-- VSADD_VI (R144): Saturating add of an immediate. -/
  | vsaddVi (d : BitVec 6) (a : BitVec 6) (k : BitVec 6) (m : BitVec 4) (c : BitVec 1) (n : BitVec 1)
  /-- VSSUB_VI (R144): Saturating subtract of an immediate. -/
  | vssubVi (d : BitVec 6) (a : BitVec 6) (k : BitVec 6) (m : BitVec 4) (c : BitVec 1) (n : BitVec 1)
  /-- VWADD_VV (R145): Widening exact add into 2w-bit elements. -/
  | vwaddVv (d : BitVec 6) (a : BitVec 6) (b : BitVec 6) (m : BitVec 4) (c : BitVec 1) (e : BitVec 1)
  /-- VWMUL_VV (R145): Widening exact multiply into 2w-bit elements. -/
  | vwmulVv (d : BitVec 6) (a : BitVec 6) (b : BitVec 6) (m : BitVec 4) (c : BitVec 1) (e : BitVec 1)
  /-- VNSR_VV (R145): Narrowing rounding saturating right shift. -/
  | vnsrVv (d : BitVec 6) (a : BitVec 6) (b : BitVec 6) (m : BitVec 4) (c : BitVec 1) (e : BitVec 1)
  /-- VBEXT_VV (R153): Extracts 4-bit digits selected by vector elements. -/
  | vbextVv (d : BitVec 6) (a : BitVec 6) (b : BitVec 6) (m : BitVec 4) (c : BitVec 1) (e : BitVec 1)
  /-- VWADD_VS (R145): Widening add of a scalar. -/
  | vwaddVs (d : BitVec 6) (a : BitVec 6) (s : BitVec 5) (m : BitVec 4) (c : BitVec 1) (n : BitVec 1)
  /-- VWMUL_VS (R145): Widening multiply by a scalar. -/
  | vwmulVs (d : BitVec 6) (a : BitVec 6) (s : BitVec 5) (m : BitVec 4) (c : BitVec 1) (n : BitVec 1)
  /-- VNSR_VS (R145): Narrowing shift by a scalar amount. -/
  | vnsrVs (d : BitVec 6) (a : BitVec 6) (s : BitVec 5) (m : BitVec 4) (c : BitVec 1) (n : BitVec 1)
  /-- VBEXT_VS (R153): Extracts the 4-bit digit selected by a scalar. -/
  | vbextVs (d : BitVec 6) (a : BitVec 6) (s : BitVec 5) (m : BitVec 4) (c : BitVec 1) (n : BitVec 1)
  /-- VWADD_VI (R145): Widening add of an immediate. -/
  | vwaddVi (d : BitVec 6) (a : BitVec 6) (k : BitVec 6) (m : BitVec 4) (c : BitVec 1) (n : BitVec 1)
  /-- VWMUL_VI (R145): Widening multiply by an immediate. -/
  | vwmulVi (d : BitVec 6) (a : BitVec 6) (k : BitVec 6) (m : BitVec 4) (c : BitVec 1) (n : BitVec 1)
  /-- VNSR_VI (R145): Narrowing shift by an immediate amount. -/
  | vnsrVi (d : BitVec 6) (a : BitVec 6) (k : BitVec 6) (m : BitVec 4) (c : BitVec 1) (n : BitVec 1)
  /-- VBEXT_VI (R153): Extracts the 4-bit digit selected by an immediate. -/
  | vbextVi (d : BitVec 6) (a : BitVec 6) (k : BitVec 6) (m : BitVec 4) (c : BitVec 1) (n : BitVec 1)
  /-- VCMP_VV (R146): Compares vector elements and writes mask bits by the condition. -/
  | vcmpVv (d : BitVec 6) (a : BitVec 6) (b : BitVec 6) (m : BitVec 4) (c : BitVec 1) (e : BitVec 1) (q : BitVec 2)
  /-- VCMP_VS (R146): Compares elements with a scalar into mask bits. -/
  | vcmpVs (d : BitVec 6) (a : BitVec 6) (s : BitVec 5) (m : BitVec 4) (c : BitVec 1) (n : BitVec 1) (q : BitVec 2)
  /-- VCMP_VI (R146): Compares elements with an immediate into mask bits. -/
  | vcmpVi (d : BitVec 6) (a : BitVec 6) (k : BitVec 6) (m : BitVec 4) (c : BitVec 1) (n : BitVec 1) (q : BitVec 2)
  /-- VFADD_VV (R147): Floating-point add under DYN rounding. -/
  | vfaddVv (d : BitVec 6) (a : BitVec 6) (b : BitVec 6) (m : BitVec 4) (c : BitVec 1) (e : BitVec 1)
  /-- VFSUB_VV (R147): Floating-point subtract. -/
  | vfsubVv (d : BitVec 6) (a : BitVec 6) (b : BitVec 6) (m : BitVec 4) (c : BitVec 1) (e : BitVec 1)
  /-- VFMUL_VV (R147): Floating-point multiply. -/
  | vfmulVv (d : BitVec 6) (a : BitVec 6) (b : BitVec 6) (m : BitVec 4) (c : BitVec 1) (e : BitVec 1)
  /-- VFMA_VV (R147): Fused multiply-add into vd with one rounding. -/
  | vfmaVv (d : BitVec 6) (a : BitVec 6) (b : BitVec 6) (m : BitVec 4) (c : BitVec 1) (e : BitVec 1)
  /-- VFADD_VS (R147): Floating-point add of a scalar. -/
  | vfaddVs (d : BitVec 6) (a : BitVec 6) (s : BitVec 5) (m : BitVec 4) (c : BitVec 1) (n : BitVec 1)
  /-- VFSUB_VS (R147): Floating-point subtract of a scalar. -/
  | vfsubVs (d : BitVec 6) (a : BitVec 6) (s : BitVec 5) (m : BitVec 4) (c : BitVec 1) (n : BitVec 1)
  /-- VFMUL_VS (R147): Floating-point multiply by a scalar. -/
  | vfmulVs (d : BitVec 6) (a : BitVec 6) (s : BitVec 5) (m : BitVec 4) (c : BitVec 1) (n : BitVec 1)
  /-- VFMA_VS (R147): Fused multiply-add with a scalar. -/
  | vfmaVs (d : BitVec 6) (a : BitVec 6) (s : BitVec 5) (m : BitVec 4) (c : BitVec 1) (n : BitVec 1)
  /-- VFDIV_VV (R55): Correctly rounded division. -/
  | vfdivVv (d : BitVec 6) (a : BitVec 6) (b : BitVec 6) (m : BitVec 4) (c : BitVec 1) (e : BitVec 1)
  /-- VFMIN_VV (R147): Floating-point minimum. -/
  | vfminVv (d : BitVec 6) (a : BitVec 6) (b : BitVec 6) (m : BitVec 4) (c : BitVec 1) (e : BitVec 1)
  /-- VFMAX_VV (R147): Floating-point maximum. -/
  | vfmaxVv (d : BitVec 6) (a : BitVec 6) (b : BitVec 6) (m : BitVec 4) (c : BitVec 1) (e : BitVec 1)
  /-- VFDIV_VS (R55): Division by a scalar. -/
  | vfdivVs (d : BitVec 6) (a : BitVec 6) (s : BitVec 5) (m : BitVec 4) (c : BitVec 1) (n : BitVec 1)
  /-- VFMIN_VS (R147): Floating-point minimum with a scalar. -/
  | vfminVs (d : BitVec 6) (a : BitVec 6) (s : BitVec 5) (m : BitVec 4) (c : BitVec 1) (n : BitVec 1)
  /-- VFMAX_VS (R147): Floating-point maximum with a scalar. -/
  | vfmaxVs (d : BitVec 6) (a : BitVec 6) (s : BitVec 5) (m : BitVec 4) (c : BitVec 1) (n : BitVec 1)
  /-- VFCMP_VV (R148): Floating-point compare into mask bits by condition. -/
  | vfcmpVv (d : BitVec 6) (a : BitVec 6) (b : BitVec 6) (m : BitVec 4) (c : BitVec 1) (e : BitVec 1) (q : BitVec 2)
  /-- VFCMP_VS (R148): Floating-point compare with a scalar into mask bits. -/
  | vfcmpVs (d : BitVec 6) (a : BitVec 6) (s : BitVec 5) (m : BitVec 4) (c : BitVec 1) (n : BitVec 1) (q : BitVec 2)
  /-- TLD (R171): Loads 32 memory rows into a tile register. -/
  | tld (y : BitVec 3) (a : BitVec 5) (b : BitVec 5)
  /-- TLDT (R171): Transposing load of memory rows into a tile. -/
  | tldt (y : BitVec 3) (a : BitVec 5) (b : BitVec 5)
  /-- TLDC (R174): Decodes one coded chunk into a tile by staged release. -/
  | tldc (y : BitVec 3) (a : BitVec 5) (b : BitVec 5)
  /-- TST (R171): Stores tile rows to memory through the store buffer. -/
  | tst (y : BitVec 3) (a : BitVec 5) (b : BitVec 5)
  /-- TSTC (R171): Stores tile columns as memory rows. -/
  | tstc (y : BitVec 3) (a : BitVec 5) (b : BitVec 5)
  /-- TMVR (R176): Moves tile rows to or from vector rows with conversion. -/
  | tmvr (y : BitVec 3) (v : BitVec 6) (i : BitVec 5) (t : BitVec 4) (r : BitVec 3) (d : BitVec 1)
  /-- TMVC (R176): Moves tile columns into vector rows with conversion. -/
  | tmvc (y : BitVec 3) (v : BitVec 6) (i : BitVec 5) (t : BitVec 4) (r : BitVec 3)
  /-- TZERO (R176): Zeroes every byte of a tile register. -/
  | tzero (y : BitVec 3)
  /-- SCLD (R179): Loads one .f32 scale into a slot of m46 or m47. -/
  | scld (g : BitVec 5) (k : BitVec 1) (s : BitVec 4) (o : BitVec 12)
  /-- VMT (R181): Multiplies source rows by tile blocks into accumulators with one rounding per pass. -/
  | vmt (d : BitVec 6) (a : BitVec 6) (y : BitVec 3) (r : BitVec 3) (m : BitVec 4) (c : BitVec 1) (s : BitVec 1) (t : BitVec 2)
  /-- AMOADD (R184): Atomically adds gs2 at gs1 and returns the old value. -/
  | amoadd (d : BitVec 5) (a : BitVec 5) (b : BitVec 5) (o : BitVec 2) (p : BitVec 2) (z : BitVec 2)
  /-- AMOSWAP (R184): Atomically swaps gs2 into memory. -/
  | amoswap (d : BitVec 5) (a : BitVec 5) (b : BitVec 5) (o : BitVec 2) (p : BitVec 2) (z : BitVec 2)
  /-- AMOCAS (R184): Atomically writes gs2 if memory equals gd. -/
  | amocas (d : BitVec 5) (a : BitVec 5) (b : BitVec 5) (o : BitVec 2) (p : BitVec 2) (z : BitVec 2)
  /-- AMOMIN (R184): Atomically writes the lesser value. -/
  | amomin (d : BitVec 5) (a : BitVec 5) (b : BitVec 5) (o : BitVec 2) (p : BitVec 2) (z : BitVec 2)
  /-- AMOMAX (R184): Atomically writes the greater value. -/
  | amomax (d : BitVec 5) (a : BitVec 5) (b : BitVec 5) (o : BitVec 2) (p : BitVec 2) (z : BitVec 2)
  /-- AMOAND (R184): Atomic bitwise AND. -/
  | amoand (d : BitVec 5) (a : BitVec 5) (b : BitVec 5) (o : BitVec 2) (p : BitVec 2) (z : BitVec 2)
  /-- AMOOR (R184): Atomic bitwise OR. -/
  | amoor (d : BitVec 5) (a : BitVec 5) (b : BitVec 5) (o : BitVec 2) (p : BitVec 2) (z : BitVec 2)
  /-- AMOXOR (R184): Atomic bitwise XOR. -/
  | amoxor (d : BitVec 5) (a : BitVec 5) (b : BitVec 5) (o : BitVec 2) (p : BitVec 2) (z : BitVec 2)
  /-- AMOFADD (R184): Atomic .f32 add under DYN rounding. -/
  | amofadd (d : BitVec 5) (a : BitVec 5) (b : BitVec 5) (o : BitVec 2) (p : BitVec 2)
  /-- LDACQ (R188): Load with acquire meaning at its scope. -/
  | ldacq (d : BitVec 5) (a : BitVec 5) (p : BitVec 2) (z : BitVec 3)
  /-- STREL (R188): Store with release meaning at its scope, after side-log replay. -/
  | strel (a : BitVec 5) (b : BitVec 5) (p : BitVec 2) (z : BitVec 2)
  /-- FENCE (R189): Closes the strip and acts as release and acquire for the named kinds at its scope. -/
  | fence (k : BitVec 3) (p : BitVec 2)
  /-- BOINIT (R193): Initialises a barrier object with an expected count. -/
  | boinit (a : BitVec 5) (b : BitVec 5)
  /-- BOEXP (R193): Adds to expected and returns the phase token. -/
  | boexp (d : BitVec 5) (a : BitVec 5) (b : BitVec 5)
  /-- BOADD (R193): Releases at panel scope and arrives with gs2. -/
  | boadd (d : BitVec 5) (a : BitVec 5) (b : BitVec 5)
  /-- BOARR (R193): Arrives with gs2 and then waits for the phase to change. -/
  | boarr (d : BitVec 5) (a : BitVec 5) (b : BitVec 5)
  /-- BOWAIT (R194): Waits until the phase differs from the token, then acquires. -/
  | bowait (d : BitVec 5) (a : BitVec 5) (b : BitVec 5)
  /-- CBAR (R196): Arrives at the crew barrier and waits for every member. -/
  | cbar
  /-- TBAR (R196): Arrives at the train barrier and waits for every member. -/
  | tbar
  /-- SCOPY (R199): Checks and queues a shaped copy on the stream engine. -/
  | scopy (d : BitVec 5) (a : BitVec 5) (b : BitVec 5)
  /-- SFILL (R199): Checks and queues a shaped fill on the stream engine. -/
  | sfill (d : BitVec 5) (a : BitVec 5) (b : BitVec 5)
  /-- SGATH (R200): Checks and queues a gather from crew holds into the local hold. -/
  | sgath (d : BitVec 5) (a : BitVec 5) (b : BitVec 5)
  /-- SSCAT (R200): Checks and queues a scatter from the local hold to crew holds. -/
  | sscat (d : BitVec 5) (a : BitVec 5) (b : BitVec 5)
  /-- LAUNCH (R204): Checks a launch record, releases and appends it to a launch queue. -/
  | launch (d : BitVec 5) (a : BitVec 5) (b : BitVec 5)
  /-- DTLD (R208): Loads entries of the hart's decoder table. -/
  | dtld (a : BitVec 5) (b : BitVec 5)
  /-- CBLOAD (R217): Issues a command that loads a codebook slot. -/
  | cbload (d : BitVec 5) (a : BitVec 5) (x : BitVec 5) (opt : BitVec 8)
  /-- TBUILD (R221): Issues a command that builds lookup tables from activations. -/
  | tbuild (d : BitVec 5) (a : BitVec 5) (x : BitVec 5) (opt : BitVec 8)
  /-- BDTLD (R218): Issues a command that loads bank decoder-table memory. -/
  | bdtld (d : BitVec 5) (a : BitVec 5) (x : BitVec 5) (opt : BitVec 8)
  /-- LKACC (R223): Checks and issues table lookups of index tiles into bank accumulators. -/
  | lkacc (d : BitVec 5) (a : BitVec 5) (x : BitVec 5) (opt : BitVec 8)
  /-- LKRD (R229): Issues a reduction of accumulators into mailbox rows. -/
  | lkrd (d : BitVec 5) (a : BitVec 5) (x : BitVec 5) (opt : BitVec 8)
  /-- LKCLR (R219): Issues a command that sets the accumulator shape and clears accumulators. -/
  | lkclr (d : BitVec 5) (a : BitVec 5) (x : BitVec 5) (opt : BitVec 8)
  /-- RCOPY (R230): Checks and issues an in-DRAM row copy. -/
  | rcopy (d : BitVec 5) (a : BitVec 5) (x : BitVec 5) (opt : BitVec 8)
  /-- RFILL (R230): Checks and issues an in-DRAM zero fill. -/
  | rfill (d : BitVec 5) (a : BitVec 5) (x : BitVec 5) (opt : BitVec 8)
  /-- SEALARM (R233): Seals a weight region panel-wide after writing dirty lines home. -/
  | sealarm (d : BitVec 5) (a : BitVec 5) (x : BitVec 5) (opt : BitVec 8)
  /-- SEALOFF (R234): Clears seals of a region once no LKACC reads it. -/
  | sealoff (d : BitVec 5) (a : BitVec 5) (x : BitVec 5) (opt : BitVec 8)
  /-- STKPASS (R237): Checks and starts a lockage of a stack to its other candidate. -/
  | stkpass (d : BitVec 5) (a : BitVec 5) (x : BitVec 5) (opt : BitVec 8)
  /-- STKQRY (R239): Reads the ownership state of a stack. -/
  | stkqry (d : BitVec 5) (a : BitVec 5) (opt : BitVec 8)
  /-- STRIP_CLOSE (R112): Once earlier instructions complete, releases buffered stores and empties the history buffer. -/
  | stripClose (c : CoreId)
  /-- ELEMENT_CAUSE_TRAP (R117): The vector unit finds an element or engine cause and the hart takes an unwinding trap. -/
  | elementCauseTrap (c : CoreId) (t : TrapInfo)
  /-- ASYNC_CAUSE_TRAP (R87): A pending ECC, LINK or ENERGY cause is taken at an instruction boundary. -/
  | asyncCauseTrap (c : CoreId)
  /-- WFE_WAKE (R118): The event latch is set and a waiting WFE clears it and continues. -/
  | wfeWake (c : CoreId)
  /-- WFE_TIMEOUT (R118): WFE returns after 16,384 cycles without an event. -/
  | wfeTimeout (c : CoreId)
  /-- BOWAIT_RETURN (R194): A waiting BOWAIT or BOARR returns on a phase change and acquires. -/
  | bowaitReturn (c : CoreId)
  /-- BARRIER_RELEASE (R196): The last member reaches a CBAR or TBAR instance and all waiters leave with ordering. -/
  | barrierRelease (c : CoreId)
  /-- SETVLQ_POP_RESUME (R134): A push arrives and a stalled SETVLQ pops it. -/
  | setvlqPopResume (c : CoreId)
  /-- ENGINE_QUEUE_ROOM (R197): A stream command waiting for a full engine queue enters it. -/
  | engineQueueRoom (c : CoreId)
  /-- SEQUENCER_ROOM (R210): A bank command waiting for a full sequencer enters it. -/
  | sequencerRoom (c : CoreId)
  /-- SIDE_LOG_ROOM (R103): A side-log entry frees and a waiting store enters the log. -/
  | sideLogRoom (c : CoreId)
  /-- SEAL_WAIT_DONE (R233): The waits of SEALARM or SEALOFF end and the seal bits change panel-wide. -/
  | sealWaitDone (c : CoreId)
  /-- GATE_RELEASE (R252): The dispatch bucket falls below its level and a held instruction is released and charged. -/
  | gateRelease (c : CoreId)
  /-- LANE_RECLAIM_REQUEST (R253): The die scheduler marks reclaims pending on victim harts and sets their latches. -/
  | laneReclaimRequest (victims : List (CoreId × Nat))
  /-- RECLAIM_TIMEOUT (R253): A victim reaches no SETVL within 20 µs and its crew is pre-empted. -/
  | reclaimTimeout (c : CoreId)
  /-- PREEMPT_REQUEST (R255): The scheduler sends a stop request to every hart of a gang. -/
  | preemptRequest (m : MemberId)
  /-- FORCED_STOP (R256): A hart without a natural stop after 20 µs is unwound and stopped. -/
  | forcedStop (c : CoreId)
  /-- GANG_SAVE_DONE (R258): Every hart has stopped and the crew's context and hold are saved. -/
  | gangSaveDone (m : MemberId)
  /-- CREW_RESUME (R259): A saved crew is restored on chosen dies and cells and resumes. -/
  | crewResume (m : MemberId) (ps : List CrewPlace)
  /-- STREAM_CMD_PERFORM (R199): The stream engine performs a queued command's elements and makes arrivals. -/
  | streamCmdPerform (die p id n : Nat)
  /-- BANK_CMD_START (R213): The sequencer starts a queued bank command on its resources. -/
  | bankCmdStart (stack id : Nat)
  /-- CBLOAD_DONE (R217): The codebook slot is written and the command arrives. -/
  | cbloadDone (stack id : Nat)
  /-- BDTLD_DONE (R218): The bank decoder entries are written and the command arrives. -/
  | bdtldDone (stack id : Nat)
  /-- LKCLR_DONE (R219): Shape is set, accumulators cleared and the command arrives. -/
  | lkclrDone (stack id : Nat)
  /-- TBUILD_TABLE_DONE (R215): One table is built exactly and its count arrives. -/
  | tbuildTableDone (stack id : Nat)
  /-- LKACC_SEGMENT_END (R224): A bank's segment verifies and commits with an arrival, or faults. -/
  | lkaccSegmentEnd (stack id bank : Nat)
  /-- LKRD_DONE (R229): Reduced entries are written to the mailbox and the command arrives. -/
  | lkrdDone (stack id : Nat)
  /-- RCOPY_GRANULE (R231): One 1 KiB granule is copied with write-back and drop of cache lines, then arrives. -/
  | rcopyGranule (stack id i : Nat)
  /-- RFILL_GRANULE (R231): One 1 KiB granule is zero-filled from the zero row, then arrives. -/
  | rfillGranule (stack id i : Nat)
  /-- PARKED_CMD_REJOIN (R228): A parked command rejoins the sequencer once its conditions hold. -/
  | parkedCmdRejoin (stack id : Nat)
  /-- LOCKAGE_CMDS_DRAINED (R306): Old-owner commands have completed, faulted or parked. -/
  | lockageCmdsDrained (stack : Nat)
  /-- LOCKAGE_WRITES_DRAINED (R306): The old owner has drained its write queues to the stack. -/
  | lockageWritesDrained (stack : Nat)
  /-- LOCKAGE_RECALL_DONE (R306): Dirty non-home bytes are recalled and the old owner's lines written back and invalidated. -/
  | lockageRecallDone (stack : Nat)
  /-- LOCKAGE_BROADCAST_DONE (R306): Every die acknowledges the new home and the owner port switches. -/
  | lockageBroadcastDone (stack : Nat)
  /-- REDIRECT_RETRY (R307): A request answered REDIRECT is retried at the new home. -/
  | redirectRetry (c : CoreId)
  /-- NONHOME_EVICTION (R271): A non-home copy is evicted and its dirty bytes merge home. -/
  | nonhomeEviction (die line : Nat)
  /-- PAGE_WALK (R365): A TLB miss walk completes, filling the TLBs or raising PAGE. -/
  | pageWalk (die p : Nat) (va : BitVec 64)
  /-- TLBCMD_WRITE (R371): Starts a panel-wide TLB shoot-down of a range. -/
  | tlbcmdWrite (die : Nat) (v : BitVec 64)
  /-- SHOOTDOWN_DONE (R371): All dies acknowledge and TLBSTAT.busy clears. -/
  | shootdownDone (die : Nat)
  /-- SLREPLAY_WRITE (R377): Replays every side-log entry of a mapped page in log order. -/
  | slreplayWrite (die : Nat) (v : BitVec 64)
  /-- HCTL_RESUME (R376): Resumes the parked hart at its resume PC. -/
  | hctlResume (die : Nat)
  /-- HCTL_FORWARD (R376): Forwards the parked hart's trap to its user handler. -/
  | hctlForward (die : Nat)
  /-- HCTL_END_CREW (R376): Moves the parked hart's crew to Killed. -/
  | hctlEndCrew (die : Nat)
  /-- RT_ENTRY_WRITE (R369): Writes a resident huge-page entry, completing after old translations drain. -/
  | rtEntryWrite (die : Nat) (bcast : Bool) (i : Nat) (high : Bool) (v : BitVec 64)
  /-- HART_CONTEXT_WRITE (R382): Writes the parked hart's context through the HART window. -/
  | hartContextWrite (die off : Nat) (v : BitVec 64)
  /-- FQTAIL_WRITE (R376): Advances the consumed count of the fault ring, freeing room for parked records. -/
  | fqtailWrite (die : Nat) (v : BitVec 64)
  /-- REG_WRITE (R363): Writes a die-control or I/O register that has no row of its own. -/
  | regWrite (die : Nat) (bcast : Bool) (off : Nat) (v : BitVec 64)
  /-- POWER_GOOD (R349): Power good starts the boot ROM, self-test and identity derivation. -/
  | powerGood (temps : List Int)
  /-- ROM_COMPLETE (R349): ROM stage ends and the boot protocol opens on host port 0. -/
  | romComplete
  /-- HEAT_EXIT (R350): Every site reaches -10 °C and all heaters stop. -/
  | heatExit (temps : List Int)
  /-- TRAINING_TEMP_CHECK (R350): Each millisecond during LINKS or DRAM the site temperatures are checked. -/
  | trainingTempCheck (temps : List Int)
  /-- LINKS_DONE (R349): UCIe training of every link completes. -/
  | linksDone
  /-- LOAD_DONE (R349): Firmware is copied and machine firmware starts on every steward core. -/
  | loadDone
  /-- DRAM_TRAIN_DONE (R349): All stacks are trained and repaired. -/
  | dramTrainDone
  /-- MAP_DONE (R357): Cell maps, grade and V-F points are applied. -/
  | mapDone
  /-- HELLO (R352): Answers with an INFO reply. -/
  | bootHello (f : BootFrame)
  /-- BEGIN (R353): Opens a fresh image of the given kind. -/
  | bootBegin (f : BootFrame)
  /-- DATA (R353): Writes image bytes at the offset. -/
  | bootData (f : BootFrame)
  /-- END (R355): Closes the image and answers with the verification verdict. -/
  | bootEnd (f : BootFrame)
  /-- STATUS (R352): Answers with stage, verdicts, heater, abort count and alarm cause. -/
  | bootStatus (f : BootFrame)
  /-- ATTEST (R359): Answers with a signed REPORT over the nonce and image hashes. -/
  | bootAttest (f : BootFrame)
  /-- UNKNOWN_OP (R352): An unknown boot op is answered by op 0xFF with status 1. -/
  | bootUnknownOp (f : BootFrame)
  /-- SECURITY_ALARM (R360): A tamper, glitch or temperature trigger erases keys and halts or interrupts. -/
  | securityAlarm (trigger : AlarmReport)
  /-- RDMA_WRITE (R385): An incoming RDMA WRITE is checked and performed at home. -/
  | rdmaWrite (q : RdmaHead) (data : List (BitVec 8))
  /-- RDMA_READ (R385): An incoming RDMA READ is checked and answered from home. -/
  | rdmaRead (q : RdmaHead) (len : Nat)
  /-- RDMA_COMPARE_SWAP (R385): An incoming 8-byte Compare & Swap is checked and performed at home. -/
  | rdmaCompareSwap (q : RdmaHead) (cmp swap : BitVec 64)
  /-- RDMA_FETCH_ADD (R385): An incoming 8-byte Fetch & Add is checked and performed at home. -/
  | rdmaFetchAdd (q : RdmaHead) (add : BitVec 64)
  /-- RDMA_UNSUPPORTED_OP (R383): An unimplemented operation is answered by NAK Invalid Request. -/
  | rdmaUnsupportedOp (q : RdmaHead)
  /-- NON_RC_PACKET (R383): A UD, UC or XRC packet is dropped and counted. -/
  | nonRcPacket (port : Nat)
  /-- ECN_MARKED_PACKET (R383): An ECN-marked packet is answered by a rate-limited CNP. -/
  | ecnMarkedPacket (qp : Nat)
  /-- CNP_RECEIVED (R383): A received CNP lowers the QP's send rate. -/
  | cnpReceived (qp : Nat)
  /-- CM_REQ (R383): Connection-manager REQ handled by machine firmware. -/
  | cmReq (qp port : Nat)
  /-- CM_REP (R383): Connection-manager REP handled by machine firmware. -/
  | cmRep (qp port : Nat)
  /-- CM_RTU (R383): Connection-manager RTU handled by machine firmware. -/
  | cmRtu (qp : Nat)
  /-- CM_REJ (R383): Connection-manager REJ handled by machine firmware. -/
  | cmRej (qp : Nat)
  /-- CM_DREQ (R383): Connection-manager DREQ handled by machine firmware. -/
  | cmDreq (qp : Nat)
  /-- CM_DREP (R383): Connection-manager DREP handled by machine firmware. -/
  | cmDrep (qp : Nat)
  /-- OUTBOUND_RESPONSE (R386): The response to a device access through an outbound window arrives. -/
  | outboundResponse (id : Nat) (data : List (BitVec 8))
  /-- OUTBOUND_NAK (R386): A NAK or invalid window makes the access fail with LINK. -/
  | outboundNak (id : NakReport)
  /-- CONFIG_REQUEST (R379): Firmware performs a configuration mailbox request and writes cstat and cack2. -/
  | configRequest
  /-- QUEUE_ENABLE (R387): Setting en on a disabled launch queue enables it. -/
  | queueEnable (q : Nat) (d0 d1 : BitVec 64)
  /-- QUEUE_DISABLE (R387): Clearing en stops admission from the queue. -/
  | queueDisable (q : Nat)
  /-- SLOT_READ (R389): Once tail passes a slot the schedulers read and copy the record. -/
  | slotRead (q : Nat)
  /-- ADMISSION_DECISION (R391): On a member becoming Ready or resources freeing, the arbiter places, reserves or pre-empts. -/
  | admissionDecision
  /-- PLACING_COMPLETE (R265): Placing completes, harts start with an acquire and the member is Resident. -/
  | placingComplete (m : MemberId)
  /-- BACKFILL_BOUND_EXPIRY (R392): A back-filled member still resident at its queue bound is pre-empted. -/
  | backfillBoundExpiry (m : MemberId)
  /-- MEMBER_COMPLETE (R396): A member whose harts, commands and side log are done releases and arrives at done. -/
  | memberComplete (m : MemberId)
  /-- CEILING_COMMAND (R403): Firmware applies a submitted ceiling command and sets cack. -/
  | ceilingCommand
  /-- MGMT_POLL (R398): Every 1 ms firmware reads the host fields and applies changes. -/
  | mgmtPoll
  /-- TELEMETRY_WRITE (R398): Every 1 ms firmware writes telemetry under the serial protocol. -/
  | telemetryWrite (t : Telemetry)
  /-- ENERGY_CHARGE (R402): Every µs each die charges measured energy to crew accounts. -/
  | energyCharge (die : Nat) (e : EnergySample)
  /-- DRAIN_HALVE (R404): DPOWER above DBUDGET for 1 ms halves the gate drain. -/
  | drainHalve (die : Nat)
  /-- DRAIN_DOUBLE (R404): DPOWER 10 % below budget for 10 ms doubles the drain. -/
  | drainDouble (die : Nat)
  /-- HEAT_MOVE_CHECK (R406): Every 1 ms crews meeting the conditions are moved to a cooler candidate die. -/
  | heatMoveCheck (temps : List Int)
  /-- THERMAL_BUDGET_STEP (R407): A hot die that cannot shed lowers, or later raises, its budget by one step. -/
  | thermalBudgetStep (die : Nat) (temps : List Int)
  /-- HARD_THERMAL_LIMIT (R408): A site at 105 °C drops the die to VFSEL 0 and an eighth drain. -/
  | hardThermalLimit (die : Nat) (temps : List Int)
  /-- THERMAL_RECOVER (R408): Every site below 100 °C restores the die's point and drain. -/
  | thermalRecover (die : Nat) (temps : List Int)
  /-- COLD_HEATER (R408): A site below -5 °C after release runs the heater on unoccupied cells. -/
  | coldHeater (temps : List Int)
  /-- LANE_GROUP_GATE (R405): A lane group idle 4,096 cycles or uncovered is power-gated. -/
  | laneGroupGate (die p group : Nat)
  /-- LANE_GROUP_WAKE (R405): A gated lane group wakes with 24 cycles before its next operation. -/
  | laneGroupWake (die p group : Nat)
  /-- SUPPLY_DROOP (R405): A 3 % droop stretches the die clock while it lasts. -/
  | supplyDroop (die cycles : Nat)
  /-- VOLTAGE_GUARD_UPDATE (R405): Every 1 ms the hottest site is re-read and the guard voltage applied. -/
  | voltageGuardUpdate (die : Nat) (temps : List Int)
  /-- LINK_RETRAIN (R410): One UCIe module retrains while the others carry traffic. -/
  | linkRetrain (die edge module : Nat) (ok : Retraining)
  /-- DRAM_RETRAIN (R410): A group of eight banks retrains while accesses to it stall. -/
  | dramRetrain (stack group : Nat) (start : Bool)
  /-- DRAM_SCRUB (R411): DRAM is scrubbed every 24 h. -/
  | dramScrub
  /-- SRAM_SCRUB (R411): SRAMs and register files are scrubbed every 10 s. -/
  | sramScrub
  /-- ECC_ERROR (R411): A memory error is corrected and counted, or raises ECC or an event record. -/
  | eccError (e : EccError)
  /-- DIE_DEAD (R413): A die silent for 1 ms is declared dead, its stacks switched and its members killed. -/
  | dieDead (die : Nat)
  /-- ILLEGAL_INSTRUCTION (R69): A fetched word that is unallocated, reserved (majors 0x34, 0x35, 0x3E, 0x3F) or has a non-zero reserved field traps ILLEGAL to the steward. -/
  | illegalInstruction (w : BitVec 32)
  /-- FETCH_FAULT (R105): An instruction fetch below translated memory, without execute permission or without translation traps PERM or PAGE precisely at the fetch address. -/
  | fetchFault (t : TrapInfo)
  /-- POWER_OFF (R349): Loss of supply erases every state of the panel, ending HALTED and the alarm, ahead of the next power good. -/
  | powerOff
  /-- LOCAL_ACK_TIMEOUT (R383): A QP's local ACK timeout expires on an outstanding request and the request is retried, up to the retry count. -/
  | localAckTimeout (qp : Nat)
  /-- PFC_PAUSE_FRAME (R383): A PFC frame received on a port pauses or resumes transmission on one of its priorities. -/
  | pfcPauseFrame (port prio : Nat) (pause : Bool)
  /-- CM_MRA_TIMEOUT (R383): A connection set-up running past 1 ms makes machine firmware send MRA. -/
  | cmMraTimeout (qp : Nat)
  /-- LINK_FLIT_ERROR (R411): A flit error on a die-to-die link is retried and counted in lrt, or, if unrecoverable, makes LINK pending. -/
  | linkFlitError (die : Nat) (lost : Option (CoreId × BitVec 64))
  /-- COLD_HEATER_STOP (R408): When every site reads 0 °C, the post-release heater load on unoccupied cells stops. -/
  | coldHeaterStop (temps : List Int)
  deriving DecidableEq, Repr

end Sys2Proof
end

