-- ==== Sys2Proof/WellFormed.lean ====
section
/-! DEFINITION. Which instructions a word can carry: the register numbers and codes R69 step 2 checks. -/

namespace Sys2Proof

/-- A 6-bit mask-register field names `m0` to `m47` (R65). -/
def maskReg (m : BitVec 6) : Bool := m.toNat < 48

/-- A rounding code is 0 to 4 (R43). -/
def rounding (r : BitVec 3) : Bool := r.toNat < 5

/-- An inverted gate needs a gate: inv = 1 with mask field 0 is illegal (R67). -/
def inverted (n : BitVec 1) (m : BitVec 4) : Bool := n == 0 || m != 0

/-- A load has the size codes 0 to 6 (R73). -/
def loadSize (z : BitVec 3) : Bool := z.toNat < 7

/-- A FENCE names at least one kind (R84). -/
def fenceKinds (k : BitVec 3) : Bool := k != 0

/-- The tile-format selection 3 of VMT is reserved (R83). -/
def tileFormat (t : BitVec 2) : Bool := t != 3

/-- The checks of R69 step 2 that remain once the reserved fields are zero. An event of another agent has no word and
nothing to check. -/
def Instr.wellFormed : Instr → Bool
  | .add _ _ _ => true
  | .sub _ _ _ => true
  | .and _ _ _ => true
  | .or _ _ _ => true
  | .xor _ _ _ => true
  | .sll _ _ _ => true
  | .srl _ _ _ => true
  | .sra _ _ _ => true
  | .rotl _ _ _ => true
  | .rotr _ _ _ => true
  | .min _ _ _ => true
  | .max _ _ _ => true
  | .minu _ _ _ => true
  | .maxu _ _ _ => true
  | .slt _ _ _ => true
  | .sltu _ _ _ => true
  | .mul _ _ _ => true
  | .mulh _ _ _ => true
  | .mulhu _ _ _ => true
  | .div _ _ _ => true
  | .divu _ _ _ => true
  | .rem _ _ _ => true
  | .remu _ _ _ => true
  | .clz _ _ => true
  | .ctz _ _ => true
  | .cpop _ _ => true
  | .addsh _ _ _ _ => true
  | .slli _ _ _ _ => true
  | .srli _ _ _ _ => true
  | .srai _ _ _ _ => true
  | .ldx _ _ _ z _ => loadSize z
  | .stx _ _ _ _ _ => true
  | .addi _ _ _ => true
  | .andi _ _ _ => true
  | .ori _ _ _ => true
  | .xori _ _ _ => true
  | .slti _ _ _ => true
  | .lui _ _ => true
  | .aupc _ _ => true
  | .ld _ _ z _ => loadSize z
  | .st _ _ _ _ => true
  | .jal _ _ => true
  | .jalr _ _ _ => true
  | .crr _ _ => true
  | .crw _ _ _ => true
  | .crs _ _ _ => true
  | .crc _ _ _ => true
  | .svc _ => true
  | .brk _ => true
  | .nop => true
  | .halt => true
  | .yield => true
  | .wfe => true
  | .ifence => true
  | .rett => true
  | .enrg _ => true
  | .topo _ _ => true
  | .bany m _ => maskReg m
  | .ball m _ => maskReg m
  | .loop _ _ => true
  | .beq _ _ _ => true
  | .bne _ _ _ => true
  | .blt _ _ _ => true
  | .bge _ _ _ => true
  | .bltu _ _ _ => true
  | .bgeu _ _ _ => true
  | .setvl _ _ _ _ _ => true
  | .setvlq _ _ _ _ => true
  | .vld _ _ _ _ => true
  | .vlds _ _ _ _ => true
  | .vldx _ _ _ _ _ => true
  | .vldf _ _ _ _ => true
  | .vst _ _ _ _ _ => true
  | .vsts _ _ _ _ _ => true
  | .vstx _ _ _ _ _ => true
  | .vldz _ _ _ _ => true
  | .vstz _ _ _ _ _ => true
  | .vldm v _ _ => maskReg v
  | .vstm v _ _ => maskReg v
  | .vcvt _ _ _ _ _ _ r => rounding r
  | .vmv _ _ m _ n => inverted n m
  | .vmvx _ _ _ => true
  | .vbcast _ _ m n => inverted n m
  | .vfsqrt _ _ m _ n => inverted n m
  | .vfrcp _ _ m _ n => inverted n m
  | .vfrsq _ _ m _ n => inverted n m
  | .vfexp2 _ _ m _ n => inverted n m
  | .vflog2 _ _ m _ n => inverted n m
  | .vfclass _ _ m _ n => inverted n m
  | .vfkey _ _ m _ n => inverted n m
  | .vredsum _ _ m _ n => inverted n m
  | .vredmax _ _ m _ n => inverted n m
  | .vredmin _ _ m _ n => inverted n m
  | .vfredsum _ _ m _ n => inverted n m
  | .vfredmax _ _ m _ n => inverted n m
  | .mand d a b => maskReg d && maskReg a && maskReg b
  | .mor d a b => maskReg d && maskReg a && maskReg b
  | .mxor d a b => maskReg d && maskReg a && maskReg b
  | .mandn d a b => maskReg d && maskReg a && maskReg b
  | .mnot d a => maskReg d && maskReg a
  | .mset d => maskReg d
  | .mfirst _ a => maskReg a
  | .mpop _ a => maskReg a
  | .mpopq a => maskReg a
  | .miota _ a => maskReg a
  | .vsplit _ => true
  | .vjoin => true
  | .repf _ _ _ _ => true
  | .vmerge _ _ _ _ _ _ => true
  | .vslideup _ _ _ m _ n => inverted n m
  | .vslidedn _ _ _ m _ n => inverted n m
  | .vperm _ _ _ _ _ _ => true
  | .vcompress _ _ m _ n => inverted n m
  | .vincx _ _ _ _ _ _ => true
  | .vidx _ _ _ m n => inverted n m
  | .vaddVv _ _ _ _ _ _ => true
  | .vsubVv _ _ _ _ _ _ => true
  | .vmulVv _ _ _ _ _ _ => true
  | .vmulhVv _ _ _ _ _ _ => true
  | .vaddVs _ _ _ m _ n => inverted n m
  | .vsubVs _ _ _ m _ n => inverted n m
  | .vmulVs _ _ _ m _ n => inverted n m
  | .vmulhVs _ _ _ m _ n => inverted n m
  | .vaddVi _ _ _ m _ n => inverted n m
  | .vsubVi _ _ _ m _ n => inverted n m
  | .vmulVi _ _ _ m _ n => inverted n m
  | .vmulhVi _ _ _ m _ n => inverted n m
  | .vmacVv _ _ _ _ _ _ => true
  | .vminVv _ _ _ _ _ _ => true
  | .vmaxVv _ _ _ _ _ _ => true
  | .vabsdVv _ _ _ _ _ _ => true
  | .vmacVs _ _ _ m _ n => inverted n m
  | .vminVs _ _ _ m _ n => inverted n m
  | .vmaxVs _ _ _ m _ n => inverted n m
  | .vabsdVs _ _ _ m _ n => inverted n m
  | .vmacVi _ _ _ m _ n => inverted n m
  | .vminVi _ _ _ m _ n => inverted n m
  | .vmaxVi _ _ _ m _ n => inverted n m
  | .vabsdVi _ _ _ m _ n => inverted n m
  | .vandVv _ _ _ _ _ _ => true
  | .vorVv _ _ _ _ _ _ => true
  | .vxorVv _ _ _ _ _ _ => true
  | .vsllVv _ _ _ _ _ _ => true
  | .vandVs _ _ _ m _ n => inverted n m
  | .vorVs _ _ _ m _ n => inverted n m
  | .vxorVs _ _ _ m _ n => inverted n m
  | .vsllVs _ _ _ m _ n => inverted n m
  | .vandVi _ _ _ m _ n => inverted n m
  | .vorVi _ _ _ m _ n => inverted n m
  | .vxorVi _ _ _ m _ n => inverted n m
  | .vsllVi _ _ _ m _ n => inverted n m
  | .vsrlVv _ _ _ _ _ _ => true
  | .vsraVv _ _ _ _ _ _ => true
  | .vsaddVv _ _ _ _ _ _ => true
  | .vssubVv _ _ _ _ _ _ => true
  | .vsrlVs _ _ _ m _ n => inverted n m
  | .vsraVs _ _ _ m _ n => inverted n m
  | .vsaddVs _ _ _ m _ n => inverted n m
  | .vssubVs _ _ _ m _ n => inverted n m
  | .vsrlVi _ _ _ m _ n => inverted n m
  | .vsraVi _ _ _ m _ n => inverted n m
  | .vsaddVi _ _ _ m _ n => inverted n m
  | .vssubVi _ _ _ m _ n => inverted n m
  | .vwaddVv _ _ _ _ _ _ => true
  | .vwmulVv _ _ _ _ _ _ => true
  | .vnsrVv _ _ _ _ _ _ => true
  | .vbextVv _ _ _ _ _ _ => true
  | .vwaddVs _ _ _ m _ n => inverted n m
  | .vwmulVs _ _ _ m _ n => inverted n m
  | .vnsrVs _ _ _ m _ n => inverted n m
  | .vbextVs _ _ _ m _ n => inverted n m
  | .vwaddVi _ _ _ m _ n => inverted n m
  | .vwmulVi _ _ _ m _ n => inverted n m
  | .vnsrVi _ _ _ m _ n => inverted n m
  | .vbextVi _ _ _ m _ n => inverted n m
  | .vcmpVv d _ _ _ _ _ _ => maskReg d
  | .vcmpVs d _ _ m _ n _ => maskReg d && inverted n m
  | .vcmpVi d _ _ m _ n _ => maskReg d && inverted n m
  | .vfaddVv _ _ _ _ _ _ => true
  | .vfsubVv _ _ _ _ _ _ => true
  | .vfmulVv _ _ _ _ _ _ => true
  | .vfmaVv _ _ _ _ _ _ => true
  | .vfaddVs _ _ _ m _ n => inverted n m
  | .vfsubVs _ _ _ m _ n => inverted n m
  | .vfmulVs _ _ _ m _ n => inverted n m
  | .vfmaVs _ _ _ m _ n => inverted n m
  | .vfdivVv _ _ _ _ _ _ => true
  | .vfminVv _ _ _ _ _ _ => true
  | .vfmaxVv _ _ _ _ _ _ => true
  | .vfdivVs _ _ _ m _ n => inverted n m
  | .vfminVs _ _ _ m _ n => inverted n m
  | .vfmaxVs _ _ _ m _ n => inverted n m
  | .vfcmpVv d _ _ _ _ _ _ => maskReg d
  | .vfcmpVs d _ _ m _ n _ => maskReg d && inverted n m
  | .tld _ _ _ => true
  | .tldt _ _ _ => true
  | .tldc _ _ _ => true
  | .tst _ _ _ => true
  | .tstc _ _ _ => true
  | .tmvr _ _ _ _ r _ => rounding r
  | .tmvc _ _ _ _ r => rounding r
  | .tzero _ => true
  | .scld _ _ _ _ => true
  | .vmt _ _ _ r _ _ _ t => rounding r && tileFormat t
  | .amoadd _ _ _ _ _ _ => true
  | .amoswap _ _ _ _ _ _ => true
  | .amocas _ _ _ _ _ _ => true
  | .amomin _ _ _ _ _ _ => true
  | .amomax _ _ _ _ _ _ => true
  | .amoand _ _ _ _ _ _ => true
  | .amoor _ _ _ _ _ _ => true
  | .amoxor _ _ _ _ _ _ => true
  | .amofadd _ _ _ _ _ => true
  | .ldacq _ _ _ z => loadSize z
  | .strel _ _ _ _ => true
  | .fence k _ => fenceKinds k
  | .boinit _ _ => true
  | .boexp _ _ _ => true
  | .boadd _ _ _ => true
  | .boarr _ _ _ => true
  | .bowait _ _ _ => true
  | .cbar => true
  | .tbar => true
  | .scopy _ _ _ => true
  | .sfill _ _ _ => true
  | .sgath _ _ _ => true
  | .sscat _ _ _ => true
  | .launch _ _ _ => true
  | .dtld _ _ => true
  | .cbload _ _ _ _ => true
  | .tbuild _ _ _ _ => true
  | .bdtld _ _ _ _ => true
  | .lkacc _ _ _ _ => true
  | .lkrd _ _ _ _ => true
  | .lkclr _ _ _ _ => true
  | .rcopy _ _ _ _ => true
  | .rfill _ _ _ _ => true
  | .sealarm _ _ _ _ => true
  | .sealoff _ _ _ _ => true
  | .stkpass _ _ _ _ => true
  | .stkqry _ _ _ => true
  | .stripClose _ => true
  | .elementCauseTrap _ _ => true
  | .asyncCauseTrap _ => true
  | .wfeWake _ => true
  | .wfeTimeout _ => true
  | .bowaitReturn _ => true
  | .barrierRelease _ => true
  | .setvlqPopResume _ => true
  | .engineQueueRoom _ => true
  | .sequencerRoom _ => true
  | .sideLogRoom _ => true
  | .sealWaitDone _ => true
  | .gateRelease _ => true
  | .laneReclaimRequest _ => true
  | .reclaimTimeout _ => true
  | .preemptRequest _ => true
  | .forcedStop _ => true
  | .gangSaveDone _ => true
  | .crewResume _ _ => true
  | .streamCmdPerform _ _ _ _ => true
  | .bankCmdStart _ _ => true
  | .cbloadDone _ _ => true
  | .bdtldDone _ _ => true
  | .lkclrDone _ _ => true
  | .tbuildTableDone _ _ => true
  | .lkaccSegmentEnd _ _ _ => true
  | .lkrdDone _ _ => true
  | .rcopyGranule _ _ _ => true
  | .rfillGranule _ _ _ => true
  | .parkedCmdRejoin _ _ => true
  | .lockageCmdsDrained _ => true
  | .lockageWritesDrained _ => true
  | .lockageRecallDone _ => true
  | .lockageBroadcastDone _ => true
  | .redirectRetry _ => true
  | .nonhomeEviction _ _ => true
  | .pageWalk _ _ _ => true
  | .tlbcmdWrite _ _ => true
  | .shootdownDone _ => true
  | .slreplayWrite _ _ => true
  | .hctlResume _ => true
  | .hctlForward _ => true
  | .hctlEndCrew _ => true
  | .rtEntryWrite _ _ _ _ _ => true
  | .hartContextWrite _ _ _ => true
  | .fqtailWrite _ _ => true
  | .regWrite _ _ _ _ => true
  | .powerGood _ => true
  | .romComplete => true
  | .heatExit _ => true
  | .trainingTempCheck _ => true
  | .linksDone => true
  | .loadDone => true
  | .dramTrainDone => true
  | .mapDone => true
  | .bootHello _ => true
  | .bootBegin _ => true
  | .bootData _ => true
  | .bootEnd _ => true
  | .bootStatus _ => true
  | .bootAttest _ => true
  | .bootUnknownOp _ => true
  | .securityAlarm _ => true
  | .rdmaWrite _ _ => true
  | .rdmaRead _ _ => true
  | .rdmaCompareSwap _ _ _ => true
  | .rdmaFetchAdd _ _ => true
  | .rdmaUnsupportedOp _ => true
  | .nonRcPacket _ => true
  | .ecnMarkedPacket _ => true
  | .cnpReceived _ => true
  | .cmReq _ _ => true
  | .cmRep _ _ => true
  | .cmRtu _ => true
  | .cmRej _ => true
  | .cmDreq _ => true
  | .cmDrep _ => true
  | .outboundResponse _ _ => true
  | .outboundNak _ => true
  | .configRequest => true
  | .queueEnable _ _ _ => true
  | .queueDisable _ => true
  | .slotRead _ => true
  | .admissionDecision => true
  | .placingComplete _ => true
  | .backfillBoundExpiry _ => true
  | .memberComplete _ => true
  | .ceilingCommand => true
  | .mgmtPoll => true
  | .telemetryWrite _ => true
  | .energyCharge _ _ => true
  | .drainHalve _ => true
  | .drainDouble _ => true
  | .heatMoveCheck _ => true
  | .thermalBudgetStep _ _ => true
  | .hardThermalLimit _ _ => true
  | .thermalRecover _ _ => true
  | .coldHeater _ => true
  | .laneGroupGate _ _ _ => true
  | .laneGroupWake _ _ _ => true
  | .supplyDroop _ _ => true
  | .voltageGuardUpdate _ _ => true
  | .linkRetrain _ _ _ _ => true
  | .dramRetrain _ _ _ => true
  | .dramScrub => true
  | .sramScrub => true
  | .eccError _ => true
  | .dieDead _ => true
  | .illegalInstruction _ => true
  | .fetchFault _ => true
  | .powerOff => true
  | .localAckTimeout _ => true
  | .pfcPauseFrame _ _ _ => true
  | .cmMraTimeout _ => true
  | .linkFlitError _ _ => true
  | .coldHeaterStop _ => true

end Sys2Proof
end

