-- ==== Sys2Proof/Decode.lean ====
section
/-! DEFINITION. Decoding a 32-bit instruction word (R64 to R85) and encoding an instruction back into its word. -/

namespace Sys2Proof

/-- Why a word names no instruction (R69 steps 1 and 2). Every one of them traps ILLEGAL. -/
inductive Reject where
  /-- The major, function, sub or variant value is not allocated. -/
  | unallocated
  /-- A reserved field is not zero. -/
  | reserved
  /-- A register number, rounding code, size or selection has no meaning. -/
  | operand
  deriving DecidableEq, Repr

/-- The n-bit field of `w` whose lowest bit is bit `lo`. -/
def fld {n : Nat} (w lo : Nat) : BitVec n := BitVec.ofNat n (w / 2 ^ lo)

/-- The field of `n` bits at `lo` holds `v`. -/
def chk (w lo n v : Nat) : Bool := w / 2 ^ lo % 2 ^ n == v

/-- The instruction when its reserved fields are zero. -/
def need (c : Bool) (i : Instr) : Except Reject Instr := if c then .ok i else .error .reserved

/-- Major 0x00 by its selecting field (R71 to R85). -/
def decode00 (w : Nat) : Except Reject Instr :=
  match w % 2 ^ 6 with
  | 1 => need (chk w 6 5 0) (.add (fld w 21) (fld w 16) (fld w 11))
  | 2 => need (chk w 6 5 0) (.sub (fld w 21) (fld w 16) (fld w 11))
  | 3 => need (chk w 6 5 0) (.and (fld w 21) (fld w 16) (fld w 11))
  | 4 => need (chk w 6 5 0) (.or (fld w 21) (fld w 16) (fld w 11))
  | 5 => need (chk w 6 5 0) (.xor (fld w 21) (fld w 16) (fld w 11))
  | 6 => need (chk w 6 5 0) (.sll (fld w 21) (fld w 16) (fld w 11))
  | 7 => need (chk w 6 5 0) (.srl (fld w 21) (fld w 16) (fld w 11))
  | 8 => need (chk w 6 5 0) (.sra (fld w 21) (fld w 16) (fld w 11))
  | 9 => need (chk w 6 5 0) (.rotl (fld w 21) (fld w 16) (fld w 11))
  | 10 => need (chk w 6 5 0) (.rotr (fld w 21) (fld w 16) (fld w 11))
  | 11 => need (chk w 6 5 0) (.min (fld w 21) (fld w 16) (fld w 11))
  | 12 => need (chk w 6 5 0) (.max (fld w 21) (fld w 16) (fld w 11))
  | 13 => need (chk w 6 5 0) (.minu (fld w 21) (fld w 16) (fld w 11))
  | 14 => need (chk w 6 5 0) (.maxu (fld w 21) (fld w 16) (fld w 11))
  | 15 => need (chk w 6 5 0) (.slt (fld w 21) (fld w 16) (fld w 11))
  | 16 => need (chk w 6 5 0) (.sltu (fld w 21) (fld w 16) (fld w 11))
  | 17 => need (chk w 6 5 0) (.mul (fld w 21) (fld w 16) (fld w 11))
  | 18 => need (chk w 6 5 0) (.mulh (fld w 21) (fld w 16) (fld w 11))
  | 19 => need (chk w 6 5 0) (.mulhu (fld w 21) (fld w 16) (fld w 11))
  | 20 => need (chk w 6 5 0) (.div (fld w 21) (fld w 16) (fld w 11))
  | 21 => need (chk w 6 5 0) (.divu (fld w 21) (fld w 16) (fld w 11))
  | 22 => need (chk w 6 5 0) (.rem (fld w 21) (fld w 16) (fld w 11))
  | 23 => need (chk w 6 5 0) (.remu (fld w 21) (fld w 16) (fld w 11))
  | 24 => need (chk w 6 10 0) (.clz (fld w 21) (fld w 16))
  | 25 => need (chk w 6 10 0) (.ctz (fld w 21) (fld w 16))
  | 26 => need (chk w 6 10 0) (.cpop (fld w 21) (fld w 16))
  | 27 => need (chk w 8 3 0) (.addsh (fld w 21) (fld w 16) (fld w 11) (fld w 6))
  | 28 => need (chk w 7 4 0) (.slli (fld w 21) (fld w 16) (fld w 11) (fld w 6))
  | 29 => need (chk w 7 4 0) (.srli (fld w 21) (fld w 16) (fld w 11) (fld w 6))
  | 30 => need (chk w 7 4 0) (.srai (fld w 21) (fld w 16) (fld w 11) (fld w 6))
  | 32 => .ok (.ldx (fld w 21) (fld w 16) (fld w 11) (fld w 8) (fld w 6))
  | 33 => need (chk w 10 1 0) (.stx (fld w 21) (fld w 16) (fld w 11) (fld w 8) (fld w 6))
  | _ => .error .unallocated

/-- Major 0x02 by its selecting field (R71 to R85). -/
def decode02 (w : Nat) : Except Reject Instr :=
  match w / 2 ^ 14 % 2 ^ 2 with
  | 0 => .ok (.andi (fld w 21) (fld w 16) (fld w 0))
  | 1 => .ok (.ori (fld w 21) (fld w 16) (fld w 0))
  | 2 => .ok (.xori (fld w 21) (fld w 16) (fld w 0))
  | _ => .error .unallocated

/-- Major 0x04 by its selecting field (R71 to R85). -/
def decode04 (w : Nat) : Except Reject Instr :=
  match w / 2 ^ 20 % 2 ^ 1 with
  | 0 => .ok (.lui (fld w 21) (fld w 0))
  | 1 => .ok (.aupc (fld w 21) (fld w 0))
  | _ => .error .unallocated

/-- Major 0x05 by its selecting field (R71 to R85). -/
def decode05 (w : Nat) : Except Reject Instr :=
  match w / 2 ^ 15 % 2 ^ 1 with
  | 0 => .ok (.ld (fld w 21) (fld w 16) (fld w 12) (fld w 0))
  | 1 => need (chk w 14 1 0) (.st (fld w 21) (fld w 16) (fld w 12) (fld w 0))
  | _ => .error .unallocated

/-- The system group, sub 6 of major 0x08 (R74). -/
def decodeSystem (w : Nat) : Except Reject Instr :=
  match w % 2 ^ 12 with
  | 0 => need (chk w 16 10 0) (.nop)
  | 1 => need (chk w 16 10 0) (.halt)
  | 2 => need (chk w 16 10 0) (.yield)
  | 3 => need (chk w 16 10 0) (.wfe)
  | 4 => need (chk w 16 10 0) (.ifence)
  | 5 => need (chk w 16 10 0) (.rett)
  | 6 => need (chk w 16 5 0) (.enrg (fld w 21))
  | _ => .error .unallocated

/-- Major 0x08 by its sub field (R74). -/
def decode08 (w : Nat) : Except Reject Instr :=
  match w / 2 ^ 12 % 2 ^ 4 with
  | 0 => need (chk w 16 5 0) (.crr (fld w 21) (fld w 0))
  | 1 => .ok (.crw (fld w 21) (fld w 16) (fld w 0))
  | 2 => .ok (.crs (fld w 21) (fld w 16) (fld w 0))
  | 3 => .ok (.crc (fld w 21) (fld w 16) (fld w 0))
  | 4 => need (chk w 16 10 0) (.svc (fld w 0))
  | 5 => need (chk w 16 10 0) (.brk (fld w 0))
  | 7 => need (chk w 16 5 0) (.topo (fld w 21) (fld w 0))
  | 6 => decodeSystem w
  | _ => .error .unallocated

/-- Major 0x09 by its selecting field (R71 to R85). -/
def decode09 (w : Nat) : Except Reject Instr :=
  match w / 2 ^ 16 % 2 ^ 4 with
  | 0 => .ok (.bany (fld w 20) (fld w 0))
  | 1 => .ok (.ball (fld w 20) (fld w 0))
  | 2 => need (chk w 25 1 0) (.loop (fld w 20) (fld w 0))
  | _ => .error .unallocated

/-- Major 0x10 by its selecting field (R71 to R85). -/
def decode10 (w : Nat) : Except Reject Instr :=
  match w % 2 ^ 1 with
  | 0 => need (chk w 1 6 0) (.setvl (fld w 21) (fld w 16) (fld w 13) (fld w 9) (fld w 7))
  | 1 => need (chk w 1 6 0 && chk w 16 5 0) (.setvlq (fld w 21) (fld w 13) (fld w 9) (fld w 7))
  | _ => .error .unallocated

/-- Major 0x11 by its selecting field (R71 to R85). -/
def decode11 (w : Nat) : Except Reject Instr :=
  match w % 2 ^ 4 with
  | 0 => need (chk w 8 1 0) (.vld (fld w 20) (fld w 15) (fld w 9) (fld w 4))
  | 1 => need (chk w 8 1 0 && chk w 14 1 0) (.vlds (fld w 20) (fld w 15) (fld w 9) (fld w 4))
  | 2 => .ok (.vldx (fld w 20) (fld w 15) (fld w 9) (fld w 8) (fld w 4))
  | 3 => need (chk w 8 1 0) (.vldf (fld w 20) (fld w 15) (fld w 9) (fld w 4))
  | 4 => .ok (.vst (fld w 20) (fld w 15) (fld w 9) (fld w 8) (fld w 4))
  | 5 => need (chk w 14 1 0) (.vsts (fld w 20) (fld w 15) (fld w 9) (fld w 8) (fld w 4))
  | 6 => .ok (.vstx (fld w 20) (fld w 15) (fld w 9) (fld w 8) (fld w 4))
  | 7 => need (chk w 8 1 0 && chk w 14 1 0) (.vldz (fld w 20) (fld w 15) (fld w 9) (fld w 4))
  | 8 => need (chk w 14 1 0) (.vstz (fld w 20) (fld w 15) (fld w 9) (fld w 8) (fld w 4))
  | 9 => need (chk w 4 5 0) (.vldm (fld w 20) (fld w 15) (fld w 9))
  | 10 => need (chk w 4 5 0) (.vstm (fld w 20) (fld w 15) (fld w 9))
  | _ => .error .unallocated

/-- Major 0x13 by its selecting field (R71 to R85). -/
def decode13 (w : Nat) : Except Reject Instr :=
  match w / 2 ^ 8 % 2 ^ 6 with
  | 1 => need (chk w 0 2 0) (.vmv (fld w 20) (fld w 14) (fld w 4) (fld w 3) (fld w 2))
  | 2 => need (chk w 0 3 0 && chk w 4 4 0 && chk w 25 1 0) (.vmvx (fld w 20) (fld w 14) (fld w 3))
  | 3 => need (chk w 0 2 0 && chk w 3 1 0 && chk w 19 1 0) (.vbcast (fld w 20) (fld w 14) (fld w 4) (fld w 2))
  | 4 => need (chk w 0 2 0) (.vfsqrt (fld w 20) (fld w 14) (fld w 4) (fld w 3) (fld w 2))
  | 5 => need (chk w 0 2 0) (.vfrcp (fld w 20) (fld w 14) (fld w 4) (fld w 3) (fld w 2))
  | 6 => need (chk w 0 2 0) (.vfrsq (fld w 20) (fld w 14) (fld w 4) (fld w 3) (fld w 2))
  | 7 => need (chk w 0 2 0) (.vfexp2 (fld w 20) (fld w 14) (fld w 4) (fld w 3) (fld w 2))
  | 8 => need (chk w 0 2 0) (.vflog2 (fld w 20) (fld w 14) (fld w 4) (fld w 3) (fld w 2))
  | 9 => need (chk w 0 2 0) (.vfclass (fld w 20) (fld w 14) (fld w 4) (fld w 3) (fld w 2))
  | 10 => need (chk w 0 2 0) (.vfkey (fld w 20) (fld w 14) (fld w 4) (fld w 3) (fld w 2))
  | 16 => need (chk w 0 2 0) (.vredsum (fld w 20) (fld w 14) (fld w 4) (fld w 3) (fld w 2))
  | 17 => need (chk w 0 2 0) (.vredmax (fld w 20) (fld w 14) (fld w 4) (fld w 3) (fld w 2))
  | 18 => need (chk w 0 2 0) (.vredmin (fld w 20) (fld w 14) (fld w 4) (fld w 3) (fld w 2))
  | 19 => need (chk w 0 2 0) (.vfredsum (fld w 20) (fld w 14) (fld w 4) (fld w 3) (fld w 2))
  | 20 => need (chk w 0 2 0) (.vfredmax (fld w 20) (fld w 14) (fld w 4) (fld w 3) (fld w 2))
  | _ => .error .unallocated

/-- Major 0x14 by its selecting field (R71 to R85). -/
def decode14 (w : Nat) : Except Reject Instr :=
  match w % 2 ^ 8 with
  | 1 => .ok (.mand (fld w 20) (fld w 14) (fld w 8))
  | 2 => .ok (.mor (fld w 20) (fld w 14) (fld w 8))
  | 3 => .ok (.mxor (fld w 20) (fld w 14) (fld w 8))
  | 4 => .ok (.mandn (fld w 20) (fld w 14) (fld w 8))
  | 5 => need (chk w 8 6 0) (.mnot (fld w 20) (fld w 14))
  | 6 => need (chk w 8 12 0) (.mset (fld w 20))
  | 7 => need (chk w 8 6 0 && chk w 25 1 0) (.mfirst (fld w 20) (fld w 14))
  | 8 => need (chk w 8 6 0 && chk w 25 1 0) (.mpop (fld w 20) (fld w 14))
  | 9 => need (chk w 8 6 0 && chk w 20 6 0) (.mpopq (fld w 14))
  | 10 => need (chk w 8 6 0) (.miota (fld w 20) (fld w 14))
  | _ => .error .unallocated

/-- Major 0x15 by its selecting field (R71 to R85). -/
def decode15 (w : Nat) : Except Reject Instr :=
  match w / 2 ^ 24 % 2 ^ 2 with
  | 0 => need (chk w 0 23 0) (.vsplit (fld w 23))
  | 1 => need (chk w 0 24 0) (.vjoin)
  | 2 => need (chk w 0 4 0) (.repf (fld w 20) (fld w 14) (fld w 9) (fld w 4))
  | _ => .error .unallocated

/-- Major 0x16 by its selecting field (R71 to R85). -/
def decode16 (w : Nat) : Except Reject Instr :=
  match w % 2 ^ 2 with
  | 0 => .ok (.vmerge (fld w 20) (fld w 14) (fld w 8) (fld w 4) (fld w 3) (fld w 2))
  | 1 => need (chk w 13 1 0) (.vslideup (fld w 20) (fld w 14) (fld w 8) (fld w 4) (fld w 3) (fld w 2))
  | 2 => need (chk w 13 1 0) (.vslidedn (fld w 20) (fld w 14) (fld w 8) (fld w 4) (fld w 3) (fld w 2))
  | 3 => .ok (.vperm (fld w 20) (fld w 14) (fld w 8) (fld w 4) (fld w 3) (fld w 2))
  | _ => .error .unallocated

/-- Major 0x17 by its selecting field (R71 to R85). -/
def decode17 (w : Nat) : Except Reject Instr :=
  match w % 2 ^ 2 with
  | 0 => need (chk w 8 6 0) (.vcompress (fld w 20) (fld w 14) (fld w 4) (fld w 3) (fld w 2))
  | 1 => .ok (.vincx (fld w 20) (fld w 14) (fld w 8) (fld w 4) (fld w 3) (fld w 2))
  | 2 => need (chk w 3 1 0 && chk w 13 1 0 && chk w 19 1 0) (.vidx (fld w 20) (fld w 14) (fld w 8) (fld w 4) (fld w 2))
  | _ => .error .unallocated

/-- Major 0x18 by its selecting field (R71 to R85). -/
def decode18 (w : Nat) : Except Reject Instr :=
  match w % 2 ^ 2 with
  | 0 => .ok (.vaddVv (fld w 20) (fld w 14) (fld w 8) (fld w 4) (fld w 3) (fld w 2))
  | 1 => .ok (.vsubVv (fld w 20) (fld w 14) (fld w 8) (fld w 4) (fld w 3) (fld w 2))
  | 2 => .ok (.vmulVv (fld w 20) (fld w 14) (fld w 8) (fld w 4) (fld w 3) (fld w 2))
  | 3 => .ok (.vmulhVv (fld w 20) (fld w 14) (fld w 8) (fld w 4) (fld w 3) (fld w 2))
  | _ => .error .unallocated

/-- Major 0x19 by its selecting field (R71 to R85). -/
def decode19 (w : Nat) : Except Reject Instr :=
  match w % 2 ^ 2 with
  | 0 => need (chk w 13 1 0) (.vaddVs (fld w 20) (fld w 14) (fld w 8) (fld w 4) (fld w 3) (fld w 2))
  | 1 => need (chk w 13 1 0) (.vsubVs (fld w 20) (fld w 14) (fld w 8) (fld w 4) (fld w 3) (fld w 2))
  | 2 => need (chk w 13 1 0) (.vmulVs (fld w 20) (fld w 14) (fld w 8) (fld w 4) (fld w 3) (fld w 2))
  | 3 => need (chk w 13 1 0) (.vmulhVs (fld w 20) (fld w 14) (fld w 8) (fld w 4) (fld w 3) (fld w 2))
  | _ => .error .unallocated

/-- Major 0x1A by its selecting field (R71 to R85). -/
def decode1A (w : Nat) : Except Reject Instr :=
  match w % 2 ^ 2 with
  | 0 => .ok (.vaddVi (fld w 20) (fld w 14) (fld w 8) (fld w 4) (fld w 3) (fld w 2))
  | 1 => .ok (.vsubVi (fld w 20) (fld w 14) (fld w 8) (fld w 4) (fld w 3) (fld w 2))
  | 2 => .ok (.vmulVi (fld w 20) (fld w 14) (fld w 8) (fld w 4) (fld w 3) (fld w 2))
  | 3 => .ok (.vmulhVi (fld w 20) (fld w 14) (fld w 8) (fld w 4) (fld w 3) (fld w 2))
  | _ => .error .unallocated

/-- Major 0x1B by its selecting field (R71 to R85). -/
def decode1B (w : Nat) : Except Reject Instr :=
  match w % 2 ^ 2 with
  | 0 => .ok (.vmacVv (fld w 20) (fld w 14) (fld w 8) (fld w 4) (fld w 3) (fld w 2))
  | 1 => .ok (.vminVv (fld w 20) (fld w 14) (fld w 8) (fld w 4) (fld w 3) (fld w 2))
  | 2 => .ok (.vmaxVv (fld w 20) (fld w 14) (fld w 8) (fld w 4) (fld w 3) (fld w 2))
  | 3 => .ok (.vabsdVv (fld w 20) (fld w 14) (fld w 8) (fld w 4) (fld w 3) (fld w 2))
  | _ => .error .unallocated

/-- Major 0x1C by its selecting field (R71 to R85). -/
def decode1C (w : Nat) : Except Reject Instr :=
  match w % 2 ^ 2 with
  | 0 => need (chk w 13 1 0) (.vmacVs (fld w 20) (fld w 14) (fld w 8) (fld w 4) (fld w 3) (fld w 2))
  | 1 => need (chk w 13 1 0) (.vminVs (fld w 20) (fld w 14) (fld w 8) (fld w 4) (fld w 3) (fld w 2))
  | 2 => need (chk w 13 1 0) (.vmaxVs (fld w 20) (fld w 14) (fld w 8) (fld w 4) (fld w 3) (fld w 2))
  | 3 => need (chk w 13 1 0) (.vabsdVs (fld w 20) (fld w 14) (fld w 8) (fld w 4) (fld w 3) (fld w 2))
  | _ => .error .unallocated

/-- Major 0x1D by its selecting field (R71 to R85). -/
def decode1D (w : Nat) : Except Reject Instr :=
  match w % 2 ^ 2 with
  | 0 => .ok (.vmacVi (fld w 20) (fld w 14) (fld w 8) (fld w 4) (fld w 3) (fld w 2))
  | 1 => .ok (.vminVi (fld w 20) (fld w 14) (fld w 8) (fld w 4) (fld w 3) (fld w 2))
  | 2 => .ok (.vmaxVi (fld w 20) (fld w 14) (fld w 8) (fld w 4) (fld w 3) (fld w 2))
  | 3 => .ok (.vabsdVi (fld w 20) (fld w 14) (fld w 8) (fld w 4) (fld w 3) (fld w 2))
  | _ => .error .unallocated

/-- Major 0x1E by its selecting field (R71 to R85). -/
def decode1E (w : Nat) : Except Reject Instr :=
  match w % 2 ^ 2 with
  | 0 => .ok (.vandVv (fld w 20) (fld w 14) (fld w 8) (fld w 4) (fld w 3) (fld w 2))
  | 1 => .ok (.vorVv (fld w 20) (fld w 14) (fld w 8) (fld w 4) (fld w 3) (fld w 2))
  | 2 => .ok (.vxorVv (fld w 20) (fld w 14) (fld w 8) (fld w 4) (fld w 3) (fld w 2))
  | 3 => .ok (.vsllVv (fld w 20) (fld w 14) (fld w 8) (fld w 4) (fld w 3) (fld w 2))
  | _ => .error .unallocated

/-- Major 0x1F by its selecting field (R71 to R85). -/
def decode1F (w : Nat) : Except Reject Instr :=
  match w % 2 ^ 2 with
  | 0 => need (chk w 13 1 0) (.vandVs (fld w 20) (fld w 14) (fld w 8) (fld w 4) (fld w 3) (fld w 2))
  | 1 => need (chk w 13 1 0) (.vorVs (fld w 20) (fld w 14) (fld w 8) (fld w 4) (fld w 3) (fld w 2))
  | 2 => need (chk w 13 1 0) (.vxorVs (fld w 20) (fld w 14) (fld w 8) (fld w 4) (fld w 3) (fld w 2))
  | 3 => need (chk w 13 1 0) (.vsllVs (fld w 20) (fld w 14) (fld w 8) (fld w 4) (fld w 3) (fld w 2))
  | _ => .error .unallocated

/-- Major 0x20 by its selecting field (R71 to R85). -/
def decode20 (w : Nat) : Except Reject Instr :=
  match w % 2 ^ 2 with
  | 0 => .ok (.vandVi (fld w 20) (fld w 14) (fld w 8) (fld w 4) (fld w 3) (fld w 2))
  | 1 => .ok (.vorVi (fld w 20) (fld w 14) (fld w 8) (fld w 4) (fld w 3) (fld w 2))
  | 2 => .ok (.vxorVi (fld w 20) (fld w 14) (fld w 8) (fld w 4) (fld w 3) (fld w 2))
  | 3 => .ok (.vsllVi (fld w 20) (fld w 14) (fld w 8) (fld w 4) (fld w 3) (fld w 2))
  | _ => .error .unallocated

/-- Major 0x21 by its selecting field (R71 to R85). -/
def decode21 (w : Nat) : Except Reject Instr :=
  match w % 2 ^ 2 with
  | 0 => .ok (.vsrlVv (fld w 20) (fld w 14) (fld w 8) (fld w 4) (fld w 3) (fld w 2))
  | 1 => .ok (.vsraVv (fld w 20) (fld w 14) (fld w 8) (fld w 4) (fld w 3) (fld w 2))
  | 2 => .ok (.vsaddVv (fld w 20) (fld w 14) (fld w 8) (fld w 4) (fld w 3) (fld w 2))
  | 3 => .ok (.vssubVv (fld w 20) (fld w 14) (fld w 8) (fld w 4) (fld w 3) (fld w 2))
  | _ => .error .unallocated

/-- Major 0x22 by its selecting field (R71 to R85). -/
def decode22 (w : Nat) : Except Reject Instr :=
  match w % 2 ^ 2 with
  | 0 => need (chk w 13 1 0) (.vsrlVs (fld w 20) (fld w 14) (fld w 8) (fld w 4) (fld w 3) (fld w 2))
  | 1 => need (chk w 13 1 0) (.vsraVs (fld w 20) (fld w 14) (fld w 8) (fld w 4) (fld w 3) (fld w 2))
  | 2 => need (chk w 13 1 0) (.vsaddVs (fld w 20) (fld w 14) (fld w 8) (fld w 4) (fld w 3) (fld w 2))
  | 3 => need (chk w 13 1 0) (.vssubVs (fld w 20) (fld w 14) (fld w 8) (fld w 4) (fld w 3) (fld w 2))
  | _ => .error .unallocated

/-- Major 0x23 by its selecting field (R71 to R85). -/
def decode23 (w : Nat) : Except Reject Instr :=
  match w % 2 ^ 2 with
  | 0 => .ok (.vsrlVi (fld w 20) (fld w 14) (fld w 8) (fld w 4) (fld w 3) (fld w 2))
  | 1 => .ok (.vsraVi (fld w 20) (fld w 14) (fld w 8) (fld w 4) (fld w 3) (fld w 2))
  | 2 => .ok (.vsaddVi (fld w 20) (fld w 14) (fld w 8) (fld w 4) (fld w 3) (fld w 2))
  | 3 => .ok (.vssubVi (fld w 20) (fld w 14) (fld w 8) (fld w 4) (fld w 3) (fld w 2))
  | _ => .error .unallocated

/-- Major 0x24 by its selecting field (R71 to R85). -/
def decode24 (w : Nat) : Except Reject Instr :=
  match w % 2 ^ 2 with
  | 0 => .ok (.vwaddVv (fld w 20) (fld w 14) (fld w 8) (fld w 4) (fld w 3) (fld w 2))
  | 1 => .ok (.vwmulVv (fld w 20) (fld w 14) (fld w 8) (fld w 4) (fld w 3) (fld w 2))
  | 2 => .ok (.vnsrVv (fld w 20) (fld w 14) (fld w 8) (fld w 4) (fld w 3) (fld w 2))
  | 3 => .ok (.vbextVv (fld w 20) (fld w 14) (fld w 8) (fld w 4) (fld w 3) (fld w 2))
  | _ => .error .unallocated

/-- Major 0x25 by its selecting field (R71 to R85). -/
def decode25 (w : Nat) : Except Reject Instr :=
  match w % 2 ^ 2 with
  | 0 => need (chk w 13 1 0) (.vwaddVs (fld w 20) (fld w 14) (fld w 8) (fld w 4) (fld w 3) (fld w 2))
  | 1 => need (chk w 13 1 0) (.vwmulVs (fld w 20) (fld w 14) (fld w 8) (fld w 4) (fld w 3) (fld w 2))
  | 2 => need (chk w 13 1 0) (.vnsrVs (fld w 20) (fld w 14) (fld w 8) (fld w 4) (fld w 3) (fld w 2))
  | 3 => need (chk w 13 1 0) (.vbextVs (fld w 20) (fld w 14) (fld w 8) (fld w 4) (fld w 3) (fld w 2))
  | _ => .error .unallocated

/-- Major 0x26 by its selecting field (R71 to R85). -/
def decode26 (w : Nat) : Except Reject Instr :=
  match w % 2 ^ 2 with
  | 0 => .ok (.vwaddVi (fld w 20) (fld w 14) (fld w 8) (fld w 4) (fld w 3) (fld w 2))
  | 1 => .ok (.vwmulVi (fld w 20) (fld w 14) (fld w 8) (fld w 4) (fld w 3) (fld w 2))
  | 2 => .ok (.vnsrVi (fld w 20) (fld w 14) (fld w 8) (fld w 4) (fld w 3) (fld w 2))
  | 3 => .ok (.vbextVi (fld w 20) (fld w 14) (fld w 8) (fld w 4) (fld w 3) (fld w 2))
  | _ => .error .unallocated

/-- Major 0x2A by its selecting field (R71 to R85). -/
def decode2A (w : Nat) : Except Reject Instr :=
  match w % 2 ^ 2 with
  | 0 => .ok (.vfaddVv (fld w 20) (fld w 14) (fld w 8) (fld w 4) (fld w 3) (fld w 2))
  | 1 => .ok (.vfsubVv (fld w 20) (fld w 14) (fld w 8) (fld w 4) (fld w 3) (fld w 2))
  | 2 => .ok (.vfmulVv (fld w 20) (fld w 14) (fld w 8) (fld w 4) (fld w 3) (fld w 2))
  | 3 => .ok (.vfmaVv (fld w 20) (fld w 14) (fld w 8) (fld w 4) (fld w 3) (fld w 2))
  | _ => .error .unallocated

/-- Major 0x2B by its selecting field (R71 to R85). -/
def decode2B (w : Nat) : Except Reject Instr :=
  match w % 2 ^ 2 with
  | 0 => need (chk w 13 1 0) (.vfaddVs (fld w 20) (fld w 14) (fld w 8) (fld w 4) (fld w 3) (fld w 2))
  | 1 => need (chk w 13 1 0) (.vfsubVs (fld w 20) (fld w 14) (fld w 8) (fld w 4) (fld w 3) (fld w 2))
  | 2 => need (chk w 13 1 0) (.vfmulVs (fld w 20) (fld w 14) (fld w 8) (fld w 4) (fld w 3) (fld w 2))
  | 3 => need (chk w 13 1 0) (.vfmaVs (fld w 20) (fld w 14) (fld w 8) (fld w 4) (fld w 3) (fld w 2))
  | _ => .error .unallocated

/-- Major 0x2C by its selecting field (R71 to R85). -/
def decode2C (w : Nat) : Except Reject Instr :=
  match w % 2 ^ 2 with
  | 0 => .ok (.vfdivVv (fld w 20) (fld w 14) (fld w 8) (fld w 4) (fld w 3) (fld w 2))
  | 1 => .ok (.vfminVv (fld w 20) (fld w 14) (fld w 8) (fld w 4) (fld w 3) (fld w 2))
  | 2 => .ok (.vfmaxVv (fld w 20) (fld w 14) (fld w 8) (fld w 4) (fld w 3) (fld w 2))
  | _ => .error .unallocated

/-- Major 0x2D by its selecting field (R71 to R85). -/
def decode2D (w : Nat) : Except Reject Instr :=
  match w % 2 ^ 2 with
  | 0 => need (chk w 13 1 0) (.vfdivVs (fld w 20) (fld w 14) (fld w 8) (fld w 4) (fld w 3) (fld w 2))
  | 1 => need (chk w 13 1 0) (.vfminVs (fld w 20) (fld w 14) (fld w 8) (fld w 4) (fld w 3) (fld w 2))
  | 2 => need (chk w 13 1 0) (.vfmaxVs (fld w 20) (fld w 14) (fld w 8) (fld w 4) (fld w 3) (fld w 2))
  | _ => .error .unallocated

/-- Major 0x30 by its selecting field (R71 to R85). -/
def decode30 (w : Nat) : Except Reject Instr :=
  match w % 2 ^ 4 with
  | 0 => need (chk w 4 9 0) (.tld (fld w 23) (fld w 18) (fld w 13))
  | 1 => need (chk w 4 9 0) (.tldt (fld w 23) (fld w 18) (fld w 13))
  | 2 => need (chk w 4 9 0) (.tldc (fld w 23) (fld w 18) (fld w 13))
  | 3 => need (chk w 4 9 0) (.tst (fld w 23) (fld w 18) (fld w 13))
  | 4 => need (chk w 4 9 0) (.tstc (fld w 23) (fld w 18) (fld w 13))
  | _ => .error .unallocated

/-- Major 0x31 by its selecting field (R71 to R85). -/
def decode31 (w : Nat) : Except Reject Instr :=
  match w % 2 ^ 4 with
  | 0 => .ok (.tmvr (fld w 23) (fld w 17) (fld w 12) (fld w 8) (fld w 5) (fld w 4))
  | 1 => need (chk w 4 1 0) (.tmvc (fld w 23) (fld w 17) (fld w 12) (fld w 8) (fld w 5))
  | 2 => need (chk w 4 19 0) (.tzero (fld w 23))
  | _ => .error .unallocated

/-- Major 0x36 by its selecting field (R71 to R85). -/
def decode36 (w : Nat) : Except Reject Instr :=
  match w % 2 ^ 4 with
  | 0 => need (chk w 10 1 0) (.amoadd (fld w 21) (fld w 16) (fld w 11) (fld w 8) (fld w 6) (fld w 4))
  | 1 => need (chk w 10 1 0) (.amoswap (fld w 21) (fld w 16) (fld w 11) (fld w 8) (fld w 6) (fld w 4))
  | 2 => need (chk w 10 1 0) (.amocas (fld w 21) (fld w 16) (fld w 11) (fld w 8) (fld w 6) (fld w 4))
  | 3 => need (chk w 10 1 0) (.amomin (fld w 21) (fld w 16) (fld w 11) (fld w 8) (fld w 6) (fld w 4))
  | 4 => need (chk w 10 1 0) (.amomax (fld w 21) (fld w 16) (fld w 11) (fld w 8) (fld w 6) (fld w 4))
  | 5 => need (chk w 10 1 0) (.amoand (fld w 21) (fld w 16) (fld w 11) (fld w 8) (fld w 6) (fld w 4))
  | 6 => need (chk w 10 1 0) (.amoor (fld w 21) (fld w 16) (fld w 11) (fld w 8) (fld w 6) (fld w 4))
  | 7 => need (chk w 10 1 0) (.amoxor (fld w 21) (fld w 16) (fld w 11) (fld w 8) (fld w 6) (fld w 4))
  | 8 => need (chk w 4 2 0 && chk w 10 1 0) (.amofadd (fld w 21) (fld w 16) (fld w 11) (fld w 8) (fld w 6))
  | _ => .error .unallocated

/-- Major 0x37 by its selecting field (R71 to R85). -/
def decode37 (w : Nat) : Except Reject Instr :=
  match w % 2 ^ 3 with
  | 0 => need (chk w 8 8 0) (.ldacq (fld w 21) (fld w 16) (fld w 6) (fld w 3))
  | 1 => need (chk w 5 1 0 && chk w 8 3 0 && chk w 21 5 0) (.strel (fld w 16) (fld w 11) (fld w 6) (fld w 3))
  | 2 => need (chk w 3 3 0 && chk w 11 15 0) (.fence (fld w 8) (fld w 6))
  | _ => .error .unallocated

/-- Major 0x38 by its selecting field (R71 to R85). -/
def decode38 (w : Nat) : Except Reject Instr :=
  match w % 2 ^ 4 with
  | 0 => need (chk w 4 7 0 && chk w 21 5 0) (.boinit (fld w 16) (fld w 11))
  | 1 => need (chk w 4 7 0) (.boexp (fld w 21) (fld w 16) (fld w 11))
  | 2 => need (chk w 4 7 0) (.boadd (fld w 21) (fld w 16) (fld w 11))
  | 3 => need (chk w 4 7 0) (.boarr (fld w 21) (fld w 16) (fld w 11))
  | 4 => need (chk w 4 7 0) (.bowait (fld w 21) (fld w 16) (fld w 11))
  | 5 => need (chk w 4 22 0) (.cbar)
  | 6 => need (chk w 4 22 0) (.tbar)
  | _ => .error .unallocated

/-- Major 0x39 by its selecting field (R71 to R85). -/
def decode39 (w : Nat) : Except Reject Instr :=
  match w % 2 ^ 2 with
  | 0 => need (chk w 2 9 0) (.scopy (fld w 21) (fld w 16) (fld w 11))
  | 1 => need (chk w 2 9 0) (.sfill (fld w 21) (fld w 16) (fld w 11))
  | 2 => need (chk w 2 9 0) (.sgath (fld w 21) (fld w 16) (fld w 11))
  | 3 => need (chk w 2 9 0) (.sscat (fld w 21) (fld w 16) (fld w 11))
  | _ => .error .unallocated

/-- Major 0x3A by its selecting field (R71 to R85). -/
def decode3A (w : Nat) : Except Reject Instr :=
  match w % 2 ^ 1 with
  | 0 => need (chk w 1 10 0) (.launch (fld w 21) (fld w 16) (fld w 11))
  | 1 => need (chk w 1 10 0 && chk w 21 5 0) (.dtld (fld w 16) (fld w 11))
  | _ => .error .unallocated

/-- Major 0x3B by its selecting field (R71 to R85). -/
def decode3B (w : Nat) : Except Reject Instr :=
  match w / 2 ^ 8 % 2 ^ 3 with
  | 0 => .ok (.cbload (fld w 21) (fld w 16) (fld w 11) (fld w 0))
  | 1 => .ok (.tbuild (fld w 21) (fld w 16) (fld w 11) (fld w 0))
  | 2 => .ok (.bdtld (fld w 21) (fld w 16) (fld w 11) (fld w 0))
  | _ => .error .unallocated

/-- Major 0x3C by its selecting field (R71 to R85). -/
def decode3C (w : Nat) : Except Reject Instr :=
  match w / 2 ^ 8 % 2 ^ 3 with
  | 0 => .ok (.lkacc (fld w 21) (fld w 16) (fld w 11) (fld w 0))
  | 1 => .ok (.lkrd (fld w 21) (fld w 16) (fld w 11) (fld w 0))
  | 2 => .ok (.lkclr (fld w 21) (fld w 16) (fld w 11) (fld w 0))
  | 3 => .ok (.rcopy (fld w 21) (fld w 16) (fld w 11) (fld w 0))
  | 4 => .ok (.rfill (fld w 21) (fld w 16) (fld w 11) (fld w 0))
  | _ => .error .unallocated

/-- Major 0x3D by its selecting field (R71 to R85). -/
def decode3D (w : Nat) : Except Reject Instr :=
  match w / 2 ^ 8 % 2 ^ 3 with
  | 0 => .ok (.sealarm (fld w 21) (fld w 16) (fld w 11) (fld w 0))
  | 1 => .ok (.sealoff (fld w 21) (fld w 16) (fld w 11) (fld w 0))
  | 2 => .ok (.stkpass (fld w 21) (fld w 16) (fld w 11) (fld w 0))
  | 3 => need (chk w 11 5 0) (.stkqry (fld w 21) (fld w 16) (fld w 0))
  | _ => .error .unallocated

/-- The instruction of a 32-bit word by major, function and reserved fields (R69 steps 1 and 2), before the checks of its
register numbers and codes. -/
def decodeFields (w : Nat) : Except Reject Instr :=
  match w / 2 ^ 26 % 2 ^ 6 with
  | 0 => decode00 w
  | 1 => .ok (.addi (fld w 21) (fld w 16) (fld w 0))
  | 2 => decode02 w
  | 3 => .ok (.slti (fld w 21) (fld w 16) (fld w 0))
  | 4 => decode04 w
  | 5 => decode05 w
  | 6 => .ok (.jal (fld w 21) (fld w 0))
  | 7 => .ok (.jalr (fld w 21) (fld w 16) (fld w 0))
  | 8 => decode08 w
  | 9 => decode09 w
  | 10 => .ok (.beq (fld w 21) (fld w 16) (fld w 0))
  | 11 => .ok (.bne (fld w 21) (fld w 16) (fld w 0))
  | 12 => .ok (.blt (fld w 21) (fld w 16) (fld w 0))
  | 13 => .ok (.bge (fld w 21) (fld w 16) (fld w 0))
  | 14 => .ok (.bltu (fld w 21) (fld w 16) (fld w 0))
  | 15 => .ok (.bgeu (fld w 21) (fld w 16) (fld w 0))
  | 16 => decode10 w
  | 17 => decode11 w
  | 18 => need (chk w 8 1 0) (.vcvt (fld w 20) (fld w 14) (fld w 10) (fld w 9) (fld w 4) (fld w 3) (fld w 0))
  | 19 => decode13 w
  | 20 => decode14 w
  | 21 => decode15 w
  | 22 => decode16 w
  | 23 => decode17 w
  | 24 => decode18 w
  | 25 => decode19 w
  | 26 => decode1A w
  | 27 => decode1B w
  | 28 => decode1C w
  | 29 => decode1D w
  | 30 => decode1E w
  | 31 => decode1F w
  | 32 => decode20 w
  | 33 => decode21 w
  | 34 => decode22 w
  | 35 => decode23 w
  | 36 => decode24 w
  | 37 => decode25 w
  | 38 => decode26 w
  | 39 => .ok (.vcmpVv (fld w 20) (fld w 14) (fld w 8) (fld w 4) (fld w 3) (fld w 2) (fld w 0))
  | 40 => need (chk w 13 1 0) (.vcmpVs (fld w 20) (fld w 14) (fld w 8) (fld w 4) (fld w 3) (fld w 2) (fld w 0))
  | 41 => .ok (.vcmpVi (fld w 20) (fld w 14) (fld w 8) (fld w 4) (fld w 3) (fld w 2) (fld w 0))
  | 42 => decode2A w
  | 43 => decode2B w
  | 44 => decode2C w
  | 45 => decode2D w
  | 46 => .ok (.vfcmpVv (fld w 20) (fld w 14) (fld w 8) (fld w 4) (fld w 3) (fld w 2) (fld w 0))
  | 47 => need (chk w 13 1 0) (.vfcmpVs (fld w 20) (fld w 14) (fld w 8) (fld w 4) (fld w 3) (fld w 2) (fld w 0))
  | 48 => decode30 w
  | 49 => decode31 w
  | 50 => need (chk w 0 4 0) (.scld (fld w 21) (fld w 20) (fld w 16) (fld w 4))
  | 51 => .ok (.vmt (fld w 20) (fld w 14) (fld w 11) (fld w 8) (fld w 4) (fld w 3) (fld w 2) (fld w 0))
  | 54 => decode36 w
  | 55 => decode37 w
  | 56 => decode38 w
  | 57 => decode39 w
  | 58 => decode3A w
  | 59 => decode3B w
  | 60 => decode3C w
  | 61 => decode3D w
  | _ => .error .unallocated

/-- The instruction of a 32-bit word, or why it is illegal (R69 steps 1 and 2). -/
def decode (w : Nat) : Except Reject Instr :=
  match decodeFields w with
  | .ok i => if i.wellFormed then .ok i else .error .operand
  | .error r => .error r

/-- The instruction of four bytes, the first at the lowest address (little-endian, 03). -/
def decodeBytes : List Byte → Except Reject Instr
  | [b0, b1, b2, b3] => decode (b0.toNat + b1.toNat * 2 ^ 8 + b2.toNat * 2 ^ 16 + b3.toNat * 2 ^ 24)
  | _ => .error .unallocated

/-- The four bytes of a 32-bit word, the lowest first. -/
def wordBytes (w : Nat) : List Byte :=
  [BitVec.ofNat 8 w, BitVec.ofNat 8 (w / 2 ^ 8), BitVec.ofNat 8 (w / 2 ^ 16), BitVec.ofNat 8 (w / 2 ^ 24)]

/-- A word with the field `x` put in at bit `lo`. -/
def put {n : Nat} (w : Nat) (x : BitVec n) (lo : Nat) : Nat := w + x.toNat * 2 ^ lo

/-- The word of an instruction (R64 to R85); an event has none. -/
def encode : Instr → Option Nat
  | .add d a b => some (put (put (put 0x00000001 d 21) a 16) b 11)
  | .sub d a b => some (put (put (put 0x00000002 d 21) a 16) b 11)
  | .and d a b => some (put (put (put 0x00000003 d 21) a 16) b 11)
  | .or d a b => some (put (put (put 0x00000004 d 21) a 16) b 11)
  | .xor d a b => some (put (put (put 0x00000005 d 21) a 16) b 11)
  | .sll d a b => some (put (put (put 0x00000006 d 21) a 16) b 11)
  | .srl d a b => some (put (put (put 0x00000007 d 21) a 16) b 11)
  | .sra d a b => some (put (put (put 0x00000008 d 21) a 16) b 11)
  | .rotl d a b => some (put (put (put 0x00000009 d 21) a 16) b 11)
  | .rotr d a b => some (put (put (put 0x0000000A d 21) a 16) b 11)
  | .min d a b => some (put (put (put 0x0000000B d 21) a 16) b 11)
  | .max d a b => some (put (put (put 0x0000000C d 21) a 16) b 11)
  | .minu d a b => some (put (put (put 0x0000000D d 21) a 16) b 11)
  | .maxu d a b => some (put (put (put 0x0000000E d 21) a 16) b 11)
  | .slt d a b => some (put (put (put 0x0000000F d 21) a 16) b 11)
  | .sltu d a b => some (put (put (put 0x00000010 d 21) a 16) b 11)
  | .mul d a b => some (put (put (put 0x00000011 d 21) a 16) b 11)
  | .mulh d a b => some (put (put (put 0x00000012 d 21) a 16) b 11)
  | .mulhu d a b => some (put (put (put 0x00000013 d 21) a 16) b 11)
  | .div d a b => some (put (put (put 0x00000014 d 21) a 16) b 11)
  | .divu d a b => some (put (put (put 0x00000015 d 21) a 16) b 11)
  | .rem d a b => some (put (put (put 0x00000016 d 21) a 16) b 11)
  | .remu d a b => some (put (put (put 0x00000017 d 21) a 16) b 11)
  | .clz d a => some (put (put 0x00000018 d 21) a 16)
  | .ctz d a => some (put (put 0x00000019 d 21) a 16)
  | .cpop d a => some (put (put 0x0000001A d 21) a 16)
  | .addsh d a b s => some (put (put (put (put 0x0000001B d 21) a 16) b 11) s 6)
  | .slli d a h g => some (put (put (put (put 0x0000001C d 21) a 16) h 11) g 6)
  | .srli d a h g => some (put (put (put (put 0x0000001D d 21) a 16) h 11) g 6)
  | .srai d a h g => some (put (put (put (put 0x0000001E d 21) a 16) h 11) g 6)
  | .ldx d a b z s => some (put (put (put (put (put 0x00000020 d 21) a 16) b 11) z 8) s 6)
  | .stx d a b z s => some (put (put (put (put (put 0x00000021 d 21) a 16) b 11) z 8) s 6)
  | .addi d a i => some (put (put (put 0x04000000 d 21) a 16) i 0)
  | .andi d a k => some (put (put (put 0x08000000 d 21) a 16) k 0)
  | .ori d a k => some (put (put (put 0x08004000 d 21) a 16) k 0)
  | .xori d a k => some (put (put (put 0x08008000 d 21) a 16) k 0)
  | .slti d a i => some (put (put (put 0x0C000000 d 21) a 16) i 0)
  | .lui d i => some (put (put 0x10000000 d 21) i 0)
  | .aupc d i => some (put (put 0x10100000 d 21) i 0)
  | .ld d a z o => some (put (put (put (put 0x14000000 d 21) a 16) z 12) o 0)
  | .st d a z o => some (put (put (put (put 0x14008000 d 21) a 16) z 12) o 0)
  | .jal d o => some (put (put 0x18000000 d 21) o 0)
  | .jalr d a i => some (put (put (put 0x1C000000 d 21) a 16) i 0)
  | .crr d c => some (put (put 0x20000000 d 21) c 0)
  | .crw d a c => some (put (put (put 0x20001000 d 21) a 16) c 0)
  | .crs d a c => some (put (put (put 0x20002000 d 21) a 16) c 0)
  | .crc d a c => some (put (put (put 0x20003000 d 21) a 16) c 0)
  | .svc c => some (put 0x20004000 c 0)
  | .brk c => some (put 0x20005000 c 0)
  | .nop => some (0x20006000)
  | .halt => some (0x20006001)
  | .yield => some (0x20006002)
  | .wfe => some (0x20006003)
  | .ifence => some (0x20006004)
  | .rett => some (0x20006005)
  | .enrg d => some (put 0x20006006 d 21)
  | .topo d i => some (put (put 0x20007000 d 21) i 0)
  | .bany m o => some (put (put 0x24000000 m 20) o 0)
  | .ball m o => some (put (put 0x24010000 m 20) o 0)
  | .loop s o => some (put (put 0x24020000 s 20) o 0)
  | .beq a b o => some (put (put (put 0x28000000 a 21) b 16) o 0)
  | .bne a b o => some (put (put (put 0x2C000000 a 21) b 16) o 0)
  | .blt a b o => some (put (put (put 0x30000000 a 21) b 16) o 0)
  | .bge a b o => some (put (put (put 0x34000000 a 21) b 16) o 0)
  | .bltu a b o => some (put (put (put 0x38000000 a 21) b 16) o 0)
  | .bgeu a b o => some (put (put (put 0x3C000000 a 21) b 16) o 0)
  | .setvl d a r f g => some (put (put (put (put (put 0x40000000 d 21) a 16) r 13) f 9) g 7)
  | .setvlq d r f g => some (put (put (put (put 0x40000001 d 21) r 13) f 9) g 7)
  | .vld v b o m => some (put (put (put (put 0x44000000 v 20) b 15) o 9) m 4)
  | .vlds v b s m => some (put (put (put (put 0x44000001 v 20) b 15) s 9) m 4)
  | .vldx v b x c m => some (put (put (put (put (put 0x44000002 v 20) b 15) x 9) c 8) m 4)
  | .vldf v b o m => some (put (put (put (put 0x44000003 v 20) b 15) o 9) m 4)
  | .vst v b o c m => some (put (put (put (put (put 0x44000004 v 20) b 15) o 9) c 8) m 4)
  | .vsts v b s c m => some (put (put (put (put (put 0x44000005 v 20) b 15) s 9) c 8) m 4)
  | .vstx v b x c m => some (put (put (put (put (put 0x44000006 v 20) b 15) x 9) c 8) m 4)
  | .vldz v b s m => some (put (put (put (put 0x44000007 v 20) b 15) s 9) m 4)
  | .vstz v b s c m => some (put (put (put (put (put 0x44000008 v 20) b 15) s 9) c 8) m 4)
  | .vldm v b o => some (put (put (put 0x44000009 v 20) b 15) o 9)
  | .vstm v b o => some (put (put (put 0x4400000A v 20) b 15) o 9)
  | .vcvt d a t s m c r => some (put (put (put (put (put (put (put 0x48000000 d 20) a 14) t 10) s 9) m 4) c 3) r 0)
  | .vmv d a m c n => some (put (put (put (put (put 0x4C000100 d 20) a 14) m 4) c 3) n 2)
  | .vmvx d a c => some (put (put (put 0x4C000200 d 20) a 14) c 3)
  | .vbcast d s m n => some (put (put (put (put 0x4C000300 d 20) s 14) m 4) n 2)
  | .vfsqrt d a m c n => some (put (put (put (put (put 0x4C000400 d 20) a 14) m 4) c 3) n 2)
  | .vfrcp d a m c n => some (put (put (put (put (put 0x4C000500 d 20) a 14) m 4) c 3) n 2)
  | .vfrsq d a m c n => some (put (put (put (put (put 0x4C000600 d 20) a 14) m 4) c 3) n 2)
  | .vfexp2 d a m c n => some (put (put (put (put (put 0x4C000700 d 20) a 14) m 4) c 3) n 2)
  | .vflog2 d a m c n => some (put (put (put (put (put 0x4C000800 d 20) a 14) m 4) c 3) n 2)
  | .vfclass d a m c n => some (put (put (put (put (put 0x4C000900 d 20) a 14) m 4) c 3) n 2)
  | .vfkey d a m c n => some (put (put (put (put (put 0x4C000A00 d 20) a 14) m 4) c 3) n 2)
  | .vredsum d a m c n => some (put (put (put (put (put 0x4C001000 d 20) a 14) m 4) c 3) n 2)
  | .vredmax d a m c n => some (put (put (put (put (put 0x4C001100 d 20) a 14) m 4) c 3) n 2)
  | .vredmin d a m c n => some (put (put (put (put (put 0x4C001200 d 20) a 14) m 4) c 3) n 2)
  | .vfredsum d a m c n => some (put (put (put (put (put 0x4C001300 d 20) a 14) m 4) c 3) n 2)
  | .vfredmax d a m c n => some (put (put (put (put (put 0x4C001400 d 20) a 14) m 4) c 3) n 2)
  | .mand d a b => some (put (put (put 0x50000001 d 20) a 14) b 8)
  | .mor d a b => some (put (put (put 0x50000002 d 20) a 14) b 8)
  | .mxor d a b => some (put (put (put 0x50000003 d 20) a 14) b 8)
  | .mandn d a b => some (put (put (put 0x50000004 d 20) a 14) b 8)
  | .mnot d a => some (put (put 0x50000005 d 20) a 14)
  | .mset d => some (put 0x50000006 d 20)
  | .mfirst d a => some (put (put 0x50000007 d 20) a 14)
  | .mpop d a => some (put (put 0x50000008 d 20) a 14)
  | .mpopq a => some (put 0x50000009 a 14)
  | .miota d a => some (put (put 0x5000000A d 20) a 14)
  | .vsplit w => some (put 0x54000000 w 23)
  | .vjoin => some (0x55000000)
  | .repf n v g s => some (put (put (put (put 0x56000000 n 20) v 14) g 9) s 4)
  | .vmerge d a b m c e => some (put (put (put (put (put (put 0x58000000 d 20) a 14) b 8) m 4) c 3) e 2)
  | .vslideup d a s m c n => some (put (put (put (put (put (put 0x58000001 d 20) a 14) s 8) m 4) c 3) n 2)
  | .vslidedn d a s m c n => some (put (put (put (put (put (put 0x58000002 d 20) a 14) s 8) m 4) c 3) n 2)
  | .vperm d a b m c e => some (put (put (put (put (put (put 0x58000003 d 20) a 14) b 8) m 4) c 3) e 2)
  | .vcompress d a m c n => some (put (put (put (put (put 0x5C000000 d 20) a 14) m 4) c 3) n 2)
  | .vincx d a b m c e => some (put (put (put (put (put (put 0x5C000001 d 20) a 14) b 8) m 4) c 3) e 2)
  | .vidx d a b m n => some (put (put (put (put (put 0x5C000002 d 20) a 14) b 8) m 4) n 2)
  | .vaddVv d a b m c e => some (put (put (put (put (put (put 0x60000000 d 20) a 14) b 8) m 4) c 3) e 2)
  | .vsubVv d a b m c e => some (put (put (put (put (put (put 0x60000001 d 20) a 14) b 8) m 4) c 3) e 2)
  | .vmulVv d a b m c e => some (put (put (put (put (put (put 0x60000002 d 20) a 14) b 8) m 4) c 3) e 2)
  | .vmulhVv d a b m c e => some (put (put (put (put (put (put 0x60000003 d 20) a 14) b 8) m 4) c 3) e 2)
  | .vaddVs d a s m c n => some (put (put (put (put (put (put 0x64000000 d 20) a 14) s 8) m 4) c 3) n 2)
  | .vsubVs d a s m c n => some (put (put (put (put (put (put 0x64000001 d 20) a 14) s 8) m 4) c 3) n 2)
  | .vmulVs d a s m c n => some (put (put (put (put (put (put 0x64000002 d 20) a 14) s 8) m 4) c 3) n 2)
  | .vmulhVs d a s m c n => some (put (put (put (put (put (put 0x64000003 d 20) a 14) s 8) m 4) c 3) n 2)
  | .vaddVi d a k m c n => some (put (put (put (put (put (put 0x68000000 d 20) a 14) k 8) m 4) c 3) n 2)
  | .vsubVi d a k m c n => some (put (put (put (put (put (put 0x68000001 d 20) a 14) k 8) m 4) c 3) n 2)
  | .vmulVi d a k m c n => some (put (put (put (put (put (put 0x68000002 d 20) a 14) k 8) m 4) c 3) n 2)
  | .vmulhVi d a k m c n => some (put (put (put (put (put (put 0x68000003 d 20) a 14) k 8) m 4) c 3) n 2)
  | .vmacVv d a b m c e => some (put (put (put (put (put (put 0x6C000000 d 20) a 14) b 8) m 4) c 3) e 2)
  | .vminVv d a b m c e => some (put (put (put (put (put (put 0x6C000001 d 20) a 14) b 8) m 4) c 3) e 2)
  | .vmaxVv d a b m c e => some (put (put (put (put (put (put 0x6C000002 d 20) a 14) b 8) m 4) c 3) e 2)
  | .vabsdVv d a b m c e => some (put (put (put (put (put (put 0x6C000003 d 20) a 14) b 8) m 4) c 3) e 2)
  | .vmacVs d a s m c n => some (put (put (put (put (put (put 0x70000000 d 20) a 14) s 8) m 4) c 3) n 2)
  | .vminVs d a s m c n => some (put (put (put (put (put (put 0x70000001 d 20) a 14) s 8) m 4) c 3) n 2)
  | .vmaxVs d a s m c n => some (put (put (put (put (put (put 0x70000002 d 20) a 14) s 8) m 4) c 3) n 2)
  | .vabsdVs d a s m c n => some (put (put (put (put (put (put 0x70000003 d 20) a 14) s 8) m 4) c 3) n 2)
  | .vmacVi d a k m c n => some (put (put (put (put (put (put 0x74000000 d 20) a 14) k 8) m 4) c 3) n 2)
  | .vminVi d a k m c n => some (put (put (put (put (put (put 0x74000001 d 20) a 14) k 8) m 4) c 3) n 2)
  | .vmaxVi d a k m c n => some (put (put (put (put (put (put 0x74000002 d 20) a 14) k 8) m 4) c 3) n 2)
  | .vabsdVi d a k m c n => some (put (put (put (put (put (put 0x74000003 d 20) a 14) k 8) m 4) c 3) n 2)
  | .vandVv d a b m c e => some (put (put (put (put (put (put 0x78000000 d 20) a 14) b 8) m 4) c 3) e 2)
  | .vorVv d a b m c e => some (put (put (put (put (put (put 0x78000001 d 20) a 14) b 8) m 4) c 3) e 2)
  | .vxorVv d a b m c e => some (put (put (put (put (put (put 0x78000002 d 20) a 14) b 8) m 4) c 3) e 2)
  | .vsllVv d a b m c e => some (put (put (put (put (put (put 0x78000003 d 20) a 14) b 8) m 4) c 3) e 2)
  | .vandVs d a s m c n => some (put (put (put (put (put (put 0x7C000000 d 20) a 14) s 8) m 4) c 3) n 2)
  | .vorVs d a s m c n => some (put (put (put (put (put (put 0x7C000001 d 20) a 14) s 8) m 4) c 3) n 2)
  | .vxorVs d a s m c n => some (put (put (put (put (put (put 0x7C000002 d 20) a 14) s 8) m 4) c 3) n 2)
  | .vsllVs d a s m c n => some (put (put (put (put (put (put 0x7C000003 d 20) a 14) s 8) m 4) c 3) n 2)
  | .vandVi d a k m c n => some (put (put (put (put (put (put 0x80000000 d 20) a 14) k 8) m 4) c 3) n 2)
  | .vorVi d a k m c n => some (put (put (put (put (put (put 0x80000001 d 20) a 14) k 8) m 4) c 3) n 2)
  | .vxorVi d a k m c n => some (put (put (put (put (put (put 0x80000002 d 20) a 14) k 8) m 4) c 3) n 2)
  | .vsllVi d a k m c n => some (put (put (put (put (put (put 0x80000003 d 20) a 14) k 8) m 4) c 3) n 2)
  | .vsrlVv d a b m c e => some (put (put (put (put (put (put 0x84000000 d 20) a 14) b 8) m 4) c 3) e 2)
  | .vsraVv d a b m c e => some (put (put (put (put (put (put 0x84000001 d 20) a 14) b 8) m 4) c 3) e 2)
  | .vsaddVv d a b m c e => some (put (put (put (put (put (put 0x84000002 d 20) a 14) b 8) m 4) c 3) e 2)
  | .vssubVv d a b m c e => some (put (put (put (put (put (put 0x84000003 d 20) a 14) b 8) m 4) c 3) e 2)
  | .vsrlVs d a s m c n => some (put (put (put (put (put (put 0x88000000 d 20) a 14) s 8) m 4) c 3) n 2)
  | .vsraVs d a s m c n => some (put (put (put (put (put (put 0x88000001 d 20) a 14) s 8) m 4) c 3) n 2)
  | .vsaddVs d a s m c n => some (put (put (put (put (put (put 0x88000002 d 20) a 14) s 8) m 4) c 3) n 2)
  | .vssubVs d a s m c n => some (put (put (put (put (put (put 0x88000003 d 20) a 14) s 8) m 4) c 3) n 2)
  | .vsrlVi d a k m c n => some (put (put (put (put (put (put 0x8C000000 d 20) a 14) k 8) m 4) c 3) n 2)
  | .vsraVi d a k m c n => some (put (put (put (put (put (put 0x8C000001 d 20) a 14) k 8) m 4) c 3) n 2)
  | .vsaddVi d a k m c n => some (put (put (put (put (put (put 0x8C000002 d 20) a 14) k 8) m 4) c 3) n 2)
  | .vssubVi d a k m c n => some (put (put (put (put (put (put 0x8C000003 d 20) a 14) k 8) m 4) c 3) n 2)
  | .vwaddVv d a b m c e => some (put (put (put (put (put (put 0x90000000 d 20) a 14) b 8) m 4) c 3) e 2)
  | .vwmulVv d a b m c e => some (put (put (put (put (put (put 0x90000001 d 20) a 14) b 8) m 4) c 3) e 2)
  | .vnsrVv d a b m c e => some (put (put (put (put (put (put 0x90000002 d 20) a 14) b 8) m 4) c 3) e 2)
  | .vbextVv d a b m c e => some (put (put (put (put (put (put 0x90000003 d 20) a 14) b 8) m 4) c 3) e 2)
  | .vwaddVs d a s m c n => some (put (put (put (put (put (put 0x94000000 d 20) a 14) s 8) m 4) c 3) n 2)
  | .vwmulVs d a s m c n => some (put (put (put (put (put (put 0x94000001 d 20) a 14) s 8) m 4) c 3) n 2)
  | .vnsrVs d a s m c n => some (put (put (put (put (put (put 0x94000002 d 20) a 14) s 8) m 4) c 3) n 2)
  | .vbextVs d a s m c n => some (put (put (put (put (put (put 0x94000003 d 20) a 14) s 8) m 4) c 3) n 2)
  | .vwaddVi d a k m c n => some (put (put (put (put (put (put 0x98000000 d 20) a 14) k 8) m 4) c 3) n 2)
  | .vwmulVi d a k m c n => some (put (put (put (put (put (put 0x98000001 d 20) a 14) k 8) m 4) c 3) n 2)
  | .vnsrVi d a k m c n => some (put (put (put (put (put (put 0x98000002 d 20) a 14) k 8) m 4) c 3) n 2)
  | .vbextVi d a k m c n => some (put (put (put (put (put (put 0x98000003 d 20) a 14) k 8) m 4) c 3) n 2)
  | .vcmpVv d a b m c e q => some (put (put (put (put (put (put (put 0x9C000000 d 20) a 14) b 8) m 4) c 3) e 2) q 0)
  | .vcmpVs d a s m c n q => some (put (put (put (put (put (put (put 0xA0000000 d 20) a 14) s 8) m 4) c 3) n 2) q 0)
  | .vcmpVi d a k m c n q => some (put (put (put (put (put (put (put 0xA4000000 d 20) a 14) k 8) m 4) c 3) n 2) q 0)
  | .vfaddVv d a b m c e => some (put (put (put (put (put (put 0xA8000000 d 20) a 14) b 8) m 4) c 3) e 2)
  | .vfsubVv d a b m c e => some (put (put (put (put (put (put 0xA8000001 d 20) a 14) b 8) m 4) c 3) e 2)
  | .vfmulVv d a b m c e => some (put (put (put (put (put (put 0xA8000002 d 20) a 14) b 8) m 4) c 3) e 2)
  | .vfmaVv d a b m c e => some (put (put (put (put (put (put 0xA8000003 d 20) a 14) b 8) m 4) c 3) e 2)
  | .vfaddVs d a s m c n => some (put (put (put (put (put (put 0xAC000000 d 20) a 14) s 8) m 4) c 3) n 2)
  | .vfsubVs d a s m c n => some (put (put (put (put (put (put 0xAC000001 d 20) a 14) s 8) m 4) c 3) n 2)
  | .vfmulVs d a s m c n => some (put (put (put (put (put (put 0xAC000002 d 20) a 14) s 8) m 4) c 3) n 2)
  | .vfmaVs d a s m c n => some (put (put (put (put (put (put 0xAC000003 d 20) a 14) s 8) m 4) c 3) n 2)
  | .vfdivVv d a b m c e => some (put (put (put (put (put (put 0xB0000000 d 20) a 14) b 8) m 4) c 3) e 2)
  | .vfminVv d a b m c e => some (put (put (put (put (put (put 0xB0000001 d 20) a 14) b 8) m 4) c 3) e 2)
  | .vfmaxVv d a b m c e => some (put (put (put (put (put (put 0xB0000002 d 20) a 14) b 8) m 4) c 3) e 2)
  | .vfdivVs d a s m c n => some (put (put (put (put (put (put 0xB4000000 d 20) a 14) s 8) m 4) c 3) n 2)
  | .vfminVs d a s m c n => some (put (put (put (put (put (put 0xB4000001 d 20) a 14) s 8) m 4) c 3) n 2)
  | .vfmaxVs d a s m c n => some (put (put (put (put (put (put 0xB4000002 d 20) a 14) s 8) m 4) c 3) n 2)
  | .vfcmpVv d a b m c e q => some (put (put (put (put (put (put (put 0xB8000000 d 20) a 14) b 8) m 4) c 3) e 2) q 0)
  | .vfcmpVs d a s m c n q => some (put (put (put (put (put (put (put 0xBC000000 d 20) a 14) s 8) m 4) c 3) n 2) q 0)
  | .tld y a b => some (put (put (put 0xC0000000 y 23) a 18) b 13)
  | .tldt y a b => some (put (put (put 0xC0000001 y 23) a 18) b 13)
  | .tldc y a b => some (put (put (put 0xC0000002 y 23) a 18) b 13)
  | .tst y a b => some (put (put (put 0xC0000003 y 23) a 18) b 13)
  | .tstc y a b => some (put (put (put 0xC0000004 y 23) a 18) b 13)
  | .tmvr y v i t r d => some (put (put (put (put (put (put 0xC4000000 y 23) v 17) i 12) t 8) r 5) d 4)
  | .tmvc y v i t r => some (put (put (put (put (put 0xC4000001 y 23) v 17) i 12) t 8) r 5)
  | .tzero y => some (put 0xC4000002 y 23)
  | .scld g k s o => some (put (put (put (put 0xC8000000 g 21) k 20) s 16) o 4)
  | .vmt d a y r m c s t => some (put (put (put (put (put (put (put (put 0xCC000000 d 20) a 14) y 11) r 8) m 4) c 3) s 2) t 0)
  | .amoadd d a b o p z => some (put (put (put (put (put (put 0xD8000000 d 21) a 16) b 11) o 8) p 6) z 4)
  | .amoswap d a b o p z => some (put (put (put (put (put (put 0xD8000001 d 21) a 16) b 11) o 8) p 6) z 4)
  | .amocas d a b o p z => some (put (put (put (put (put (put 0xD8000002 d 21) a 16) b 11) o 8) p 6) z 4)
  | .amomin d a b o p z => some (put (put (put (put (put (put 0xD8000003 d 21) a 16) b 11) o 8) p 6) z 4)
  | .amomax d a b o p z => some (put (put (put (put (put (put 0xD8000004 d 21) a 16) b 11) o 8) p 6) z 4)
  | .amoand d a b o p z => some (put (put (put (put (put (put 0xD8000005 d 21) a 16) b 11) o 8) p 6) z 4)
  | .amoor d a b o p z => some (put (put (put (put (put (put 0xD8000006 d 21) a 16) b 11) o 8) p 6) z 4)
  | .amoxor d a b o p z => some (put (put (put (put (put (put 0xD8000007 d 21) a 16) b 11) o 8) p 6) z 4)
  | .amofadd d a b o p => some (put (put (put (put (put 0xD8000008 d 21) a 16) b 11) o 8) p 6)
  | .ldacq d a p z => some (put (put (put (put 0xDC000000 d 21) a 16) p 6) z 3)
  | .strel a b p z => some (put (put (put (put 0xDC000001 a 16) b 11) p 6) z 3)
  | .fence k p => some (put (put 0xDC000002 k 8) p 6)
  | .boinit a b => some (put (put 0xE0000000 a 16) b 11)
  | .boexp d a b => some (put (put (put 0xE0000001 d 21) a 16) b 11)
  | .boadd d a b => some (put (put (put 0xE0000002 d 21) a 16) b 11)
  | .boarr d a b => some (put (put (put 0xE0000003 d 21) a 16) b 11)
  | .bowait d a b => some (put (put (put 0xE0000004 d 21) a 16) b 11)
  | .cbar => some (0xE0000005)
  | .tbar => some (0xE0000006)
  | .scopy d a b => some (put (put (put 0xE4000000 d 21) a 16) b 11)
  | .sfill d a b => some (put (put (put 0xE4000001 d 21) a 16) b 11)
  | .sgath d a b => some (put (put (put 0xE4000002 d 21) a 16) b 11)
  | .sscat d a b => some (put (put (put 0xE4000003 d 21) a 16) b 11)
  | .launch d a b => some (put (put (put 0xE8000000 d 21) a 16) b 11)
  | .dtld a b => some (put (put 0xE8000001 a 16) b 11)
  | .cbload d a x opt => some (put (put (put (put 0xEC000000 d 21) a 16) x 11) opt 0)
  | .tbuild d a x opt => some (put (put (put (put 0xEC000100 d 21) a 16) x 11) opt 0)
  | .bdtld d a x opt => some (put (put (put (put 0xEC000200 d 21) a 16) x 11) opt 0)
  | .lkacc d a x opt => some (put (put (put (put 0xF0000000 d 21) a 16) x 11) opt 0)
  | .lkrd d a x opt => some (put (put (put (put 0xF0000100 d 21) a 16) x 11) opt 0)
  | .lkclr d a x opt => some (put (put (put (put 0xF0000200 d 21) a 16) x 11) opt 0)
  | .rcopy d a x opt => some (put (put (put (put 0xF0000300 d 21) a 16) x 11) opt 0)
  | .rfill d a x opt => some (put (put (put (put 0xF0000400 d 21) a 16) x 11) opt 0)
  | .sealarm d a x opt => some (put (put (put (put 0xF4000000 d 21) a 16) x 11) opt 0)
  | .sealoff d a x opt => some (put (put (put (put 0xF4000100 d 21) a 16) x 11) opt 0)
  | .stkpass d a x opt => some (put (put (put (put 0xF4000200 d 21) a 16) x 11) opt 0)
  | .stkqry d a opt => some (put (put (put 0xF4000300 d 21) a 16) opt 0)
  | .stripClose _ => none
  | .elementCauseTrap _ _ => none
  | .asyncCauseTrap _ => none
  | .wfeWake _ => none
  | .wfeTimeout _ => none
  | .bowaitReturn _ => none
  | .barrierRelease _ => none
  | .setvlqPopResume _ => none
  | .engineQueueRoom _ => none
  | .sequencerRoom _ => none
  | .sideLogRoom _ => none
  | .sealWaitDone _ => none
  | .gateRelease _ => none
  | .laneReclaimRequest _ => none
  | .reclaimTimeout _ => none
  | .preemptRequest _ => none
  | .forcedStop _ => none
  | .gangSaveDone _ => none
  | .crewResume _ _ => none
  | .streamCmdPerform _ _ _ _ => none
  | .bankCmdStart _ _ => none
  | .cbloadDone _ _ => none
  | .bdtldDone _ _ => none
  | .lkclrDone _ _ => none
  | .tbuildTableDone _ _ => none
  | .lkaccSegmentEnd _ _ _ => none
  | .lkrdDone _ _ => none
  | .rcopyGranule _ _ _ => none
  | .rfillGranule _ _ _ => none
  | .parkedCmdRejoin _ _ => none
  | .lockageCmdsDrained _ => none
  | .lockageWritesDrained _ => none
  | .lockageRecallDone _ => none
  | .lockageBroadcastDone _ => none
  | .redirectRetry _ => none
  | .nonhomeEviction _ _ => none
  | .pageWalk _ _ _ => none
  | .tlbcmdWrite _ _ => none
  | .shootdownDone _ => none
  | .slreplayWrite _ _ => none
  | .hctlResume _ => none
  | .hctlForward _ => none
  | .hctlEndCrew _ => none
  | .rtEntryWrite _ _ _ _ _ => none
  | .hartContextWrite _ _ _ => none
  | .fqtailWrite _ _ => none
  | .regWrite _ _ _ _ => none
  | .powerGood _ => none
  | .romComplete => none
  | .heatExit _ => none
  | .trainingTempCheck _ => none
  | .linksDone => none
  | .loadDone => none
  | .dramTrainDone => none
  | .mapDone => none
  | .bootHello _ => none
  | .bootBegin _ => none
  | .bootData _ => none
  | .bootEnd _ => none
  | .bootStatus _ => none
  | .bootAttest _ => none
  | .bootUnknownOp _ => none
  | .securityAlarm _ => none
  | .rdmaWrite _ _ => none
  | .rdmaRead _ _ => none
  | .rdmaCompareSwap _ _ _ => none
  | .rdmaFetchAdd _ _ => none
  | .rdmaUnsupportedOp _ => none
  | .nonRcPacket _ => none
  | .ecnMarkedPacket _ => none
  | .cnpReceived _ => none
  | .cmReq _ _ => none
  | .cmRep _ _ => none
  | .cmRtu _ => none
  | .cmRej _ => none
  | .cmDreq _ => none
  | .cmDrep _ => none
  | .outboundResponse _ _ => none
  | .outboundNak _ => none
  | .configRequest => none
  | .queueEnable _ _ _ => none
  | .queueDisable _ => none
  | .slotRead _ => none
  | .admissionDecision => none
  | .placingComplete _ => none
  | .backfillBoundExpiry _ => none
  | .memberComplete _ => none
  | .ceilingCommand => none
  | .mgmtPoll => none
  | .telemetryWrite _ => none
  | .energyCharge _ _ => none
  | .drainHalve _ => none
  | .drainDouble _ => none
  | .heatMoveCheck _ => none
  | .thermalBudgetStep _ _ => none
  | .hardThermalLimit _ _ => none
  | .thermalRecover _ _ => none
  | .coldHeater _ => none
  | .laneGroupGate _ _ _ => none
  | .laneGroupWake _ _ _ => none
  | .supplyDroop _ _ => none
  | .voltageGuardUpdate _ _ => none
  | .linkRetrain _ _ _ _ => none
  | .dramRetrain _ _ _ => none
  | .dramScrub => none
  | .sramScrub => none
  | .eccError _ => none
  | .dieDead _ => none
  | .illegalInstruction _ => none
  | .fetchFault _ => none
  | .powerOff => none
  | .localAckTimeout _ => none
  | .pfcPauseFrame _ _ _ => none
  | .cmMraTimeout _ => none
  | .linkFlitError _ _ => none
  | .coldHeaterStop _ => none

/-- What the decoder reads from an opcode-table row's bits: an instruction is one 32-bit word, and every bit above
`nbits` is zero. -/
def decodeTableWord (nbits w : Nat) : Option Instr :=
  match decodeBytes (wordBytes (w % 2 ^ nbits)) with
  | .ok i => some i
  | .error _ => none

end Sys2Proof
end

