-- ==== Sys2Proof/Machine/State.lean ====
section
/-! DEFINITION. The state of the panel as plain data: its cores, cells, dies, stacks, members, queues and links, and
the state right after power good. -/

namespace Sys2Proof.Machine

/-- The reasons a step can stop. No rule of the manual stops the panel: every trap is a next state. -/
inductive Fault where
  /-- An encoded instruction whose turn belongs to no resident core. Raised by every meaning of an encoded
  instruction; no step raises it, because a step issues for a resident core only. Safe. -/
  | noCore
  deriving DecidableEq, Repr

/-- The reasons an instruction has no meaning. -/
inductive Refusal where
  /-- An arm of the dispatch that has no meaning yet. Safe. -/
  | notModelled (mnemonic : String)
  deriving DecidableEq, Repr

/-- The three privilege levels (R34). -/
inductive Level where
  | user | supervisor | machine
  deriving DecidableEq, Repr

/-- An entry of the length queue: a count, and whether its push is tentative in the open strip (R27, R113). -/
structure LqEntry where
  val : BitVec 13
  tentative : Bool
  deriving DecidableEq, Repr

/-- Split mode (R25, R26, R32): the window, the active set, the lane threads' program counters, those waiting at a
VJOIN, those halted, those waiting in WFE, and the lane that issues or issued last (R251). -/
structure Split where
  on : Bool
  window : Bool
  active : BitVec 16
  waiting : BitVec 16
  halted : BitVec 16
  wfe : BitVec 16
  pcs : Vector Word 16
  lane : Fin 16
  deriving DecidableEq, Repr

/-- A store held in a strip's buffer (R113, R235): the virtual address and program counter it retired with, its
element, its place, its page entry (none in a hold), and each byte with the mask of the bits it writes. `logged` is the
reason and level of PAGE of a store that met it and goes to the side log (R103, R376); `first` marks the first element of
its instruction. -/
structure BufStore where
  va : Word
  pc : Word
  elem : Nat
  loc : Nat
  leaf : Option Word
  data : List (Byte × Byte)
  logged : Option (Nat × Nat)
  first : Bool
  strict : Bool
  deriving DecidableEq, Repr

/-- The open strip (R113): the strip-entry values of the scalar registers it wrote, the buffered stores oldest first,
the entry SETVLQ popped for it (R134), the vector, mask and tile registers whose strip-entry contents it read, and the
bits it wrote of each (R116), numbered as in `regV`, `regM`, `regY`, and the debug-ring entries written in it (R397). -/
structure Strip where
  hist : List (Nat × Word)
  buf : List BufStore
  popped : Option (BitVec 13)
  rd : List Nat
  wr : Tbl Nat
  ring : Nat
  deriving DecidableEq, Repr

/-- A repeat frame being replayed (R81, R82): its first word's address, its words, the replay number, the count, the
strides, and the next instruction of the replay. -/
structure Frame where
  base : Word
  words : List (BitVec 32)
  replay : Nat
  count : Nat
  vstride : Nat
  gstride : Nat
  idx : Nat
  deriving DecidableEq, Repr

/-- A steward-bound trap of a parked hart (R121, R376): what the fault record carries. -/
structure Parked where
  info : TrapInfo
  unwind : Bool
  tpc : Word
  rpc : Word
  lane : Nat
  split : Bool
  deriving DecidableEq, Repr

/-- Pending asynchronous causes (R87): ECC and LINK with their address, ENERGY. -/
structure Pending where
  ecc : Option Word
  link : Option Word
  energy : Bool
  deriving DecidableEq, Repr

/-- A debug-ring entry (R397). -/
structure DbgEntry where
  d0 : Word
  pc : Word
  first : Word
  last : Word
  deriving DecidableEq, Repr

/-- The registers of cr.cause, cr.scause and cr.mcause (R31). -/
structure CauseReg where
  code : BitVec 8
  split : Bool
  lane : BitVec 4
  restart : Bool
  active : Bool
  deriving DecidableEq, Repr

/-- The steward's supervisor and machine registers (R29, R361, R364). -/
structure StewardRegs where
  spp : Bool
  svec : Word
  sepc : Word
  scause : CauseReg
  sscratch : Word
  hsel : BitVec 8
  mie : Bool
  /-- A machine interrupt that has not been taken yet (R360). -/
  mip : Bool
  mpp : BitVec 2
  mvec : Word
  mepc : Word
  mcause : CauseReg
  mscratch : Word
  deriving DecidableEq, Repr

/-- A TLB entry (R370): its size, virtual page number and page entry. -/
structure TlbEntry where
  huge : Bool
  vpn : Nat
  leaf : Word
  deriving DecidableEq, Repr

/-- A line of a scalar data cache (R270). -/
structure CacheLine where
  line : Nat
  data : BitVec 512
  deriving DecidableEq, Repr

/-- A non-home copy of a line in a die cache, with its dirty bytes, the harts that wrote it, and whether its page is a
U page (R271, R279). -/
structure NonHome where
  line : Nat
  data : BitVec 512
  dirty : BitVec 64
  writers : List CoreId
  unordered : Bool
  deriving DecidableEq, Repr

/-- An atomic in the side log (R187): its operation, size and operand, cr.frm at its issue (R33), its scope code, and whether
it acquires. -/
structure LogAtomic where
  op : Nat
  size : Nat
  operand : Word
  frm : BitVec 2
  scope : BitVec 2
  acq : Bool
  deriving DecidableEq, Repr

/-- A side-log entry (R288, R187): a store's bytes with their masks, or an atomic; the reason and level of the walk that found no page (R376), and whether SLREPLAY has
asked for it (R377); `fenced` marks one that an IFENCE of its hart has followed (R118). -/
structure LogEntry where
  core : CoreId
  crew : Option (CrewRef × Nat)
  va : Word
  pc : Word
  data : List (Byte × Byte)
  atomic : Option LogAtomic
  reason : Nat
  level : Nat
  asked : Bool
  refused : Bool
  fenced : Bool
  deriving DecidableEq, Repr

/-- What a stream command does (R198 to R200): a shape block, or the selected elements of a gather block with their
index, target cell rank and offset. -/
inductive StreamWork where
  | shape (fill : Bool) (dst src : Word) (dims : List (Nat × Int × Int))
  | crewwide (scatter : Bool) (base : Word) (sel : List (Nat × Nat × Nat))
  deriving DecidableEq, Repr

/-- A stream command in a cell's engine queue (R197, R202): the hart rank of its issuer, the next element to perform and
elements in all, the device bytes written since its last arrival, and what remote memory has answered for the next element,
as in a core's `remote`. -/
structure StreamCmd where
  id : Nat
  hart : Nat
  crew : CrewRef
  cellRank : Nat
  pc : Word
  obj : Option ObjRef
  elog : Nat
  work : StreamWork
  next : Nat
  total : Nat
  wrote : List (Nat × Nat)
  remote : Tbl Byte
  waiting : Bool
  deriving DecidableEq, Repr

/-- A cell: its stream engine, side log, scalar data cache, TLB, dispatch bucket, the slot that issued last, its gated
lane groups, and by slot the debug ring of a hart that has left it (R250, R252, R397, R405). -/
structure Cell where
  queue : List StreamCmd
  log : List LogEntry
  sdc : List CacheLine
  tlb : List TlbEntry
  bucket : Nat
  lastSlot : Nat
  gated : List Nat
  rings : Tbl (List DbgEntry × Nat)
  deriving DecidableEq, Repr

/-- A replica set (R375). -/
structure ReplicaSet where
  d0 : Word
  d1 : Word
  d2 : Word
  d3 : Word
  deriving DecidableEq, Repr

/-- A die: its die-control registers (R363, R399, R404, R411), its caches and TLB. -/
structure Die where
  ptroot : Word
  fqbase : Word
  fqhead : BitVec 32
  fqtail : BitVec 32
  /-- Fault records that wait for room in the ring, oldest first (R376). -/
  faultWait : List (List Word)
  tlbva : Word
  tlbBusy : Bool
  /-- First address and units of the shoot-down in progress (R371). -/
  tlbFrom : Word
  tlbCount : Nat
  spbase : Word
  spsize : Word
  /-- Resident entries: tag and leaf (R368). -/
  rt : Tbl (Word × Word)
  fmap : Tbl (BitVec 8)
  sealt : BitVec 16384
  rset : Tbl ReplicaSet
  tlb : List TlbEntry
  nonHome : List NonHome
  /-- DENERGY, kept in nJ. -/
  denergy : Nat
  dpower : BitVec 32
  dbudget : BitVec 32
  pcell : BitVec 16
  level : BitVec 32
  drain : BitVec 32
  vfsel : BitVec 3
  thot : BitVec 8
  stretch : Word
  dce : BitVec 16
  cce : BitVec 16
  lrt : BitVec 16
  ue : BitVec 16
  /-- Flit retries not yet counted in lrt, which counts in units of 2^16 (R411). -/
  retries : Nat
  retire : Word
  /-- cr.time of the last uncorrectable error in a logical cell (R412). -/
  cellUe : Tbl Nat
  /-- Voltage above the V–F point, in mV (R405); drain before a hard limit (R408). -/
  guard : Nat
  coolDrain : Option (BitVec 32 × BitVec 3)
  heater : Bool
  /-- Failed retrains of UCIe modules, by edge and module: after the third lane repair is tried, and the fourth puts the module
  out of use (R410). -/
  modules : List (Nat × Nat)
  /-- The die's temperature at a module's last training, by 8·edge + module; as MAP found it where none is listed (R410). -/
  trained : Tbl Int
  dead : Bool
  deriving DecidableEq, Repr

/-- An accumulator with its sticky bit (R62). -/
structure Acc where
  val : Int
  sticky : Bool
  deriving DecidableEq, Repr

/-- A bank's state (R212): table SRAM, decoder memory, accumulator shape, committed and pending accumulators. -/
structure Bank where
  table : Tbl (BitVec 32)
  dec : Tbl (BitVec 32)
  narrow : Bool
  acc : Tbl Acc
  pacc : Tbl Acc
  deriving DecidableEq, Repr

/-- A codebook slot (R217): its b, 0 when empty, and its entries. -/
structure Slot where
  b : Nat
  entries : List (BitVec 8)
  deriving DecidableEq, Repr

/-- The bank state of a stack that belongs to one launch (R212, R262). Mailbox rows lie in the mailbox memory and are
held here only while another launch has the stack. -/
structure BankState where
  banks : Tbl Bank
  slots : Tbl Slot
  rows : Memory
  deriving DecidableEq, Repr

/-- The shape word of a table set (R220). -/
structure TableShape where
  tpb : Nat
  t0 : Nat
  gsz : Nat
  b : Nat
  deriving DecidableEq, Repr

/-- One catalogue entry (R295). -/
structure CatEntry where
  kind : Nat
  dtid : Nat
  layout : Nat
  cidx : Nat
  offset : Nat
  chunks : Nat
  length : Nat
  deriving DecidableEq, Repr

/-- What a bank command does, with its operands as read at issue (R209 to R230). Device addresses are physical. -/
inductive BankWork where
  | cbload (slot b : Nat) (entries : List (BitVec 8))
  | bdtld (first : Nat) (entries : List (BitVec 32))
  | lkclr (narrow : Bool)
  | tbuild (slot : Nat) (shape : TableShape) (k : Nat) (act : List (BitVec 8))
  | lkacc (shape : TableShape) (k n row0 layout : Nat) (wbase : Word) (pages : List (Nat × Nat))
      (entries : List CatEntry) (status : Word) (resume : Option (Nat × Nat))
  | lkrd (n row0 mrow mbank : Nat) (clear : Bool)
  | rcopy (dst src : Word) (length : Nat) (dpages spages : List (Nat × Nat))
  | rfill (dst : Word) (length : Nat) (dpages : List (Nat × Nat))
  deriving DecidableEq, Repr

/-- Progress of one bank of an LKACC (R225): the symbol and chunk it stands at, the tile byte of that chunk, whether its
pending accumulators hold the segment's lookups, whether it is parked, and its fault. -/
structure BankProg where
  sym : Nat
  chunk : Nat
  byte : Nat
  delivered : Bool
  parked : Bool
  done : Bool
  fault : Bool
  deriving DecidableEq, Repr

/-- A bank command in a sequencer or parked (R210, R228): the die it was issued on, its issuer's crew and hart rank, none
for a steward core, its object, and what has been done of it. -/
structure BankCmd where
  id : Nat
  die : Nat
  crew : Option CrewRef
  hart : Nat
  cellRank : Nat
  pc : Word
  obj : Option ObjRef
  slog : Nat
  b0 : Nat
  work : BankWork
  started : Bool
  /-- Tables built, or granules performed, by number. -/
  done : List Nat
  banks : Tbl BankProg
  /-- The status doubleword has been written for a fault (R226). -/
  faulted : Option (Nat × Nat)
  /-- Park asked for by STKPASS (R228). -/
  parkAsked : Bool
  stopped : Bool
  deriving DecidableEq, Repr

/-- Why a core does not go on. A wait with operands is the instruction that waits, which a later step completes. -/
inductive Wait where
  | none
  /-- WFE with its latch clear (R118). -/
  | wfe
  /-- BOWAIT, or BOARR after its arrival (R194). -/
  | phase (obj : ObjRef) (addr : Word) (token : Bool) (gd : BitVec 5)
  /-- CBAR or TBAR at an instance number, counted for the train or the crew, to be left at panel or die scope (R196). -/
  | barrier (train : Bool) (count : Nat) (panel : Bool)
  /-- SETVLQ on an empty length queue (R134). -/
  | lqPop (d : BitVec 5) (r : BitVec 3) (f : BitVec 4) (g : BitVec 2)
  /-- MPOPQ on a full length queue (R27). -/
  | lqPush
  /-- A stream command and a full engine queue (R197). -/
  | engine (op : Nat) (d a b : BitVec 5)
  /-- A bank command, as it was read and checked, for a full sequencer: its descriptor's address, and what gd receives
  (R210). -/
  | sequencer (stack : Nat) (cmd : BankCmd) (va : Word) (d : BitVec 5) (count : Nat)
  /-- A closing strip and a full side log (R103). -/
  | sideLog
  /-- SEALARM or SEALOFF in its wait (R233, R234). -/
  | seal (off : Bool) (d a x : BitVec 5)
  /-- A release, or an atomic that follows the hart's side-log entries (R288). -/
  | replay
  /-- A load of bytes that a side-log entry of the hart covers (R288 rule 5), or a fetch of bytes that one covers which an IFENCE
  has followed (R118). -/
  | covered (fetch : Bool) (addr : Word) (bytes : Nat)
  /-- An earlier stream or bank command that overlaps `n` hold bytes (R201, R214). -/
  | scoreboard (loc n : Nat) (write : Bool)
  /-- A stack in lockage (R306, R307). -/
  | lockage (stack : Nat)
  /-- Remote memory has not answered (R386). -/
  | remote (id : Nat)
  /-- The dispatch gate, with the charge of the instruction it holds (R252). -/
  | gate (cost : Nat)
  /-- Bytes of a group of a stack's banks under retraining (R410). -/
  | retrain (stack group : Nat)
  deriving DecidableEq, Repr

/-- A lockage in progress (R306): the step reached, the old and new owner, park, and the object of the arrival. -/
structure Lockage where
  step : Nat
  old : Nat
  new : Nat
  park : Bool
  obj : Option ObjRef
  /-- The member the scheduler makes the lockage for (R395, R406). -/
  forMember : Option MemberId
  deriving DecidableEq, Repr

/-- A stack and its base die (R212, R305). -/
structure Stack where
  /-- The owner is the second candidate (R4). -/
  second : Bool
  lock : Option Lockage
  seqr : List BankCmd
  parked : List BankCmd
  launch : Option (Nat × Nat)
  bank : BankState
  saved : List ((Nat × Nat) × BankState)
  /-- The bank-context areas of launches, by their first byte (R262). -/
  areas : List ((Nat × Nat) × Nat)
  /-- Groups of eight banks in retraining (R410). -/
  retrain : List Nat
  /-- The temperature at a group's last training, as MAP found it where none is listed (R410). -/
  trained : Tbl Int
  /-- What each command has performed, in symbols or bytes, since the stack's energy was last divided, by crew (R402). -/
  performed : List (Option CrewRef × Nat)
  /-- Neither owner candidate is alive (R413). -/
  orphan : Bool
  deriving DecidableEq, Repr

/-- Memory as an instruction fetch sees it between two IFENCEs (R105, R118): the memories, and the dies and stacks that
place bytes in them and hold copies of them. -/
structure Code where
  dram : Memory
  homeCache : Tbl Byte
  mailbox : Memory
  dies : Tbl Die
  stackTbl : Tbl Stack
  deriving DecidableEq, Repr

/-- A core: a hart with its architectural state (R10), its strip and waits, or the steward core of a die. -/
structure Core where
  id : CoreId
  /-- The crew and hart rank of a hart (R245); none on a steward core. -/
  crew : Option (CrewRef × Nat)
  level : Level
  g : Vector Word 32
  v : Vector (BitVec 1024) 64
  m : Vector (BitVec 512) 48
  y : Vector (BitVec 8192) 8
  /-- The decoder table (R19); an entry not listed is zero. -/
  dtab : Tbl (BitVec 32)
  lq : List LqEntry
  pc : Word
  frm : BitVec 2
  fflags : BitVec 5
  tvec : Word
  epc : Word
  cause : CauseReg
  eaddr : Word
  eelem : BitVec 19
  moved : BitVec 2
  scratch : Word
  vl : BitVec 10
  rc : BitVec 4
  /-- ill, log2 of the grouping, format (R30). -/
  ill : Bool
  glog : BitVec 2
  fmt : BitVec 4
  ckpt : Word
  grant : BitVec 5
  split : Split
  crewReg : Word
  rank : Word
  holdsize : Word
  holdbase : BitVec 3
  cellphys : BitVec 15
  /-- cr.energy: the account as last posted, in µJ (R126). -/
  energy : Word
  st : StewardRegs
  strip : Strip
  /-- From VJOIN to the next SETVL or SETVLQ each instruction takes a checkpoint at itself (R166). -/
  stepwise : Bool
  /-- The instruction being executed takes a checkpoint around itself (R115); false between steps. -/
  around : Bool
  frame : Option Frame
  latch : Bool
  wait : Wait
  /-- What each lane thread that does not issue waits for, by lane (R250, R251). -/
  laneWaits : Tbl Wait
  /-- cr.ckpt is from before the user handler that runs (R122; log 35). -/
  ckptKept : Bool
  parked : Option Parked
  pending : Pending
  /-- The lane count of the launch record (R249) and the grant a pending reclaim or return will apply (R253, R254). -/
  request : BitVec 5
  target : Option (BitVec 5)
  /-- A stop request of the scheduler, and whether the core has stopped for it (R255). -/
  stopAsked : Bool
  stopped : Bool
  /-- CBAR and TBAR instances reached (R196). -/
  cbars : Nat
  tbars : Nat
  /-- The dispatch gate has released and charged the instruction at hand (R252). -/
  released : Bool
  /-- Gate charges and scalar instructions since the die's energy was last divided (R402). -/
  share : Nat
  dbg : List DbgEntry
  dbgCount : Nat
  /-- Memory as instruction fetch sees it: as the last IFENCE found it (R105, R118). -/
  code : Code
  /-- Words of remote memory fetched since the last IFENCE, by location (R105). -/
  fetched : Tbl (BitVec 32)
  /-- What is done of the waiting instruction (R386): by access (`accessKey`) the bytes that remote memory has answered, from
  `ackKey` on the stores performed or acknowledged, and from `failKey` on the accesses that have failed; lane thread j's
  from (j + 1)·2^100 on. -/
  remote : Tbl Byte
  /-- When the core last became ready or issued, counted in `turn` (R250). -/
  readySince : Nat
  deriving DecidableEq, Repr

/-- A fault held with a crew (R226, R236): the issuing hart's rank, its order of issue, the trap, and the stack of a
bank command (R239). -/
structure HeldFault where
  core : Nat
  order : Nat
  info : TrapInfo
  stack : Option Nat
  deriving DecidableEq, Repr

/-- The states of a member from its placement on (R265). Waiting and Ready members have no record of their own: they
are the members of a batch from its `next` on. -/
inductive MState where
  | reserving | placing | resident | stopping | saved | done | killed
  deriving DecidableEq, Repr

/-- What a crew's records keep of a saved hart besides its context (R257, R259): hart rank, grants, barrier counts, the
wait it stopped in, its fault record when it was parked, its lane threads at VJOIN or halted, whether R166 holds for it,
its pending causes, and what remote memory has answered of the instruction it stopped at. -/
structure SavedHart where
  rank : Nat
  grant : BitVec 5
  request : BitVec 5
  target : Option (BitVec 5)
  cbars : Nat
  tbars : Nat
  wait : Wait
  parked : Option Parked
  moved : BitVec 2
  waiting : BitVec 16
  halted : BitVec 16
  wfe : BitVec 16
  stepwise : Bool
  ckptKept : Bool
  pending : Pending
  remote : Tbl Byte
  deriving DecidableEq, Repr

/-- A crew of a member: its place (R247, R248), save area (R380), account (R402) and the crew records of R257. -/
structure Crew where
  ref : CrewRef
  die : Nat
  /-- By cell rank: the cell and its first hold block. -/
  cells : List (Nat × Nat)
  resident : Bool
  placedAt : Nat
  movedAt : Nat
  /-- When it last came to its die (R406). -/
  stoodAt : Nat
  save : Nat
  energy : Nat
  log : List LogEntry
  streams : List StreamCmd
  held : List HeldFault
  stops : List SavedHart
  /-- Physical cells before a save, by cell rank (R260). -/
  phys : List Nat
  /-- Hart ranks that have halted (R196, R396). -/
  halted : List Nat
  deriving DecidableEq, Repr

/-- A member that has been chosen for placement (R265). -/
structure Member where
  id : MemberId
  state : MState
  crews : List Crew
  readyAt : Nat
  /-- Held by the energy ceiling (R403). -/
  energyHeld : Bool
  /-- Crew ranks moved for heat, with their target dies (R406). -/
  moves : List (Nat × Nat)
  ceiling : Word
  /-- Dies whose freed resources it holds (R392). -/
  reserved : List Nat
  /-- Base and size of the save areas of a killed member's crews (R266). -/
  areas : List (Nat × Nat)
  kcause : Nat
  backfill : Bool
  deriving DecidableEq, Repr

/-- A record the schedulers have read (R389, R390), with the objects it names, its claim table, the next member to
place, and its completions. -/
structure Batch where
  queue : Nat
  seq : Nat
  dw : List Word
  claims : List Word
  doneObj : Option ObjRef
  deps : List (ObjRef × Bool)
  next : Nat
  ok : Nat
  killed : Nat
  kcause : Nat
  readyAt : Nat
  finished : Bool
  deriving DecidableEq, Repr

/-- What a phase of a barrier object has counted (R194): a BOADD, a BOARR or a completion, and the device bytes that the
commands which arrived have written, as ranges of first byte and length. -/
structure Arrivals where
  software : Bool
  wrote : List (Nat × Nat)
  deriving DecidableEq, Repr

/-- The arrivals at a barrier object: those of its current phase and those of its last completed one. -/
structure PhaseLog where
  obj : ObjRef
  now : Arrivals
  last : Arrivals
  deriving DecidableEq, Repr

/-- What is still to be written into a saved crew's area whose home is held (R307): an arrival at an object, or the status
doubleword of an LKACC, by its crew's window or by its address. -/
inductive Late where
  | arrival (obj : ObjRef) (n : Nat) (x : Arrivals)
  | status (at_ : ObjRef) (w : Word)
  | word (pa : Nat) (w : Word)
  deriving DecidableEq, Repr

/-- A 32-byte register of four doublewords: a region, a window, a launch queue (R384, R386, R387). -/
structure Quad where
  d0 : Word
  d1 : Word
  d2 : Word
  d3 : Word
  deriving DecidableEq, Repr

/-- The state of a connection set-up (R383). -/
inductive CmState where
  | idle | reqReceived | established | rejected
  deriving DecidableEq, Repr

/-- What an incoming request asks (R383). -/
inductive IncomingOp where
  | write (data : List Byte)
  | read (len : Nat)
  | compareSwap (cmp swap : Word)
  | fetchAdd (add : Word)
  deriving DecidableEq, Repr

/-- An incoming request that waits at the I/O die for a held home, or behind such a one of its connection (R285, R307). -/
structure Incoming where
  head : RdmaHead
  op : IncomingOp
  deriving DecidableEq, Repr

/-- A queue pair (R383): its retries and RNR retries left, its path MTU and local ACK timeout, its send rate, when it last sent a CNP, and its requests that wait,
in posting order (R285). -/
structure Qp where
  cm : CmState
  error : Bool
  retries : Nat
  rnr : Nat
  mtu : Nat
  timeout : Nat
  rate : Nat
  cnpAt : Option Nat
  held : List Incoming
  deriving DecidableEq, Repr

/-- A request to remote memory that has left through an outbound window (R386): the core that issued it and whether it
waits, where its lane thread's answers start, or the stream command; the window it left through and, as that stood when it
left, its port, queue pair, remote address and key; the place, and the bytes of a write or the length of a read. `sentAt` is
cr.time when it left, `owner` the hart of a request replayed for a saved crew, and `merge` the masked bytes that a read's answer is to be merged with and
written back (R273, R288). A steward's request to die-control space stands here too. -/
structure Outbound where
  id : Nat
  core : Option CoreId
  owner : Option (CrewRef × Nat)
  sentAt : Nat
  base : Nat
  stream : Option Nat
  waits : Bool
  window : Nat
  port : Nat
  qp : Nat
  rva : Word
  rkey : BitVec 32
  pa : Nat
  va : Word
  elem : Nat
  write : List Byte
  merge : List (Byte × Byte)
  read : Nat
  atomic : Option (Nat × Word × Word)
  valid : Bool
  deriving DecidableEq, Repr

/-- What the panel sends out: boot replies (R352), RDMA answers (R383, R385), connection messages. -/
inductive Reply where
  | boot (f : BootFrame)
  | ack (qp : Nat)
  | readData (qp : Nat) (data : List Byte)
  | atomicData (qp : Nat) (old : Word)
  | nak (qp : Nat) (name : String)
  | cnp (qp : Nat)
  | retry (qp : Nat)
  | cm (qp : Nat) (message : String)
  deriving DecidableEq, Repr

/-- The part data as MAP applies it (R357). -/
structure PartData where
  serial : List Byte
  grade : Nat
  /-- Physical cell by 64·d + r, and physical die by logical die; 255 for none. -/
  cellmap : Tbl Nat
  ldie : Tbl Nat
  vf : List Byte
  guard : List Byte
  lanes : List Byte
  banks : List Byte
  idkey : List Byte
  deriving DecidableEq, Repr

/-- An image in the boot buffer (R353, R354). -/
structure Image where
  opened : Bool
  total : Nat
  bytes : Memory
  verdict : BitVec 8
  verified : Bool
  deriving DecidableEq, Repr

/-- The boot ROM and security block (R349 to R361). -/
structure Boot where
  stage : Nat
  heating : Bool
  /-- The stage HEAT was entered from, as far as what remains to be done goes (R349, R350). -/
  after : Nat
  part : Image
  fw : Image
  /-- The open image: 1 part data, 2 firmware. -/
  opened : Nat
  aborts : Nat
  heaterUsed : Bool
  alarm : Bool
  acause : BitVec 4
  /-- The identity private key, while it exists (R358). -/
  idkey : Option Nat
  /-- The session secret, from ROM until the alarm (R359, R360). -/
  secret : Option (BitVec 256)
  powered : Bool
  /-- A site has reached 120 °C since release (R408). -/
  overheated : Bool
  /-- Site temperatures when MAP ended: those of the links' and DRAM's first training (R410). -/
  trainTemps : List Int
  deriving DecidableEq, Repr

/-- One choice of who moves next: an event of some agent, or an instruction of a core. -/
inductive Choice where
  | event (i : Instr)
  | issue (c : CoreId)
  deriving DecidableEq, Repr

/-- The state of the panel. -/
structure State where
  /-- cr.time (R29). -/
  time : Nat
  /-- The model's counter of free values (log 1). -/
  ticks : Nat
  /-- The model's schedule: choices to be made before the default order of `step` (log 4). -/
  schedule : List Choice
  /-- The model's count of steps, but for the schedule's events; by it harts and other agents alternate (log 4). -/
  turn : Nat
  /-- The core an encoded instruction is executed for. -/
  cur : CoreId
  boot : Boot
  part : PartData
  panel : BitVec 21
  idSet : Bool
  cores : List Core
  /-- Holds: byte `off` of cell `p` of die `d` at (64·d + p)·2^19 + off. -/
  hold : Memory
  /-- DRAM by stack·2^35 + bank·2^26 + row·2^10 + byte (R367). -/
  dram : Memory
  /-- The home die caches' bytes that DRAM does not hold yet, by device physical address (R271, R413). -/
  homeCache : Tbl Byte
  /-- Mailbox rows by stack·2^22 + bank·2^13 + byte (R216). -/
  mailbox : Memory
  cells : Tbl Cell
  dies : Tbl Die
  stackTbl : Tbl Stack
  members : List Member
  batches : List Batch
  /-- What the phases of barrier objects have counted (R194). -/
  phases : List PhaseLog
  /-- Writes to saved crews' areas that wait for their homes, oldest first (R307). -/
  late : List Late
  /-- Objects that records posted by LAUNCH name, by queue and sequence (R207). -/
  binds : List ((Nat × Nat) × (Option ObjRef × List (ObjRef × Bool)))
  queues : Tbl Quad
  regions : Tbl Quad
  windows : Tbl Quad
  /-- The replica sets as the I/O dies hold them: what the broadcast alias has written (R375). -/
  ioSets : Tbl ReplicaSet
  eventRing : Quad
  eventSerial : Word
  qps : Tbl Qp
  dropped : Nat
  /-- Paused priorities by port (R383). -/
  paused : List (Nat × Nat)
  outbound : List Outbound
  tx : List Reply
  /-- The number of the next command or request. -/
  nextId : Nat
  temps : List Int
  /-- The panel power budget in W as last applied, 0 before the first (R398, R400). -/
  budget : Nat
  /-- Corrected and uncorrectable errors since release (R398). -/
  ceTotal : Nat
  ueTotal : Nat
  deriving DecidableEq, Repr

/-- cr.cause of a hart that has taken no trap (R29). -/
def CauseReg.zero : CauseReg := ⟨0, false, 0, false, false⟩

/-- Registers of a steward core at power-up (R29, R361, R364). -/
def StewardRegs.reset : StewardRegs := ⟨true, 0, 0, .zero, 0, 0, false, false, 1, 0, 0, .zero, 0⟩

/-- No split mode (R32). -/
def Split.off : Split := ⟨false, false, 0, 0, 0, 0, Vector.replicate 16 0, 0⟩

/-- A strip with nothing recorded (R112). -/
def Strip.empty : Strip := ⟨[], [], none, [], [], 0⟩

/-- Memory with nothing in it, as a core sees it that has fetched nothing. -/
def Code.empty : Code := ⟨[], [], [], [], []⟩

/-- A core when it starts at `entry` with argument block `args` and a grant (R11, R22, R29). What a steward core, which has no
cell, reads of cr.cellphys and the like is log 5. -/
def Core.start (id : CoreId) (crew : Option (CrewRef × Nat)) (level : Level) (entry args : Word)
    (grant : BitVec 5) : Core where
  id := id
  crew := crew
  level := level
  g := (Vector.replicate 32 0).set 1 args
  v := Vector.replicate 64 0
  m := Vector.replicate 48 0
  y := Vector.replicate 8 0
  dtab := []
  lq := []
  pc := entry
  frm := 0
  fflags := 0
  tvec := 0
  epc := 0
  cause := .zero
  eaddr := 0
  eelem := 0
  moved := 0
  scratch := 0
  vl := 0
  rc := 1
  ill := true
  glog := 0
  fmt := 0
  ckpt := entry
  grant := grant
  split := .off
  crewReg := 0
  rank := 0
  holdsize := 0
  holdbase := 0
  cellphys := 0
  energy := 0
  st := .reset
  strip := .empty
  stepwise := false
  around := false
  frame := none
  latch := false
  wait := .none
  laneWaits := []
  ckptKept := false
  parked := none
  pending := ⟨none, none, false⟩
  request := grant
  target := none
  stopAsked := false
  stopped := false
  cbars := 0
  tbars := 0
  released := false
  share := 0
  dbg := []
  dbgCount := 0
  code := .empty
  fetched := []
  remote := []
  readySince := 0

/-- A cell with nothing in it. -/
def Cell.reset : Cell := ⟨[], [], [], [], 0, 0, [], []⟩

/-- A die at power-up (R363, R399, R404, R411). -/
def Die.reset : Die where
  ptroot := 0
  fqbase := 0
  fqhead := 0
  fqtail := 0
  faultWait := []
  tlbva := 0
  tlbBusy := false
  tlbFrom := 0
  tlbCount := 0
  spbase := 0
  spsize := 0
  rt := []
  fmap := []
  sealt := 0
  rset := []
  tlb := []
  nonHome := []
  denergy := 0
  dpower := 0
  dbudget := 0xFFFFFFFF
  pcell := 1100
  level := 0x00100000
  drain := 65536
  vfsel := 0
  thot := 95
  stretch := 0
  dce := 0
  cce := 0
  lrt := 0
  ue := 0
  retries := 0
  retire := 0
  cellUe := []
  guard := 0
  coolDrain := none
  heater := false
  modules := []
  trained := []
  dead := false

/-- A bank of a newly admitted launch (R212). -/
def Bank.reset : Bank := ⟨[], [], false, [], []⟩

/-- The bank state a newly admitted launch finds (R212). -/
def BankState.reset : BankState := ⟨[], [], []⟩

/-- A stack after reset: its first candidate owns it (R4). -/
def Stack.reset : Stack := ⟨false, none, [], [], none, .reset, [], [], [], [], [], false⟩

/-- No image. DESIGN CHOICE: its last verdict, which STATUS gives before any END of its kind, is 0 (R352; log 28). -/
def Image.none : Image := ⟨false, 0, [], 0, false⟩

/-- A queue pair before any connection. -/
def Qp.reset : Qp := ⟨.idle, false, 0, 0, 0, 0, 0, none, []⟩

/-- The panel right after power good: stage ROM (R349), no core, nothing in any memory, every register at its reset
value. -/
def State.reset : State where
  time := 0
  ticks := 0
  schedule := []
  turn := 0
  cur := .hart 0 0 0
  boot := ⟨1, false, 2, .none, .none, 0, 0, false, false, 0, Option.none, Option.none, true, false, []⟩
  part := ⟨[], 8192, [], [], [], [], [], [], []⟩
  panel := 0
  idSet := false
  cores := []
  hold := []
  dram := []
  homeCache := []
  mailbox := []
  cells := []
  dies := []
  stackTbl := []
  members := []
  batches := []
  phases := []
  late := []
  binds := []
  queues := []
  regions := []
  windows := []
  ioSets := []
  eventRing := ⟨0, 0, 0, 0⟩
  eventSerial := 0
  qps := []
  dropped := 0
  paused := []
  outbound := []
  tx := []
  nextId := 0
  temps := []
  budget := 0
  ceTotal := 0
  ueTotal := 0

end Sys2Proof.Machine
end

