-- ==== Sys2Proof/Machine/Flags.lean ====
section
/-! DEFINITION. Number formats, rounding with flags, and the arithmetic that combines rounded values (R20, R37 to R60).
Values are exact: a finite value is a sign, a natural number and a power of two. Encodings are natural numbers. -/

namespace Sys2Proof.Machine

/-- The flags of cr.fflags: NV 0, OF 1, UF 2, NX 3, DZ 4 (R29). -/
abbrev Flags := BitVec 5

def flagNV : Flags := 1
def flagOF : Flags := 2
def flagUF : Flags := 4
def flagNX : Flags := 8
def flagDZ : Flags := 16

/-- Width of a format in bits by its code (R20). -/
def fmtWidth (f : BitVec 4) : Nat :=
  match f.toNat with
  | 0 => 2 | 1 => 4 | 2 => 8 | 3 => 16 | 4 => 32 | 5 => 64 | 6 => 8 | 7 => 16
  | 8 => 32 | 9 => 64 | 10 => 4 | 11 => 8 | 12 => 8 | 13 => 16 | 14 => 16 | _ => 32

/-- A floating-point format code (R20). -/
def isFloat (f : BitVec 4) : Bool := decide (10 ≤ f.toNat)

/-- A signed integer format code (R20). -/
def isSigned (f : BitVec 4) : Bool := decide (f.toNat ≤ 5)

def fmtF32 : BitVec 4 := 15

/-- A floating-point format (R39): width, mantissa bits, bias, greatest finite magnitude, whether it has infinities and
NaNs, and its canonical NaN. -/
structure FloatFmt where
  w : Nat
  m : Nat
  bias : Nat
  greatest : Nat
  infs : Bool
  nans : Bool
  nan : Nat

/-- The floating-point formats by code (R39). -/
def floatFmt (f : BitVec 4) : FloatFmt :=
  match f.toNat with
  | 10 => ⟨4, 1, 1, 7, false, false, 0⟩
  | 11 => ⟨8, 3, 7, 0x7E, false, true, 0x7F⟩
  | 12 => ⟨8, 2, 15, 0x7B, true, true, 0x7E⟩
  | 13 => ⟨16, 10, 15, 0x7BFF, true, true, 0x7E00⟩
  | 14 => ⟨16, 7, 127, 0x7F7F, true, true, 0x7FC0⟩
  | _ => ⟨32, 23, 127, 0x7F7FFFFF, true, true, 0x7FC00000⟩

/-- The value of an encoding (R42): NaN, quiet or signalling; an infinity; or ± mag · 2^exp, zero with its sign. -/
inductive Val where
  | nan (signalling : Bool)
  | inf (neg : Bool)
  | fin (neg : Bool) (mag : Nat) (exp : Int)
  deriving DecidableEq, Repr

/-- Bits [n−1:0] of x as an unsigned integer (R42). -/
def zext (x n : Nat) : Nat := x % 2 ^ n

/-- Bits [n−1:0] of x as a two's-complement integer (R42). -/
def sext (x n : Nat) : Int :=
  if zext x n / 2 ^ (n - 1) % 2 = 1 then (zext x n : Int) - 2 ^ n else zext x n

/-- The n-bit two's-complement form of an integer. -/
def toField (x : Int) (n : Nat) : Nat := (x % 2 ^ n).toNat

/-- x clamped to the range lo to hi (R42). -/
def sat (x lo hi : Int) : Int := if x < lo then lo else if x > hi then hi else x

/-- Whether `sat` clamps (R42). -/
def satBit (x lo hi : Int) : Bool := decide (x < lo) || decide (x > hi)

/-- Least value of an integer format (R37). -/
def leastOf (f : BitVec 4) : Int := if isSigned f then -2 ^ (fmtWidth f - 1) else 0

/-- Greatest value of an integer format (R37). -/
def greatestOf (f : BitVec 4) : Int :=
  if isSigned f then 2 ^ (fmtWidth f - 1) - 1 else 2 ^ fmtWidth f - 1

/-- An integer format's reading of an encoding (R37). -/
def intOf (f : BitVec 4) (b : Nat) : Int :=
  if isSigned f then sext b (fmtWidth f) else zext b (fmtWidth f)

/-- An integer as a value. -/
def valOfInt (x : Int) : Val := .fin (decide (x < 0)) x.natAbs 0

/-- The value of an encoding in a floating-point format (R39 to R41). -/
def floatVal (f : BitVec 4) (b : Nat) : Val :=
  let k := floatFmt f
  let neg := decide (b / 2 ^ (k.w - 1) % 2 = 1)
  let mag := b % 2 ^ (k.w - 1)
  let e := mag / 2 ^ k.m
  let frac := mag % 2 ^ k.m
  if k.infs && decide (mag > k.greatest) then
    if frac = 0 then .inf neg else .nan (decide (frac / 2 ^ (k.m - 1) = 0))
  else if k.nans && decide (mag > k.greatest) then .nan false
  else if e = 0 then .fin neg frac (1 - (k.bias : Int) - k.m)
  else .fin neg (2 ^ k.m + frac) ((e : Int) - k.bias - k.m)

/-- The value of encoding b in format f (R42). -/
def valOf (f : BitVec 4) (b : Nat) : Val :=
  if isFloat f then floatVal f b else valOfInt (intOf f b)

/-- Rounding modes (R43). -/
inductive Rmode where
  | rne | rtz | rdn | rup
  deriving DecidableEq, Repr

/-- The mode in cr.frm (R29). -/
def modeOfFrm (frm : BitVec 2) : Rmode :=
  match frm.toNat with
  | 0 => .rne | 1 => .rtz | 2 => .rdn | _ => .rup

/-- A rounding code, with DYN reading cr.frm (R43). -/
def modeOf (rm : BitVec 3) (frm : BitVec 2) : Rmode :=
  match rm.toNat with
  | 0 => .rne | 1 => .rtz | 2 => .rdn | 3 => .rup | _ => modeOfFrm frm

/-- The magnitude n/d rounded to an integer for a value of the given sign, and whether it was inexact. -/
def roundDiv (mode : Rmode) (neg : Bool) (n d : Nat) : Nat × Bool :=
  let q := n / d
  let r := n % d
  let up : Bool :=
    match mode with
    | .rne => decide (2 * r > d) || (decide (2 * r = d) && decide (q % 2 = 1))
    | .rtz => false
    | .rdn => neg && decide (r ≠ 0)
    | .rup => !neg && decide (r ≠ 0)
  (if up then q + 1 else q, decide (r ≠ 0))

/-- floor(log2(n/d)) for positive n and d. -/
def floorLog2 (n d : Nat) : Int :=
  let k : Int := (Nat.log2 n : Int) - Nat.log2 d
  if k ≥ 0 then (if n < d * 2 ^ k.toNat then k - 1 else k)
  else (if n * 2 ^ (-k).toNat < d then k - 1 else k)

/-- An encoding with a sign put on its magnitude bits. -/
def withSign (f : BitVec 4) (neg : Bool) (mag : Nat) : Nat :=
  if neg then 2 ^ ((floatFmt f).w - 1) + mag else mag

/-- What an overflow of the given sign becomes (R45). -/
def overflowTo (f : BitVec 4) (mode : Rmode) (saturate neg : Bool) : Nat :=
  let k := floatFmt f
  let away : Bool := match mode with
    | .rne => true | .rtz => false | .rdn => neg | .rup => !neg
  if saturate || !away then withSign f neg k.greatest
  else if k.infs then withSign f neg (k.greatest + 1)
  else if k.nans then k.nan
  else withSign f neg k.greatest

/-- What ±∞ becomes in a format (R45). -/
def infinityTo (f : BitVec 4) (saturate neg : Bool) : Nat × Flags :=
  let k := floatFmt f
  if saturate then (withSign f neg k.greatest, flagNV)
  else if k.infs then (withSign f neg (k.greatest + 1), 0)
  else if k.nans then (k.nan, flagNV)
  else (withSign f neg k.greatest, flagNV)

/-- What NaN becomes in a format (R41, R46). -/
def nanTo (f : BitVec 4) : Nat × Flags :=
  if (floatFmt f).nans then ((floatFmt f).nan, 0) else (0, flagNV)

/-- ±(num/den)·2^e, not zero, rounded into a floating-point format with its flags (R44, R45). The magnitude bits of an
encoding with quantum 2^q and n quanta are (q + m + bias)·2^m + n − 2^m, subnormals and carries into the exponent
included. -/
def rndRatio (f : BitVec 4) (mode : Rmode) (saturate neg : Bool) (num den : Nat) (e : Int) : Nat × Flags :=
  let k := floatFmt f
  let emin : Int := 1 - k.bias
  let p := floorLog2 num den + e
  let q : Int := (if p ≥ emin then p else emin) - k.m
  let sh := e - q
  let (n, inexact) := roundDiv mode neg (num * 2 ^ sh.toNat) (den * 2 ^ (-sh).toNat)
  let mag := ((q + k.m + k.bias) * 2 ^ k.m + n - 2 ^ k.m).toNat
  if mag > k.greatest then (overflowTo f mode saturate neg, flagOF ||| flagNX)
  else
    (withSign f neg mag,
      (if inexact then flagNX else 0) ||| (if inexact && decide (p < emin) then flagUF else 0))

/-- A value rounded into a floating-point format (R44 to R46). -/
def rndFloat (f : BitVec 4) (mode : Rmode) (saturate : Bool) : Val → Nat × Flags
  | .nan _ => nanTo f
  | .inf neg => infinityTo f saturate neg
  | .fin neg 0 _ => (withSign f neg 0, 0)
  | .fin neg (m + 1) e => rndRatio f mode saturate neg (m + 1) 1 e

/-- A value rounded into an integer format (R46). -/
def rndInt (f : BitVec 4) (mode : Rmode) : Val → Nat × Flags
  | .nan _ => (0, flagNV)
  | .inf neg => (toField (if neg then leastOf f else greatestOf f) (fmtWidth f), flagNV)
  | .fin neg m e =>
    let (n, inexact) := roundDiv mode neg (m * 2 ^ e.toNat) (2 ^ (-e).toNat)
    let y : Int := if neg then -(n : Int) else n
    if satBit y (leastOf f) (greatestOf f) then
      (toField (sat y (leastOf f) (greatestOf f)) (fmtWidth f), flagNV)
    else (toField y (fmtWidth f), if inexact then flagNX else 0)

/-- rnd of R42. -/
def rnd (f : BitVec 4) (mode : Rmode) (saturate : Bool) (x : Val) : Nat × Flags :=
  if isFloat f then rndFloat f mode saturate x else rndInt f mode x

/-- Whether a value is a signalling NaN (R41). -/
def Val.isSig : Val → Bool
  | .nan s => s
  | _ => false

/-- The conversion of R49 and R50. With SAT an infinity is the greatest finite value with NV (R45, R49) in a pair too that R50 lists as
exact, which it does not except (log 30). -/
def convert (src dst : BitVec 4) (mode : Rmode) (saturate : Bool) (b : Nat) : Nat × Flags :=
  if !isFloat src && !isFloat dst then
    let x := intOf src b
    (toField (if saturate then sat x (leastOf dst) (greatestOf dst) else x) (fmtWidth dst), 0)
  else
    let x := valOf src b
    let (r, fl) := rnd dst mode saturate x
    (r, fl ||| (if x.isSig then flagNV else 0))

/-- An addend of R48: its value, whether an operand of it is a signalling NaN, and whether it is the invalid ∞ · 0. -/
structure Addend where
  val : Val
  sig : Bool
  invalid : Bool

/-- An operand as an addend. -/
def Addend.of (x : Val) : Addend := ⟨x, x.isSig, false⟩

/-- The sign of a value. -/
def Val.neg : Val → Bool
  | .nan _ => false
  | .inf n => n
  | .fin n _ _ => n

def Val.isNan : Val → Bool
  | .nan _ => true
  | _ => false

def Val.isInf : Val → Bool
  | .inf _ => true
  | _ => false

def Val.isZero : Val → Bool
  | .fin _ 0 _ => true
  | _ => false

/-- The value with its sign turned. -/
def Val.negate : Val → Val
  | .nan s => .nan s
  | .inf n => .inf (!n)
  | .fin n m e => .fin (!n) m e

/-- The magnitude of a product of finite values. -/
def Val.mag : Val → Nat
  | .fin _ m _ => m
  | _ => 0

def Val.exp : Val → Int
  | .fin _ _ e => e
  | _ => 0

/-- The exact product of factors (R48): a NaN factor makes it a NaN, and an infinity with a zero is invalid, be a quiet NaN
among the factors or not (log 30). -/
def product (xs : List Val) : Addend :=
  let neg := xs.foldl (fun s x => s != x.neg) false
  if xs.any Val.isNan then ⟨.nan false, xs.any Val.isSig, xs.any Val.isInf && xs.any Val.isZero⟩
  else if xs.any Val.isInf then
    if xs.any Val.isZero then ⟨.nan false, false, true⟩ else ⟨.inf neg, false, false⟩
  else ⟨.fin neg (xs.foldl (fun p x => p * x.mag) 1) (xs.foldl (fun e x => e + x.exp) 0), false, false⟩

/-- The least exponent of finite addends. -/
def minExp (xs : List Addend) : Int :=
  xs.foldl (fun e a => if a.val.exp < e then a.val.exp else e) 0

/-- The exact sum of finite addends, in units of 2^`e`. -/
def exactSum (e : Int) (xs : List Addend) : Int :=
  xs.foldl (fun s a =>
    let m : Int := (a.val.mag : Int) * 2 ^ (a.val.exp - e).toNat
    s + (if a.val.neg then -m else m)) 0

/-- The value of an exact sum, with the sign of a zero by R48 steps 5 and 6. -/
def sumVal (mode : Rmode) (xs : List Addend) : Val :=
  let e := minExp xs
  let s := exactSum e xs
  if s ≠ 0 then .fin (decide (s < 0)) s.natAbs e
  else if xs.all (fun a => a.val.isZero && a.val.neg) then .fin true 0 0
  else if xs.all (fun a => a.val.isZero && !a.val.neg) then .fin false 0 0
  else .fin (decide (mode = .rdn)) 0 0

/-- sum_rule of R48: the addends summed exactly with one rounding. -/
def sumRule (f : BitVec 4) (mode : Rmode) (xs : List Addend) : Nat × Flags :=
  let pos := xs.any (fun a => decide (a.val = .inf false))
  let neg := xs.any (fun a => decide (a.val = .inf true))
  if xs.any (fun a => a.val.isNan || a.invalid) || (pos && neg) then
    let (b, fl) := nanTo f
    (b, fl ||| (if xs.any (fun a => a.sig || a.invalid) || (pos && neg) then flagNV else 0))
  else if pos then infinityTo f false false
  else if neg then infinityTo f false true
  else rndFloat f mode false (sumVal mode xs)

/-- A product rounded once (R48, R147). -/
def mulRule (f : BitVec 4) (mode : Rmode) (a b : Val) : Nat × Flags :=
  let p := product [a, b]
  let (r, fl) := rndFloat f mode false p.val
  (r, fl ||| (if p.sig || p.invalid then flagNV else 0))

/-- A NaN result: the canonical NaN, with NV for a signalling operand (R41). -/
def nanResult (f : BitVec 4) (sig : Bool) : Nat × Flags :=
  let (b, fl) := nanTo f
  (b, fl ||| (if sig then flagNV else 0))

/-- A NaN result that is invalid. -/
def invalidResult (f : BitVec 4) : Nat × Flags := nanResult f true

/-- A special case that gives a signed infinity and raises `fl` (R55). -/
def infResult (f : BitVec 4) (neg : Bool) (fl : Flags) : Nat × Flags :=
  let (b, g) := infinityTo f false neg
  (b, fl ||| g)

/-- VFDIV (R55). -/
def divRule (f : BitVec 4) (mode : Rmode) (a b : Val) : Nat × Flags :=
  let neg := a.neg != b.neg
  match a, b with
  | .nan s, x => nanResult f (s || x.isSig)
  | _, .nan s => nanResult f s
  | .inf _, .inf _ => invalidResult f
  | .inf _, .fin _ _ _ => infResult f neg 0
  | .fin _ _ _, .inf _ => rndFloat f mode false (.fin neg 0 0)
  | .fin _ 0 _, .fin _ 0 _ => invalidResult f
  | .fin _ (_ + 1) _, .fin _ 0 _ => infResult f neg flagDZ
  | .fin _ 0 _, .fin _ (_ + 1) _ => rndFloat f mode false (.fin neg 0 0)
  | .fin _ (m + 1) e, .fin _ (n + 1) d => rndRatio f mode false neg (m + 1) (n + 1) (e - d)

/-- The integer part of the square root, by bisection over `fuel` bits. -/
def isqrt (n : Nat) : Nat → Nat → Nat
  | 0, r => r
  | fuel + 1, r =>
    let t := r + 2 ^ fuel
    if t * t ≤ n then isqrt n fuel t else isqrt n fuel r

/-- VFSQRT (R55). The root of m·2^e is taken over 64 bits below an even exponent with a half unit standing for any
remainder, which rounds as the exact root does. -/
def sqrtRule (f : BitVec 4) (mode : Rmode) (a : Val) : Nat × Flags :=
  match a with
  | .nan s => nanResult f s
  | .inf false => infResult f false 0
  | .inf true => invalidResult f
  | .fin neg 0 _ => rndFloat f mode false (.fin neg 0 0)
  | .fin true (_ + 1) _ => invalidResult f
  | .fin false (m + 1) e =>
    let sh : Nat := if (e % 2) = 0 then 128 else 129
    let n := (m + 1) * 2 ^ sh
    let r := isqrt n 128 0
    rndRatio f mode false false (2 * r + (if r * r = n then 0 else 1)) 2 ((e - sh) / 2)

/-- The .f32 value nearest to x, with no flag: rndq to .f32 under RNE (R42, R56). -/
def rndq (x : Val) : Val := valOf fmtF32 (rndFloat fmtF32 .rne false x).1

/-- The exact sum of two finite values; zero is +0. -/
def addv (a b : Val) : Val := sumVal .rne [.of a, .of b]

/-- The exact product of two finite values. -/
def mulv (a b : Val) : Val := (product [a, b]).val

/-- One rndq of the exact a · b + c (R56). -/
def fmaq (a b c : Val) : Val := rndq (addv (mulv a b) c)

/-- A .f32 constant by its encoding (R56). -/
def c32 (b : Nat) : Val := valOf fmtF32 b

/-- A value scaled by 2^k. -/
def scale (x : Val) (k : Int) : Val :=
  match x with
  | .fin n m e => .fin n m (e + k)
  | x => x

/-- A finite value rounded to an integer, ties to even. -/
def toInteger (x : Val) : Int :=
  let n := (roundDiv .rne x.neg (x.mag * 2 ^ x.exp.toNat) (2 ^ (-x.exp).toNat)).1
  if x.neg then -(n : Int) else n

/-- Whether a finite value's magnitude exceeds 160. -/
def above160 (x : Val) : Bool := decide (x.mag * 2 ^ x.exp.toNat > 160 * 2 ^ (-x.exp).toNat)

/-- VFEXP2 (R57). -/
def exp2Rule (f : BitVec 4) (mode : Rmode) (a : Val) : Nat × Flags :=
  match a with
  | .nan s => nanResult f s
  | .inf false => infResult f false 0
  | .inf true => rndFloat f mode false (.fin false 0 0)
  | .fin neg _ _ =>
    let x : Val := if above160 a then .fin neg 160 0 else a
    let n := toInteger x
    let r := addv x (valOfInt (-n))
    let p := [0x39218489, 0x3AAEC3FF, 0x3C1D955B, 0x3D635847, 0x3E75FDF0, 0x3F317218, 0x3F800000].foldl
      (fun p c => fmaq p r (c32 c)) (c32 0x377FE5FD)
    rndFloat f mode false (scale p n)

/-- A positive value as m·2^e with 1 ≤ m < 2 exactly (R58, R59). -/
def normalise (m : Nat) (e : Int) : Val × Int :=
  let k : Int := Nat.log2 m
  (.fin false m (-k), e + k)

/-- Whether m exceeds 0x3FB5_04F3, the constant of R58. -/
def aboveRoot2 (m : Val) : Bool := !(addv (c32 0x3FB504F3) m.negate).isZero && (addv (c32 0x3FB504F3) m.negate).neg

/-- The quotient of two finite values rounded once to .f32 (R58). -/
def divq (a b : Val) : Val := valOf fmtF32 (divRule fmtF32 .rne a b).1

/-- VFLOG2 (R58). -/
def log2Rule (f : BitVec 4) (mode : Rmode) (a : Val) : Nat × Flags :=
  match a with
  | .nan s => nanResult f s
  | .inf false => infResult f false 0
  | .inf true => invalidResult f
  | .fin _ 0 _ => infResult f true flagDZ
  | .fin true (_ + 1) _ => invalidResult f
  | .fin false (k + 1) x =>
    let (m0, e0) := normalise (k + 1) x
    let (m, e) := if aboveRoot2 m0 then (scale m0 (-1), e0 + 1) else (m0, e0)
    let one := c32 0x3F800000
    let t := divq (rndq (addv m one.negate)) (rndq (addv m one))
    let s := rndq (mulv t t)
    let q := [0x3ED30BB1, 0x3F13BB63, 0x3F76384F, 0x4038AA3B].foldl
      (fun q c => fmaq q s (c32 c)) (c32 0x3EA4258A)
    let u := rndq (mulv t q)
    sumRule f mode [.of (valOfInt e), .of u]

/-- VFRCP (R59). -/
def rcpRule (f : BitVec 4) (mode : Rmode) (a : Val) : Nat × Flags :=
  match a with
  | .nan s => nanResult f s
  | .inf neg => rndFloat f mode false (.fin neg 0 0)
  | .fin neg 0 _ => infResult f neg flagDZ
  | .fin neg (k + 1) x =>
    let (m, e) := normalise (k + 1) x
    let one := c32 0x3F800000
    let y0 := fmaq (c32 0xBEF0F0F1) m (c32 0x3FB4B4B5)
    let y := [1, 2, 3].foldl (fun y _ => fmaq y (fmaq m.negate y one) y) y0
    rndFloat f mode false (scale (if neg then y.negate else y) (-e))

/-- VFRSQ (R60). -/
def rsqRule (f : BitVec 4) (mode : Rmode) (a : Val) : Nat × Flags :=
  match a with
  | .nan s => nanResult f s
  | .inf false => rndFloat f mode false (.fin false 0 0)
  | .inf true => invalidResult f
  | .fin neg 0 _ => infResult f neg flagDZ
  | .fin true (_ + 1) _ => invalidResult f
  | .fin false (k + 1) x =>
    let (m0, e0) := normalise (k + 1) x
    let (m, e) := if e0 % 2 = 0 then (m0, e0) else (scale m0 1, e0 - 1)
    let one := c32 0x3F800000
    let half := c32 0x3F000000
    let y0 := fmaq (fmaq (c32 0x3D55FB7F) m (c32 0xBEDB1286)) m (c32 0x3FB014C6)
    let y := [1, 2, 3].foldl (fun y _ =>
      fmaq (rndq (mulv half y)) (fmaq m.negate (rndq (mulv y y)) one) y) y0
    rndFloat f mode false (scale y (-(e / 2)))

/-- a < b for values that are not NaN; `zeros` says whether −0 counts as less than +0 (R54, R147, R148). -/
def ltVal (zeros : Bool) (a b : Val) : Bool :=
  match a, b with
  | .nan _, _ => false
  | _, .nan _ => false
  | .inf n, .inf k => n && !k
  | .inf n, .fin _ _ _ => n
  | .fin _ _ _, .inf n => !n
  | .fin na 0 _, .fin nb 0 _ => zeros && na && !nb
  | a, b =>
    let d := sumVal .rne [.of a, .of b.negate]
    d.neg && !d.isZero

/-- The encoding of a value of format `f` that is exact in it. -/
def encodeExact (f : BitVec 4) (x : Val) : Nat := (rndFloat f .rne false x).1

/-- The greater of two values, +0 above −0, NaN if either is NaN (R54). -/
def maxRule (f : BitVec 4) (a b : Val) : Nat × Flags :=
  if a.isNan || b.isNan then nanResult f (a.isSig || b.isSig)
  else (encodeExact f (if ltVal true a b then b else a), 0)

/-- The lesser of two values, −0 below +0, NaN if either is NaN (R147). -/
def minRule (f : BitVec 4) (a b : Val) : Nat × Flags :=
  if a.isNan || b.isNan then nanResult f (a.isSig || b.isSig)
  else (encodeExact f (if ltVal true b a then b else a), 0)

/-- VFCMP: the condition EQ, LT, LE or UN and its flags (R148). -/
def fcmpRule (cond : BitVec 2) (a b : Val) : Bool × Flags :=
  let nan := a.isNan || b.isNan
  let sig := a.isSig || b.isSig
  let eq := !nan && !ltVal false a b && !ltVal false b a
  match cond.toNat with
  | 0 => (eq, if sig then flagNV else 0)
  | 1 => (!nan && ltVal false a b, if nan then flagNV else 0)
  | 2 => (!nan && !ltVal false b a, if nan then flagNV else 0)
  | _ => (nan, if sig then flagNV else 0)

/-- VFCLASS (R150). -/
def classRule (f : BitVec 4) (b : Nat) : Nat :=
  let k := floatFmt f
  let sign := if b / 2 ^ (k.w - 1) % 2 = 1 then 8 else 0
  let e := b % 2 ^ (k.w - 1) / 2 ^ k.m
  sign + match floatVal f b with
    | .nan s => if s then 5 else 4
    | .inf _ => 3
    | .fin _ m _ => if m = 0 then 0 else if e = 0 then 1 else 2

/-- VFKEY (R152). -/
def keyRule (f : BitVec 4) (b : Nat) : Nat :=
  let w := fmtWidth f
  let top := 2 ^ (w - 1)
  let flip := if b / top % 2 = 1 then b - top else b + top
  if isFloat f then (if b / top % 2 = 1 then 2 ^ w - 1 - b else flip)
  else if isSigned f then flip else b

/-- comb of R54 for VFREDSUM or VFREDMAX on .f32 encodings, absent sides passing the other through. -/
def combF32 (isMax : Bool) (mode : Rmode) : Option Nat × Flags → Option Nat × Flags → Option Nat × Flags
  | (none, fa), (b, fb) => (b, fa ||| fb)
  | (a, fa), (none, fb) => (a, fa ||| fb)
  | (some a, fa), (some b, fb) =>
    let (r, fl) :=
      if isMax then maxRule fmtF32 (c32 a) (c32 b) else sumRule fmtF32 mode [.of (c32 a), .of (c32 b)]
    (some r, fa ||| fb ||| fl)

/-- One level of the tree of R54: neighbours combined in pairs. -/
def combineLevel {α : Type} (comb : α → α → α) : List α → List α
  | a :: b :: rest => comb a b :: combineLevel comb rest
  | rest => rest

/-- The fixed pairwise tree of R54 over leaves whose absent tail the padding to a power of two supplies: an odd last
entry meets an absent side and passes through. -/
def reduceTree {α : Type} (comb : α → α → α) : Nat → List α → Option α
  | _, [] => none
  | _, [a] => some a
  | 0, a :: _ => some a
  | fuel + 1, xs => reduceTree comb fuel (combineLevel comb xs)

end Sys2Proof.Machine
end

