-- ==== Sys2Proof/Machine/Chunk.lean ====
section
/-! DEFINITION. The coded chunk: restart marker, tabled decoding with lanes, and its checks (R19, R297 to R299). Bytes
come from a reader that may stop with an error, as TLDC's does at an address cause. -/

namespace Sys2Proof.Machine

/-- One byte into CRC-16/CCITT-FALSE (R297). -/
def crcShift (c : Nat) : Nat → Nat
  | 0 => c
  | n + 1 => crcShift (if c / 32768 % 2 = 1 then (c * 2 % 65536) ^^^ 0x1021 else c * 2 % 65536) n

def crcByte (c b : Nat) : Nat := crcShift (c ^^^ (b * 256)) 8

/-- Fields of a decoder-table entry (R19). -/
def dtSymbol (e : BitVec 32) : Nat := e.toNat % 256
def dtBits (e : BitVec 32) : Nat := e.toNat / 2 ^ 8 % 16
def dtBase (e : BitVec 32) : Nat := e.toNat / 2 ^ 12 % 2048

/-- A restart marker (R297). -/
structure Marker where
  count : Nat
  w : Nat
  lanes : Nat
  crc : Nat
  plen : Nat
  states : List Nat
  deriving DecidableEq, Repr

/-- Its size (R297). -/
def Marker.size (m : Marker) : Nat := 12 + 2 * m.lanes

/-- What judging a chunk gives: a reason of R299 with the symbols decoded before it, or what was asked for. -/
inductive Judged (α : Type) where
  | bad (reason decoded : Nat)
  | good (x : α)

/-- A byte reader over a state, by offset from the marker's first byte. -/
abbrev Reader (σ ε : Type) := σ → Nat → Except ε (σ × Nat)

/-- A little-endian field of `n` bytes. -/
def readField {σ ε : Type} (rd : Reader σ ε) (t : σ) (off : Nat) : Nat → Except ε (σ × Nat)
  | 0 => .ok (t, 0)
  | n + 1 => do
    let (t, b) ← rd t off
    let (t, x) ← readField rd t (off + 1) n
    .ok (t, b + 256 * x)

/-- A field judged (R299): reason 2 beyond the limit, reason 1 for a bad value. -/
def judgeField {σ ε : Type} (rd : Reader σ ε) (limit : Nat) (t : σ) (off n : Nat) (ok : Nat → Bool) :
    Except ε (σ × Judged Nat) :=
  if limit < off + n then .ok (t, .bad 2 0)
  else do
    let (t, x) ← readField rd t off n
    .ok (t, if ok x then .good x else .bad 1 0)

/-- Fields of a chunk judged one after another. -/
def judgeFields {σ ε : Type} (rd : Reader σ ε) (limit : Nat) (t : σ) :
    List (Nat × Nat × (Nat → Bool)) → Except ε (σ × Judged (List Nat))
  | [] => .ok (t, .good [])
  | (off, n, ok) :: rest => do
    match ← judgeField rd limit t off n ok with
    | (t, .bad r k) => .ok (t, .bad r k)
    | (t, .good x) =>
      match ← judgeFields rd limit t rest with
      | (t, .bad r k) => .ok (t, .bad r k)
      | (t, .good xs) => .ok (t, .good (x :: xs))

/-- The marker checks of R299: fields in byte order, lane states, the payload's end, then `extra` (reasons 6 and 4). -/
def judgeMarker {σ ε : Type} (rd : Reader σ ε) (limit maxCount maxLanes : Nat) (extra : Marker → Option Nat) (t : σ) :
    Except ε (σ × Judged Marker) := do
  let laneOk (l : Nat) : Bool := [1, 2, 4, 8, 16].contains l && decide (l ≤ maxLanes)
  let head : List (Nat × Nat × (Nat → Bool)) :=
    [(0, 2, fun x => decide (x = 0xC3A5)), (2, 2, fun x => decide (0 < x ∧ x ≤ maxCount)),
      (4, 1, fun x => decide (5 ≤ x ∧ x ≤ 11)), (5, 1, laneOk), (6, 2, fun _ => true), (8, 4, fun _ => true)]
  match ← judgeFields rd limit t head with
  | (t, .bad r k) => .ok (t, .bad r k)
  | (t, .good [_, count, w, lanes, crc, plen]) =>
    match ← judgeFields rd limit t ((List.range lanes).map fun l => (12 + 2 * l, 2, fun x => decide (x < 2 ^ w))) with
    | (t, .bad r k) => .ok (t, .bad r k)
    | (t, .good states) =>
      let m : Marker := ⟨count, w, lanes, crc, plen, states⟩
      if limit < m.size + plen then .ok (t, .bad 2 0)
      else
        match extra m with
        | some r => .ok (t, .bad r 0)
        | none => .ok (t, .good m)
  | (t, .good _) => .ok (t, .bad 1 0)

/-- The bits of a refill, least significant first, from the payload bytes that hold them (R298). -/
def readBits {σ ε : Type} (rd : Reader σ ε) (t : σ) (base pos nb : Nat) : Except ε (σ × Nat) :=
  if nb = 0 then .ok (t, 0)
  else do
    let first := pos / 8
    let (t, x) ← readField rd t (base + first) ((pos + nb - 1) / 8 + 1 - first)
    .ok (t, x / 2 ^ (pos % 8) % 2 ^ nb)

/-- The symbols of a chunk from symbol s on, with `n` to go (R298). -/
def decodeFrom {σ ε : Type} (rd : Reader σ ε) (table : Nat → BitVec 32) (alphabet : Nat) (m : Marker)
    (t : σ) (xs : List Nat) (s pos crc : Nat) (out : List Nat) : Nat → Except ε (σ × Judged (List Nat))
  | 0 => .ok (t, if crc = m.crc then .good out.reverse else .bad 5 s)
  | n + 1 =>
    let l := s % m.lanes
    let e := table (xs[l]?.getD 0)
    if alphabet ≤ dtSymbol e then .ok (t, .bad 3 s)
    else if 8 * m.plen < pos + dtBits e then .ok (t, .bad 2 s)
    else do
      let (t, v) ← readBits rd t m.size pos (dtBits e)
      decodeFrom rd table alphabet m t (xs.set l ((dtBase e + v) % 2 ^ m.w)) (s + 1) (pos + dtBits e)
        (crcByte crc (dtSymbol e)) (dtSymbol e :: out) n

/-- A chunk decoded (R298, R299). -/
def decodeChunk {σ ε : Type} (rd : Reader σ ε) (table : Nat → BitVec 32) (alphabet : Nat) (m : Marker) (t : σ) :
    Except ε (σ × Judged (List Nat)) :=
  decodeFrom rd table alphabet m t m.states 0 0 0xFFFF [] m.count

/-- The symbols a chunk delivers, `n` from a place in it on, whatever its checks say (R298). -/
def chunkSymbols {σ ε : Type} (rd : Reader σ ε) (table : Nat → BitVec 32) (m : Marker) (t : σ) (xs : List Nat) (s pos : Nat) :
    Nat → List Nat
  | 0 => []
  | n + 1 =>
    let l := s % m.lanes
    let e := table (xs[l]?.getD 0)
    match readBits rd t m.size pos (dtBits e) with
    | .error _ => []
    | .ok (t, v) =>
      dtSymbol e :: chunkSymbols rd table m t (xs.set l ((dtBase e + v) % 2 ^ m.w)) (s + 1) (pos + dtBits e) n

end Sys2Proof.Machine
end

