-- ==== Sys2Proof/Config.lean ====
section
/-! DEFINITION. What the manual leaves open: constants with no body, which no proof can evaluate. Each is applied to
the counter of free values that the state holds (log 1), or to what it depends on. -/

namespace Sys2Proof.Config

/-- Whether the scalar data cache still holds a line it could have lost, and so may answer with an old value (R270). -/
opaque scalarLineKept : Nat → Bool

/-- Which line a full scalar data cache, and a full die cache, gives up (R270, R271 name no order). -/
opaque scalarVictim : Nat → Nat
opaque dieVictim : Nat → Nat

/-- Which entry of a full TLB gives way (R370 names no replacement). -/
opaque tlbVictim : Nat → Nat

/-- Nanoseconds that pass in one step (R29 fixes only that cr.time counts them). -/
opaque elapsed : Nat → Nat

/-- Cycles of the cells' clock that pass in one step (R252: a bucket is drained each cycle). -/
opaque cycles : Nat → Nat

/-- The cell whose hart issues next, where several cells have a ready hart (the manual orders no two cells). -/
opaque nextCell : Nat → Nat

/-- The measured share of static power and traffic that a crew's account has been charged since it was last posted
to the hart, in nJ (R126). -/
opaque unposted : Nat → Nat

/-- The 256-bit response of the security block's unclonable function after correction (R358). -/
opaque pufKey : BitVec 256

/-- The 32-byte session secret drawn at ROM, once per power-up (R359). -/
opaque sessionSecret : Nat → BitVec 256

/-- The 32-byte vendor key hash in mask ROM (R355). -/
opaque maskRomKeyHash : BitVec 256

/-- The boot ROM version (R352). -/
opaque bootRomVersion : BitVec 32

/-- The frame in which machine firmware places the management page, and the key tag and virtual base of memory
region 0 over it (R398). -/
opaque mgmtFrame : BitVec 32
opaque mgmtTag : BitVec 24
opaque mgmtVbase : BitVec 64

/-- What cr.mcause holds after a machine interrupt: the manual gives it no code (R360, R361). -/
opaque interruptCause : BitVec 8

/-- Where LOAD places machine firmware in the memory of a die's steward core (R356). -/
opaque firmwareBase : Nat → Word

/-- The rate parameters firmware set for a queue pair (R383). -/
opaque sendRate : Nat → Nat

/-- The count of a resuming LKACC whose earlier restart markers do not tell its first symbol (R227). -/
opaque resumeCount : Nat → Nat

/-- Where in its stack a launch's bank-context area is pinned, by 64 KiB from the stack's start, and what a saved bank state
leaves in it: the area's bytes that are not zero, by offset (R262 and R378 give neither place nor layout). -/
opaque contextPlace : Nat → Nat
opaque contextBytes : Nat → List (Nat × Byte)

/-- The path MTU, of 1,024, 2,048 and 4,096 bytes, and the local ACK timeout in ns with which firmware sets up a queue pair
(R383). -/
opaque pathMtu : Nat → Fin 3
opaque ackTimeout : Nat → Nat

/-- What a bank command writes that is performed on a bank state other than the one its issue checked (R417). -/
opaque openWord : Nat → Nat → BitVec 32

/-- The panel budget that a management-page value outside 1,200 to 18,000 W stands for (R398). -/
opaque oddBudget : Nat → Nat

end Sys2Proof.Config
end

