-- ==== Sys2Proof/Machine/Memory.lean ====
section
/-! DEFINITION. Tables by number, memories in their canonical form, and little-endian byte strings (R7). -/

namespace Sys2Proof.Machine

/-- The entry of a table. -/
def tblGet? {α : Type} (k : Nat) : Tbl α → Option α
  | [] => none
  | (j, x) :: t => if j = k then some x else tblGet? k t

/-- The entry of a table, or a default. -/
def tblGet {α : Type} (d : α) (k : Nat) (t : Tbl α) : α := (tblGet? k t).getD d

/-- A table with one entry set. -/
def tblSet {α : Type} (k : Nat) (x : α) : Tbl α → Tbl α
  | [] => [(k, x)]
  | (j, y) :: t =>
    if k < j then (k, x) :: (j, y) :: t
    else if j = k then (k, x) :: t
    else (j, y) :: tblSet k x t

/-- A table without one entry. -/
def tblErase {α : Type} (k : Nat) (t : Tbl α) : Tbl α := t.filter fun e => !decide (e.1 = k)

/-- A byte of a memory: zero where nothing is listed (log 2). -/
def memRead (m : Memory) (a : Nat) : Byte := tblGet 0 a m

/-- A memory with one byte written; writing zero removes the entry. -/
def memWrite (a : Nat) (b : Byte) : Memory → Memory
  | [] => if b = 0 then [] else [(a, b)]
  | (j, y) :: m =>
    if a < j then (if b = 0 then (j, y) :: m else (a, b) :: (j, y) :: m)
    else if j = a then (if b = 0 then m else (a, b) :: m)
    else (j, y) :: memWrite a b m

/-- The canonical form: addresses strictly rise and no entry is zero. -/
def Memory.wf : Memory → Bool
  | [] => true
  | (_, y) :: [] => !decide (y = 0)
  | (j, y) :: (k, z) :: m => !decide (y = 0) && decide (j < k) && Memory.wf ((k, z) :: m)

/-- `n` bytes from `a` on. -/
def memReads (m : Memory) (a n : Nat) : List Byte := (List.range n).map fun i => memRead m (a + i)

/-- Bytes written from `a` on. -/
def memWrites (a : Nat) : List Byte → Memory → Memory
  | [], m => m
  | b :: bs, m => memWrites (a + 1) bs (memWrite a b m)

/-- A memory with bytes `a` to `a + n − 1` zero. -/
def memClear (a n : Nat) (m : Memory) : Memory :=
  m.filter fun e => !(decide (a ≤ e.1) && decide (e.1 < a + n))

/-- The unsigned number of a little-endian byte string. -/
def bytesNat : List Byte → Nat
  | [] => 0
  | b :: bs => b.toNat + 256 * bytesNat bs

/-- A number as `n` bytes, little-endian. -/
def natBytes : Nat → Nat → List Byte
  | 0, _ => []
  | n + 1, x => BitVec.ofNat 8 x :: natBytes n (x / 256)

/-- A 64-bit word of a byte string. -/
def bytesWord (bs : List Byte) : Word := BitVec.ofNat 64 (bytesNat bs)

/-- A 64-bit word as eight bytes. -/
def wordBytes64 (w : Word) : List Byte := natBytes 8 w.toNat

/-- Bits [hi:lo] of a word as a number. -/
def bits (w : Word) (hi lo : Nat) : Nat := w.toNat / 2 ^ lo % 2 ^ (hi + 1 - lo)

/-- Bit i of a word. -/
def bit (w : Word) (i : Nat) : Bool := w.getLsbD i

/-- Bytes each written under a mask: the bits of `x` where `k` is one, those of `old` elsewhere. -/
def mergeByte (old x k : Byte) : Byte := (old &&& ~~~k) ||| (x &&& k)

/-- Whole bytes with their masks. -/
def whole (bs : List Byte) : List (Byte × Byte) := bs.map fun b => (b, 0xFF)

end Sys2Proof.Machine
end

