-- ==== Sys2Proof/Machine/Geometry.lean ====
section
/-! DEFINITION. Sites, dies, stacks and their owners, logical cells, and the places of bytes (R2 to R4, R124, R269). -/

namespace Sys2Proof.Machine

/-- Row and column of a compute die's site (R3). -/
def dieSite (d : Nat) : Nat × Nat := (d / 8, 2 * (d % 8) + d / 8 % 2)

/-- Row and column of a stack's site (R3). -/
def stackSite (k : Nat) : Nat × Nat := (k / 8, 2 * (k % 8) + (1 - k / 8 % 2))

/-- The number of the die or stack at a site (R3). -/
def siteNumber (row col : Nat) : Nat := 8 * row + col / 2

/-- The two owner candidates of a stack, the first first (R4). -/
def candidates (k : Nat) : Nat × Nat :=
  let (row, col) := stackSite k
  (if col = 0 then siteNumber (row - 1) 0 else siteNumber row (col - 1),
    if col = 15 then siteNumber (row + 1) 15 else siteNumber row (col + 1))

/-- Whether a die is an owner candidate of a stack (R4). -/
def isCandidate (d k : Nat) : Bool := decide ((candidates k).1 = d) || decide ((candidates k).2 = d)

/-- The stacks a die is owner candidate for, in ascending order (R4, R125). -/
def stacksOf (d : Nat) : List Nat := (List.range 128).filter fun k => isCandidate d k

/-- The other owner candidate of a stack (R237). -/
def otherCandidate (d k : Nat) : Nat :=
  if (candidates k).1 = d then (candidates k).2 else (candidates k).1

/-- Mesh hops between two dies (R5, R286). -/
def hops (a b : Nat) : Nat :=
  let (ra, ca) := dieSite a
  let (rb, cb) := dieSite b
  (ra - rb) + (rb - ra) + (ca - cb) + (cb - ca)

/-- A stack of the state. -/
def State.stack (s : State) (k : Nat) : Stack := tblGet Stack.reset k s.stackTbl

/-- The state with a stack changed. -/
def State.setStack (s : State) (k : Nat) (x : Stack) : State := { s with stackTbl := tblSet k x s.stackTbl }

/-- The owner of a stack (R4, R305). -/
def State.owner (s : State) (k : Nat) : Nat :=
  if (s.stack k).second then (candidates k).2 else (candidates k).1

/-- A die of the state. -/
def State.die (s : State) (d : Nat) : Die := tblGet Die.reset d s.dies

/-- The state with a die changed. -/
def State.setDie (s : State) (d : Nat) (x : Die) : State := { s with dies := tblSet d x s.dies }

/-- The state with one field of a die changed by `f`. -/
def State.modDie (s : State) (d : Nat) (f : Die → Die) : State := s.setDie d (f (s.die d))

/-- The number of a cell in the state's table: 64·d + p. -/
def cellKey (d p : Nat) : Nat := 64 * d + p

/-- A cell of the state. -/
def State.cell (s : State) (k : Nat) : Cell := tblGet Cell.reset k s.cells

/-- The state with a cell changed. -/
def State.setCell (s : State) (k : Nat) (x : Cell) : State := { s with cells := tblSet k x s.cells }

/-- The state with one field of a cell changed by `f`. -/
def State.modCell (s : State) (k : Nat) (f : Cell → Cell) : State := s.setCell k (f (s.cell k))

/-- The logical die a physical die serves, if any (R124). -/
def State.logicalDie? (s : State) (d : Nat) : Option Nat :=
  (List.range 128).find? fun l => decide (tblGet 255 l s.part.ldie = d)

/-- Logical cells on a physical die (R124): 64, 32 on the last logical die of grade 7840, none without a logical die. -/
def State.cellsOfDie (s : State) (d : Nat) : Nat :=
  match s.logicalDie? d with
  | none => 0
  | some l => if s.part.grade = 8192 then 64 else if l < 122 then 64 else if l = 122 then 32 else 0

/-- The physical cell of a logical cell of a die (R2, R357). -/
def State.physCell (s : State) (d p : Nat) : Nat := tblGet 255 (64 * d + p) s.part.cellmap

/-- A place: a device physical address below 2^47, a host or remote address with bit 47 set, or a hold byte at
2^49 + (64·d + p)·2^19 + offset. -/
def holdLoc (d p off : Nat) : Nat := 2 ^ 49 + cellKey d p * 2 ^ 19 + off

/-- A place in a hold. -/
def isHold (loc : Nat) : Bool := decide (2 ^ 49 ≤ loc)

/-- A place in host or remote memory (R269). -/
def isRemote (loc : Nat) : Bool := decide (loc / 2 ^ 47 % 2 = 1) && !isHold loc

/-- A place in die-control space (R362). -/
def isControl (loc : Nat) : Bool := !isHold loc && !isRemote loc && decide (loc / 2 ^ 46 % 2 = 1)

/-- A place outside the panel's memory, whose accesses are requests that are answered (R362, R386). -/
def isFar (loc : Nat) : Bool := isRemote loc || isControl loc

/-- A mailbox byte (R216). -/
def isMailbox (loc : Nat) : Bool := !isHold loc && !isFar loc && decide (loc / 2 ^ 42 % 2 = 1)

/-- The stack of a device physical address (R269). -/
def stackOf (pa : Nat) : Nat := pa / 2 ^ 35 % 128

/-- The device frame of a device physical address (R367). -/
def frameOf (pa : Nat) : Nat := pa / 2 ^ 28 % 2 ^ 14

/-- The mailbox byte a device address reaches (R216). -/
def mailboxKey (pa : Nat) : Nat := stackOf pa * 2 ^ 22 + pa % 2 ^ 22

/-- The bank of a device byte under the frame map's interleave (R367). -/
def bankOf (resident : Bool) (pa : Nat) : Nat :=
  if resident then pa / 2 ^ 26 % 2 ^ 9 else pa / 2 ^ 10 % 2 ^ 9

/-- The row of a device byte (R367). -/
def rowOf (resident : Bool) (pa : Nat) : Nat :=
  if resident then pa / 2 ^ 10 % 2 ^ 16 else pa / 2 ^ 19 % 2 ^ 16

/-- The frame-map byte of a frame as a die holds it (R367). -/
def State.frameResident (s : State) (d frame : Nat) : Bool :=
  (tblGet (0 : BitVec 8) frame (s.die d).fmap).getLsbD 0

/-- The DRAM cell of a device byte: stack, bank, row and byte of its row, as its home's frame map places it (R367). Bytes
of a striped and of a bank-resident frame may share a cell. -/
def State.dramKey (s : State) (pa : Nat) : Nat :=
  let r := s.frameResident (s.owner (stackOf pa)) (frameOf pa)
  stackOf pa * 2 ^ 35 + bankOf r pa * 2 ^ 26 + rowOf r pa * 2 ^ 10 + pa % 2 ^ 10

/-- A byte of DRAM by its device address. -/
def State.dramByte (s : State) (pa : Nat) : Byte := memRead s.dram (s.dramKey pa)

/-- Bytes of DRAM written from a device address on. -/
def State.setDram (s : State) (pa : Nat) : List Byte → State
  | [] => s
  | b :: bs => { s with dram := memWrite (s.dramKey pa) b s.dram }.setDram (pa + 1) bs

/-- A byte of a home copy: the home die cache's byte, else DRAM's (R271). -/
def State.homeByte (s : State) (pa : Nat) : Byte :=
  match tblGet? pa s.homeCache with
  | some b => b
  | none => s.dramByte pa

/-- A byte at its coherence point: a hold, a mailbox row, or the home copy (R272, R274). -/
def State.locByte (s : State) (loc : Nat) : Byte :=
  if isHold loc then memRead s.hold (loc - 2 ^ 49)
  else if isMailbox loc then memRead s.mailbox (mailboxKey loc)
  else s.homeByte loc

/-- A byte written at its coherence point. -/
def State.setLocByte (s : State) (loc : Nat) (b : Byte) : State :=
  if isHold loc then { s with hold := memWrite (loc - 2 ^ 49) b s.hold }
  else if isMailbox loc then { s with mailbox := memWrite (mailboxKey loc) b s.mailbox }
  else { s with homeCache := tblSet loc b s.homeCache }

/-- `n` bytes at their coherence point. -/
def State.locBytes (s : State) (loc n : Nat) : List Byte := (List.range n).map fun i => s.locByte (loc + i)

/-- Masked bytes written at their coherence point, in ascending order. -/
def State.setLocBytes (s : State) (loc : Nat) : List (Byte × Byte) → State
  | [] => s
  | (x, k) :: bs => (s.setLocByte loc (mergeByte (s.locByte loc) x k)).setLocBytes (loc + 1) bs

/-- HEAT, in which the stacks do no access (R350). -/
def State.inHeat (s : State) : Bool := decide (s.boot.stage = 3)

/-- The wait of an access at home: a stack in lockage (R306, R307), or a group of banks in retraining (R410). -/
def State.homeWait (s : State) (d pa : Nat) : Option Wait :=
  let k := stackOf pa
  let x := s.stack k
  if x.lock.isSome then some (.lockage k)
  else if x.retrain.isEmpty then none
  else
    let g := bankOf (s.frameResident d (frameOf pa)) pa / 8
    if !isMailbox pa && x.retrain.contains g then some (.retrain k g) else none

/-- The frame of a device address is sealed (R373); mailbox rows are never sealed. -/
def State.sealedAt (s : State) (pa : Nat) : Bool :=
  !isMailbox pa && (s.die (s.owner (stackOf pa))).sealt.getLsbD (frameOf pa)

/-- Bytes that the hardware writes at home of itself; a sealed frame refuses those that lie in it (R373; log 34). -/
def State.putUnsealed (s : State) (loc : Nat) (bs : List Byte) : State :=
  let n := 2 ^ 28 - loc % 2 ^ 28
  let s := if s.sealedAt loc then s else s.setLocBytes loc (whole (bs.take n))
  if bs.length ≤ n || s.sealedAt (loc + n) then s else s.setLocBytes (loc + n) (whole (bs.drop n))

/-- The home of a device address is held (R307, R410). -/
def State.heldAt (s : State) (pa : Nat) : Bool := (s.homeWait (s.owner (stackOf pa)) pa).isSome

/-- The home of some byte of a device range may be held: a stack it lies in has a lockage or a retraining. -/
def State.rangeHeld (s : State) (lo n : Nat) : Bool :=
  (List.range (stackOf (lo + n - 1) + 1 - stackOf lo)).any fun i =>
    (s.stack (stackOf lo + i)).lock.isSome || !(s.stack (stackOf lo + i)).retrain.isEmpty

end Sys2Proof.Machine
end

