-- ==== Sys2Proof/Machine/Ops.lean ====
section
/-! DEFINITION. The named operations over cores and their registers, and taking a trap and returning from one
(R10 to R13, R26, R86, R112 to R122, R376). -/

namespace Sys2Proof

/-- The die of a core. -/
def CoreId.die : CoreId → Nat
  | .hart d _ _ => d
  | .steward d => d

/-- The position of a hart's cell among its die's logical cells. -/
def CoreId.pos : CoreId → Nat
  | .hart _ p _ => p
  | .steward _ => 0

/-- The physical slot of a hart. -/
def CoreId.slot : CoreId → Nat
  | .hart _ _ k => k
  | .steward _ => 0

/-- Codes of the trap causes (R86). -/
def Cause.code : Cause → BitVec 8
  | .illegal => 0x01 | .priv => 0x02 | .vtype => 0x03 | .splitmode => 0x04 | .brk => 0x05 | .svc => 0x06
  | .align => 0x10 | .straddle => 0x11 | .page => 0x12 | .hugeabsent => 0x13 | .perm => 0x14 | .seal => 0x15
  | .owner => 0x16 | .sparse => 0x17 | .stream => 0x20 | .layout => 0x21 | .table => 0x22 | .bankcmd => 0x23
  | .bobj => 0x30 | .launch => 0x31 | .ecc => 0x40 | .link => 0x41 | .energy => 0x42

/-- The causes whose first handler is cr.tvec (R86). -/
def Cause.user : Cause → Bool
  | .brk | .sparse | .stream | .layout | .bobj => true
  | .illegal | .priv | .vtype | .splitmode | .svc | .align | .straddle | .page | .hugeabsent | .perm | .seal
  | .owner | .table | .bankcmd | .launch | .ecc | .link | .energy => false

/-- The hart number of fault records and cr.hsel: 4·p + s (R29, R376). -/
def CoreId.hartNumber (c : CoreId) : Nat := 4 * c.pos + c.slot

/-- The number of a core's cell in the state's table. A steward core's scalar data cache and TLB are not used. -/
def CoreId.cell (c : CoreId) : Nat := Machine.cellKey c.die c.pos

end Sys2Proof

namespace Sys2Proof.Machine

/-- The core with an identity, if it is there. -/
def State.core? (s : State) (id : CoreId) : Option Core := s.cores.find? fun c => decide (c.id = id)

/-- The state with the core of an identity changed by `f`. -/
def State.modCore (s : State) (id : CoreId) (f : Core → Core) : State :=
  { s with cores := s.cores.map fun c => if c.id = id then f c else c }

/-- A core that does nothing, which stands for an absent one. -/
def Core.absent : Core := Core.start (.hart 0 0 0) none .user 0 0 0

/-- The core whose turn it is. -/
def State.me (s : State) : Core := (s.core? s.cur).getD Core.absent

/-- The state with the core whose turn it is changed by `f`. -/
def State.upd (s : State) (f : Core → Core) : State := s.modCore s.cur f

/-- A steward core (R34). -/
def Core.isSteward (c : Core) : Bool :=
  match c.id with
  | .steward _ => true
  | .hart _ _ _ => false

/-- The program counter the next instruction is fetched from: a lane thread's in split mode (R25). -/
def Core.curPc (c : Core) : Word := if c.split.on then c.split.pcs.get c.split.lane else c.pc

/-- The core with that program counter set. -/
def Core.setPc (c : Core) (a : Word) : Core :=
  if c.split.on then { c with split := { c.split with pcs := c.split.pcs.set c.split.lane a } } else { c with pc := a }

/-- Whether a strip can be open: not on a steward core and not in split mode (R112, R362). -/
def Core.strips (c : Core) : Bool := !c.isSteward && !c.split.on

/-- A vector register by number; a number past v63 reads zero, which R14 keeps from happening. -/
def Core.vreg (c : Core) (n : Nat) : BitVec 1024 := if h : n < 64 then c.v.get ⟨n, h⟩ else 0

/-- The core with a vector register written. -/
def Core.setV (c : Core) (n : Nat) (x : BitVec 1024) : Core :=
  if h : n < 64 then { c with v := c.v.set n x h } else c

/-- A mask register; m0 reads all ones (R16). -/
def Core.mreg (c : Core) (n : Nat) : BitVec 512 :=
  if n = 0 then BitVec.allOnes 512 else if h : n < 48 then c.m.get ⟨n, h⟩ else 0

/-- The core with a mask register written; a write to m0 is discarded (R16). -/
def Core.setM (c : Core) (n : Nat) (x : BitVec 512) : Core :=
  if n = 0 then c else if h : n < 48 then { c with m := c.m.set n x h } else c

/-- A tile register (R18). -/
def Core.yreg (c : Core) (n : Nat) : BitVec 8192 := if h : n < 8 then c.y.get ⟨n, h⟩ else 0

/-- The core with a tile register written. -/
def Core.setY (c : Core) (n : Nat) (x : BitVec 8192) : Core :=
  if h : n < 8 then { c with y := c.y.set n x h } else c

/-- A bit field replaced: `n` bits at `lo`. -/
def putBits {w : Nat} (x : BitVec w) (lo n : Nat) (y : Nat) : BitVec w :=
  let k := BitVec.ofNat w ((2 ^ n - 1) * 2 ^ lo)
  (x &&& ~~~k) ||| BitVec.ofNat w (y % 2 ^ n * 2 ^ lo)

/-- A bit field read: `n` bits at `lo`. -/
def getBits {w : Nat} (x : BitVec w) (lo n : Nat) : Nat := x.toNat / 2 ^ lo % 2 ^ n

/-- The register l-number of a scalar field in split mode (R26). -/
def Core.lnum (c : Core) (r : BitVec 5) : Nat := (if c.split.window then 32 else 0) + r.toNat

/-- A scalar register: field 0 reads zero (R11); in split mode the lane thread's register (R26). -/
def Core.rg (c : Core) (r : BitVec 5) : Word :=
  if r = 0 then 0
  else if c.split.on then BitVec.ofNat 64 (getBits (c.vreg (c.lnum r)) (64 * c.split.lane) 64)
  else c.g.get ⟨r.toNat, r.isLt⟩

/-- LINK made pending in a hart, at the address it was first (R87). -/
def Core.pendLink (a : Word) (c : Core) : Core := { c with pending := { c.pending with link := some (c.pending.link.getD a) } }

/-- No strip is open: the hart runs its handler of an unwinding trap, which undid the strip that was, and no checkpoint has been
taken since (R114, R122, R348; log 35). -/
def Core.noStrip (c : Core) : Bool := c.ckptKept && c.cause.active && c.cause.restart

/-- The strip-entry value of a scalar register recorded when the open strip first writes it (R113). -/
def Core.record (c : Core) (r : BitVec 5) : Strip :=
  if c.isSteward || c.noStrip || c.strip.hist.any (fun e => decide (e.1 = r.toNat)) then c.strip
  else { c.strip with hist := c.strip.hist ++ [(r.toNat, c.g.get ⟨r.toNat, r.isLt⟩)] }

/-- A scalar register written: field 0 discards (R11); in split mode the lane thread's register (R26). -/
def Core.wg (c : Core) (r : BitVec 5) (x : Word) : Core :=
  if r = 0 then c
  else if c.split.on then
    c.setV (c.lnum r) (putBits (c.vreg (c.lnum r)) (64 * c.split.lane) 64 x.toNat)
  else { c with g := c.g.set r.toNat x r.isLt, strip := c.record r }

/-- A steward core's die-wide registers, or a hart's die, as `s.die`. -/
def State.myDie (s : State) : Die := s.die s.cur.die

/-- The state with the event latch of a core set (R118). -/
def State.signal (s : State) (id : CoreId) : State := s.modCore id fun c => { c with latch := true }

/-- A member's identity as fault records and crew headers hold it (R376, R381). -/
def memberWord (m : MemberId) : Word :=
  BitVec.ofNat 64 (m.queue * 2 ^ 58 + m.seq % 2 ^ 26 * 2 ^ 32 + m.index % 2 ^ 32)

/-- The crew of a core, if it is a hart. -/
def Core.crewRef? (c : Core) : Option CrewRef := c.crew.map fun x => x.1

/-- The member word of a core; zero on a steward core. -/
def Core.memberWord (c : Core) : Word :=
  match c.crewRef? with
  | some r => Sys2Proof.Machine.memberWord r.mem
  | none => 0

/-- cr.time (R29). -/
def State.timeWord (s : State) : Word := BitVec.ofNat 64 s.time

/-- The doublewords of a fault record (R376). -/
def faultRecord (code : BitVec 8) (unwind logged : Bool) (reason level hart lane : Nat) (split : Bool)
    (addr : Word) (elem : Nat) (tpc rpc member time : Word) : List Word :=
  [BitVec.ofNat 64 (code.toNat + unwind.toNat * 2 ^ 8 + logged.toNat * 2 ^ 9 + reason % 4 * 2 ^ 16
      + level % 4 * 2 ^ 18 + hart % 256 * 2 ^ 32 + lane % 16 * 2 ^ 40 + split.toNat * 2 ^ 44),
    addr, BitVec.ofNat 64 (elem % 2 ^ 32), tpc, rpc, member, time, 0]

/-- Fault records written to a die's ring in order while it has room, each setting the steward's event latch; the rest
wait (R376), as they do while the ring's home is held (R307) or its frame sealed (R373; log 34). -/
def State.writeFaults (s : State) (d : Nat) : List (List Word) → State
  | [] => s.modDie d fun x => { x with faultWait := [] }
  | r :: rs =>
    let x := s.die d
    let pa := bits x.fqbase 47 14 * 2 ^ 14 + 64 * (x.fqhead.toNat % 256)
    if (x.fqhead - x.fqtail).toNat < 256 && (s.homeWait d pa).isNone && !s.sealedAt pa then
      let s := s.setLocBytes pa (whole (r.flatMap wordBytes64))
      ((s.modDie d fun x => { x with fqhead := x.fqhead + 1 }).signal (.steward d)).writeFaults d rs
    else s.modDie d fun x => { x with faultWait := r :: rs }

/-- A new fault record for a die, behind those that wait (R376). -/
def State.faultTo (s : State) (d : Nat) (r : List Word) : State :=
  s.writeFaults d ((s.die d).faultWait ++ [r])

/-- Debug-ring entries of the open strip marked as unwound (R397). -/
def Core.markUnwound (c : Core) : Core :=
  let n := c.dbg.length
  { c with dbg := (c.dbg.take (n - c.strip.ring)) ++
      (c.dbg.drop (n - c.strip.ring)).map fun e => { e with d0 := e.d0 ||| BitVec.ofNat 64 (2 ^ 63) } }

/-- The strip-entry values put back into the scalar registers (R114 step 1). -/
def restoreG (g : Vector Word 32) : List (Nat × Word) → Vector Word 32
  | [] => g
  | (r, x) :: h => restoreG (if hr : r < 32 then g.set r x hr else g) h

/-- An unwind (R114): recorded registers restored, buffered stores and tentative pushes discarded, the entry SETVLQ
popped back at the head (R134), and the program counter at cr.ckpt. -/
def Core.unwind (c : Core) : Core :=
  let lq := c.lq.filter fun e => !e.tentative
  { c.markUnwound with
    g := restoreG c.g c.strip.hist
    lq := (match c.strip.popped with | some v => [⟨v, false⟩] | none => []) ++ lq
    strip := .empty
    pc := c.ckpt
    frame := none }

/-- Where the answers of remote memory to the core, or to its lane thread, start. -/
def Core.remoteBase (c : Core) : Nat := if c.split.on then (c.split.lane.val + 1) * 2 ^ 100 else 0

/-- Those answers dropped. -/
def Core.clearRemote (c : Core) : Core :=
  { c with remote := if c.split.on then c.remote.filter fun e => !decide (e.1 / 2 ^ 100 = c.split.lane.val + 1) else [] }

/-- The wait of the lane thread that issues forgotten (R251). -/
def Core.clearLane (c : Core) : Core :=
  if c.split.on then { c with laneWaits := tblErase c.split.lane.val c.laneWaits } else c

/-- What any trap ends: the wait, the repeat frame, the release of the gate, and answers of remote memory. -/
def Core.endWait (c : Core) : Core :=
  { c with wait := .none, frame := none, released := false, around := false }.clearRemote.clearLane

/-- cr.ckpt set where a checkpoint puts it (R112, R115). -/
def Core.putCkpt (c : Core) (a : Word) : Core := { c with ckpt := a, ckptKept := false }

/-- A hart's entry to its user handler, in one step (R120). `pc` is the trapping instruction's address. -/
def Core.userEntry (c : Core) (t : TrapInfo) (pc : Word) (unwinding : Bool) : Core :=
  let c : Core := { c with
    epc := pc
    cause := ⟨t.cause.code, c.split.on, if c.split.on then BitVec.ofNat 4 c.split.lane else 0, unwinding, true⟩
    eaddr := t.addr
    eelem := BitVec.ofNat 19 t.elem
    ckptKept := !c.split.on }
  c.setPc (c.tvec &&& ~~~(3 : Word))

/-- Whether a trap enters the user handler directly (R31, R120). -/
def Core.toUser (c : Core) (t : TrapInfo) : Bool :=
  t.cause.user && !decide (c.tvec &&& ~~~(3 : Word) = 0) && !c.cause.active

/-- The resume PC of a parked hart (R121): cr.ckpt after an unwinding trap, past an SVC, else the trapping PC. -/
def resumePc (c : Core) (t : TrapInfo) (pc : Word) (unwinding : Bool) : Word :=
  if unwinding then c.ckpt else if t.cause = .svc then pc + 4 else pc

/-- A hart parked by a steward-bound trap (R121): none of the registers of R120 is written. After SVC cr.ckpt holds the
address past it (R119). -/
def Core.park (c : Core) (t : TrapInfo) (pc : Word) (unwinding : Bool) : Core :=
  let rpc := resumePc c t pc unwinding
  let c : Core := { c with
    parked := some ⟨t, unwinding, pc, rpc, if c.split.on then c.split.lane else 0, c.split.on⟩ }
  (if t.cause = .svc then c.putCkpt rpc else c).setPc rpc

/-- The fault record of a parked hart (R376). -/
def parkRecord (c : Core) (p : Parked) (time : Word) : List Word :=
  faultRecord p.info.cause.code p.unwind false p.info.reason p.info.level c.id.hartNumber p.lane p.split
    p.info.addr p.info.elem p.tpc p.rpc c.memberWord time

/-- A trap of a steward core (R361, R364): at machine level to cr.mvec, otherwise to cr.svec, which raises it to
supervisor level. One taken in split mode is log 5. -/
def Core.stewardTrap (c : Core) (t : TrapInfo) (pc : Word) : Core :=
  let cause : CauseReg := ⟨t.cause.code, false, 0, false, false⟩
  if c.level = .machine then
    { c with st := { c.st with mpp := 2, mepc := pc, mcause := cause }, pc := c.st.mvec }
  else
    { c with
      st := { c.st with spp := decide (c.level = .supervisor), sepc := pc, scause := cause }
      level := .supervisor
      pc := c.st.svec }

/-- A core no longer awaits the answer of a request it has sent. -/
def State.dropOut (s : State) (id : CoreId) : State :=
  { s with outbound := s.outbound.map fun o =>
      if o.core = some id ∧ o.waits = true ∧ some o.base = (s.core? id).map Core.remoteBase then { o with core := none } else o }

/-- A trap taken by the core whose turn it is (R117, R120, R121): an unwinding trap of a hart first unwinds the open
strip; then the hart enters its handler or parks with a fault record. -/
def State.takeTrap (s : State) (t : TrapInfo) (pc : Word) (unwinding : Bool) : State :=
  let s := s.dropOut s.cur
  let c := s.me
  if c.isSteward then s.upd fun c => (c.stewardTrap t pc).endWait
  else
    let u := unwinding && !c.split.on
    let c := (if u then c.unwind else c).endWait
    if c.toUser t then s.upd fun _ => c.userEntry t pc u
    else
      let c := c.park t pc u
      match c.parked with
      | some p => (s.upd fun _ => c).faultTo s.cur.die (parkRecord c p s.timeWord)
      | none => s.upd fun _ => c

/-- A hart's return from its user handler (R122): RETT with cr.cause.active set. -/
def Core.userReturn (c : Core) : Core :=
  let a := if c.cause.restart then c.ckpt else c.epc
  { c with cause := { c.cause with active := false } }.setPc a

/-- A steward core's return from a trap (R122, R361, R364). -/
def Core.stewardReturn (c : Core) : Core :=
  if c.level = .machine then
    { c with
      level := if c.st.mpp = 0 then .user else if c.st.mpp = 2 then .machine else .supervisor
      pc := c.st.mepc }
  else { c with level := if c.st.spp then .supervisor else .user, pc := c.st.sepc }

/-- Why an instruction does not complete: it traps, at its own address or at a buffered store's; it waits; or the hart
stops for the scheduler after its strip closed (R255). -/
inductive Why where
  | trap (t : TrapInfo) (pc : Word) (unwinding : Bool)
  | wait (w : Wait)
  | stop
  deriving DecidableEq, Repr

/-- An instruction that does not complete, and the state at that point. -/
structure Halt where
  st : State
  why : Why
  deriving DecidableEq, Repr

/-- A precise trap at the instruction (R117). -/
def State.precise {α : Type} (s : State) (t : TrapInfo) : Except Halt α :=
  .error ⟨s, .trap t s.me.curPc false⟩

/-- An unwinding trap at the instruction (R117). -/
def State.unwinding {α : Type} (s : State) (t : TrapInfo) : Except Halt α :=
  .error ⟨s, .trap t s.me.curPc true⟩

/-- The instruction waits. -/
def State.stall {α : Type} (s : State) (w : Wait) : Except Halt α := .error ⟨s, .wait w⟩

/-- The hart stopped with its program counter, and cr.ckpt outside split mode, at the next instruction to issue
(R255). -/
def Core.stopHere (c : Core) : Core :=
  let c : Core := { c with stopped := true, around := false }
  if c.split.on then c else c.putCkpt c.pc

/-- A core that waits at its instruction. A lane thread's wait holds back that lane thread alone: it issues the
instruction again, or, in WFE, when the event latch is set (R118, R251). -/
def Core.waitFor (c : Core) (w : Wait) : Core :=
  if c.split.on then
    { c with
      around := false
      laneWaits := if w = .wfe || w = .none then tblErase c.split.lane.val c.laneWaits else tblSet c.split.lane.val w c.laneWaits
      split := { c.split with
        wfe := if w = .wfe then c.split.wfe ||| BitVec.ofNat 16 (2 ^ c.split.lane.val) else c.split.wfe } }
  else { c with wait := w, around := false }

/-- What a stop makes of the state: the trap is taken, the core waits with its program counter at the instruction, or
the hart has stopped before it. -/
def Halt.next (h : Halt) : State :=
  match h.why with
  | .trap t pc u => h.st.takeTrap t pc u
  | .wait w => h.st.upd fun c => c.waitFor w
  | .stop => h.st.upd Core.stopHere

end Sys2Proof.Machine
end

