-- ==== Sys2Proof/Machine/Caches.lean ====
section
/-! DEFINITION. Where bytes are held (R270 to R275): home copies, non-home copies, scalar data caches, replicas, and
stores, releases and acquires as they act on them. -/

namespace Sys2Proof.Machine

/-- The page entry of an access to device or remote memory, read by field (R366). -/
def leafKind (w : Word) : Nat := bits w 7 6

/-- An access place with its page entry; none in a hold. -/
structure Place where
  loc : Nat
  leaf : Option Word
  deriving DecidableEq, Repr

/-- An S page, kind 3 counting as S (log 6), or a page with the no-speculation bit (R276, R281). -/
def Place.strong (p : Place) : Bool :=
  match p.leaf with
  | none => false
  | some w => decide (leafKind w = 0) || decide (leafKind w = 3) || bit w 10

/-- A page with the no-speculation bit. -/
def Place.noSpec (p : Place) : Bool :=
  match p.leaf with
  | none => false
  | some w => bit w 10

/-- A U page (R279). -/
def Place.unordered (p : Place) : Bool :=
  match p.leaf with
  | none => false
  | some w => decide (leafKind w = 2)

/-- A replicated page (R286). -/
def Place.replicated (p : Place) : Bool :=
  match p.leaf with
  | none => false
  | some w => bit w 8

/-- Lines that scalar data caches and non-home copies may hold (R270, R271). -/
def Place.cacheable (p : Place) : Bool :=
  match p.leaf with
  | none => false
  | some w => bit w 12 && !p.strong && !bit w 8 && !isFar p.loc && !isMailbox p.loc

/-- A line of 64 bytes as a word, byte 0 least significant. -/
def lineOf (bs : List Byte) : BitVec 512 := BitVec.ofNat 512 (bytesNat bs)

/-- Byte i of a line. -/
def lineByte (x : BitVec 512) (i : Nat) : Byte := BitVec.ofNat 8 (getBits x (8 * i) 8)

/-- A line's home copy. -/
def State.homeLine (s : State) (line : Nat) : BitVec 512 := lineOf (s.locBytes (64 * line) 64)

/-- A die's non-home copy of a line, if it holds one. -/
def State.nonHome? (s : State) (d line : Nat) : Option NonHome :=
  (s.die d).nonHome.find? fun x => decide (x.line = line)

/-- A die's non-home copies with the copy of a line replaced or added. -/
def putNonHome (x : NonHome) (xs : List NonHome) : List NonHome :=
  x :: xs.filter fun y => !decide (y.line = x.line)

/-- The dirty bytes of a copy written home, and only those (R271). -/
def State.mergeHome (s : State) (x : NonHome) : State :=
  s.setLocBytes (64 * x.line)
    ((List.range 64).map fun i => (lineByte x.data i, if x.dirty.getLsbD i then 0xFF else 0))

/-- A die's copy of a line written home and dropped (R271). -/
def State.dropNonHome (s : State) (d line : Nat) : State :=
  match s.nonHome? d line with
  | none => s
  | some x => (s.mergeHome x).modDie d fun y =>
      { y with nonHome := y.nonHome.filter fun z => !decide (z.line = line) }

/-- A die holds a line: a home copy on the owner, else a non-home copy, fetched from home when absent (R272). -/
def State.fetchLine (s : State) (d line : Nat) (unordered : Bool) : State :=
  if s.owner (stackOf (64 * line)) = d || (s.nonHome? d line).isSome then s
  else
    let x : NonHome := ⟨line, s.homeLine line, 0, [], unordered⟩
    s.modDie d fun y => { y with nonHome := putNonHome x y.nonHome }

/-- A line as a die's cache holds it. -/
def State.dieLine (s : State) (d line : Nat) : BitVec 512 :=
  match s.nonHome? d line with
  | some x => x.data
  | none => s.homeLine line

/-- Bytes of a line. -/
def bytesOfLine (x : BitVec 512) (off n : Nat) : List Byte := (List.range n).map fun i => lineByte x (off + i)

/-- A cell's scalar data cache with a line it holds replaced by `x` (R270). -/
def refreshLine (line : Nat) (x : BitVec 512) (sdc : List CacheLine) : List CacheLine :=
  sdc.map fun y => if y.line = line then { y with data := x } else y

/-- A vector, tile, acquire or engine read of a cacheable line through the die cache, which renews the cell's scalar
copy of it (R270, R272). -/
def State.readDie (s : State) (id : CoreId) (pa n : Nat) (unordered : Bool) : State × List Byte :=
  let line := pa / 64
  let s := s.fetchLine id.die line unordered
  let x := s.dieLine id.die line
  (s.modCell id.cell fun y => { y with sdc := refreshLine line x y.sdc }, bytesOfLine x (pa % 64) n)

/-- The frames a replicated page is written in by a table of replica sets, the primary first: the primary and its valid replicas
(R286, R375). -/
def setFrames (sets : Tbl ReplicaSet) (frame : Nat) : List Nat :=
  match sets.find? fun e => bit e.2.d0 63 && decide (bits e.2.d0 13 0 = frame) with
  | none => [frame]
  | some (_, x) =>
    frame :: ([x.d1, x.d2, x.d3].filter fun w => bit w 63).map fun w => bits w 13 0

/-- Those frames for the writes of a compute die, and for those of hosts, which reach device memory through the I/O dies. -/
def State.replicaFrames (s : State) (d frame : Nat) : List Nat := setFrames (s.die d).rset frame
def State.ioFrames (s : State) (frame : Nat) : List Nat := setFrames s.ioSets frame

/-- The byte of frame `f` that stands for device address `pa`. -/
def inFrame (f pa : Nat) : Nat := f * 2 ^ 28 + pa % 2 ^ 28

/-- The places a write of a page entry's byte reaches: each replica, or the byte itself. -/
def State.copies (s : State) (d : Nat) (p : Place) : List Nat :=
  if p.replicated then (s.replicaFrames d (frameOf p.loc)).map fun f => inFrame f p.loc else [p.loc]

/-- The first of two replicas by fewest hops from a die, then by stack number (R286). -/
def State.nearer (s : State) (d a b : Nat) : Nat :=
  let ha := hops d (s.owner (stackOf a))
  let hb := hops d (s.owner (stackOf b))
  if hb < ha || (decide (hb = ha) && decide (stackOf b < stackOf a)) then b else a

/-- The copy a load reads at home: the nearest replica of a replicated page (R286), else the byte itself. -/
def State.homePlace (s : State) (d : Nat) (p : Place) : Nat :=
  match s.copies d p with
  | [] => p.loc
  | a :: rest => rest.foldl (s.nearer d) a

/-- A read performed at home: the die first gives up its copy of the line, if it holds one, so that its own stores are seen
(R271). -/
def State.readHome (s : State) (d : Nat) (p : Place) (n : Nat) : State × List Byte :=
  let s := if isHold p.loc then s else s.dropNonHome d (p.loc / 64)
  (s, s.locBytes (s.homePlace d p) n)

/-- The scalar copy of a place's line in a core's cell replaced by what the core's die sees now (R270, R274). -/
def State.renew (s : State) (id : CoreId) (p : Place) : State :=
  if isHold p.loc || isFar p.loc then s
  else s.modCell id.cell fun y => { y with sdc := refreshLine (p.loc / 64) (s.dieLine id.die (p.loc / 64)) y.sdc }

/-- The bytes of a place as a die sees them without taking a copy: of a cacheable line those of the copy the die holds, else
those at home, of the nearest replica (R271, R272, R286). -/
def State.peek (s : State) (d : Nat) (p : Place) (n : Nat) : List Byte :=
  if p.cacheable then bytesOfLine (s.dieLine d (p.loc / 64)) (p.loc % 64) n else s.locBytes (s.homePlace d p) n

/-- A stream engine's read, which takes no copy, and renews its cell's scalar copy of the line (R270, R289). -/
def State.peekCell (s : State) (d key : Nat) (p : Place) (n : Nat) : State × List Byte :=
  let line := p.loc / 64
  (if p.cacheable then s.modCell key fun y => { y with sdc := refreshLine line (s.dieLine d line) y.sdc } else s,
    s.peek d p n)

/-- Memory as it stands, for the fetches of a core (R105). -/
def State.codeView (s : State) : Code := ⟨s.dram, s.homeCache, s.mailbox, s.dies, s.stackTbl⟩

/-- The state with its memory as a core's fetches see it. -/
def State.asOf (s : State) (x : Code) : State :=
  { s with dram := x.dram, homeCache := x.homeCache, mailbox := x.mailbox, dies := x.dies, stackTbl := x.stackTbl }

/-- A scalar data cache with a line added: 512 lines, 32 KiB, at most (R270). -/
def addLine (x : CacheLine) (victim : Nat) (sdc : List CacheLine) : List CacheLine :=
  let ys := sdc.filter fun z => !decide (z.line = x.line)
  x :: (if ys.length < 512 then ys else ys.eraseIdx (victim % 512))

/-- A scalar load of a cacheable line: the scalar data cache's copy while it is kept, else the die cache's, which the
scalar data cache then holds (R270, R272). -/
def State.readScalar (s : State) (id : CoreId) (pa n : Nat) (unordered : Bool) : State × List Byte :=
  let line := pa / 64
  let sdc := (s.cell id.cell).sdc
  let hit := sdc.find? fun y => decide (y.line = line)
  let fresh (s : State) : State × List Byte :=
    let s := s.fetchLine id.die line unordered
    let x := s.dieLine id.die line
    let victim := if sdc.length < 512 then 0 else Config.scalarVictim s.ticks
    let s := if sdc.length < 512 then s else { s with ticks := s.ticks + 1 }
    (s.modCell id.cell fun y => { y with sdc := addLine ⟨line, x⟩ victim y.sdc }, bytesOfLine x (pa % 64) n)
  match hit with
  | none => fresh s
  | some y =>
    let keep := Config.scalarLineKept s.ticks
    let s := { s with ticks := s.ticks + 1 }
    if keep then (s, bytesOfLine y.data (pa % 64) n) else fresh s

/-- The home die cache's dirty bytes of a device range written back to DRAM (R231, R233, R306). -/
def State.flushHome (s : State) (lo n : Nat) : State :=
  let xs := s.homeCache.filter fun e => decide (lo ≤ e.1) && decide (e.1 < lo + n)
  { s with
    dram := xs.foldl (fun m e => memWrite (s.dramKey e.1) e.2 m) s.dram
    homeCache := s.homeCache.filter fun e => !(decide (lo ≤ e.1) && decide (e.1 < lo + n)) }

/-- The home die cache's bytes of a device range dropped without a write-back (R231). -/
def State.discardHome (s : State) (lo n : Nat) : State :=
  { s with homeCache := s.homeCache.filter fun e => !(decide (lo ≤ e.1) && decide (e.1 < lo + n)) }

/-- A hold written by an agent sets the event latch of every other hart of the cell (R118); a lane thread's store also
sets its own hart's. -/
def State.holdWritten (s : State) (loc : Nat) (writer : Option CoreId) : State :=
  if isHold loc then
    let key := (loc - 2 ^ 49) / 2 ^ 19
    { s with cores := s.cores.map fun c =>
        if !c.isSteward && decide (c.id.cell = key) && (decide (some c.id ≠ writer) || c.split.on) then
          { c with latch := true }
        else c }
  else s

/-- Masked bytes written at home or in a hold, every replica with them; the writer's die first gives up its copy of the
line (R271, R286). -/
def State.writeHome (s : State) (d : Nat) (writer : Option CoreId) (p : Place) (data : List (Byte × Byte)) : State :=
  let s := if isHold p.loc then s else s.dropNonHome d (p.loc / 64)
  ((s.copies d p).foldl (fun s a => s.setLocBytes a data) s).holdWritten p.loc writer

/-- A copy with masked bytes stored from byte `off` on, and marked dirty there (R271). -/
def storeInCopy (x : NonHome) (off : Nat) : List (Byte × Byte) → NonHome
  | [] => x
  | (b, k) :: bs =>
    storeInCopy { x with
      data := putBits x.data (8 * off) 8 (mergeByte (lineByte x.data off) b k).toNat
      dirty := x.dirty ||| BitVec.ofNat 64 (2 ^ off) } (off + 1) bs

/-- A store reaches its die instant (R275): the hold, the home copy, or its die's non-home copy; the cell's scalar copy
of the line is updated (R270). -/
def State.writeDie (s : State) (id : CoreId) (p : Place) (data : List (Byte × Byte)) : State :=
  if p.cacheable then
    let d := id.die
    let line := p.loc / 64
    let s := s.fetchLine d line p.unordered
    let s :=
      match s.nonHome? d line with
      | none => s.setLocBytes p.loc data
      | some x =>
        let x := storeInCopy x (p.loc % 64) data
        let x := { x with writers := if x.writers.contains id then x.writers else id :: x.writers }
        s.modDie d fun y => { y with nonHome := putNonHome x y.nonHome }
    s.modCell id.cell fun y => { y with sdc := refreshLine line (s.dieLine d line) y.sdc }
  else (s.writeHome id.die (some id) p data).renew id p

/-- A die evicts its copy of a place's line, if it holds one, as it may at any time (R271). -/
def State.evict (s : State) (d : Nat) (p : Place) : State :=
  if isHold p.loc || isFar p.loc then s else s.dropNonHome d (p.loc / 64)

/-- A store at its die instant; one of an instruction that a stronger page orders, `strict`, has its line evicted at once, so that
it is home before what the instruction's order puts after it (R280). -/
def State.storeDie (s : State) (id : CoreId) (strict : Bool) (p : Place) (data : List (Byte × Byte)) : State :=
  let s := s.writeDie id p data
  if strict then s.evict id.die p else s

/-- The wait of an access of a die to a place: none in a hold or in remote memory; a non-home copy the die holds is
reached through a lockage until its recall (R306 step 4, R308), unless the access reaches home whatever the die holds. -/
def State.accessWait (s : State) (d : Nat) (p : Place) (home : Bool := false) : Option Wait :=
  if isHold p.loc || isFar p.loc then none
  else if !home && p.cacheable && decide (s.owner (stackOf p.loc) ≠ d) && (s.nonHome? d (p.loc / 64)).isSome then
    match (s.stack (stackOf p.loc)).lock with
    | some l => if l.new = d && 4 ≤ l.step then some (.lockage (stackOf p.loc)) else none
    | none => none
  else (s.copies d p).findSome? fun a => s.homeWait d a

/-- The lines of home copies that a die's cache holds and DRAM does not (R271). -/
def State.homeLines (s : State) (d : Nat) : List Nat :=
  ((s.homeCache.filter fun e => decide (s.owner (stackOf e.1) = d)).map fun e => e.1 / 64).eraseReps

/-- One line of a die's cache displaced, in no fixed order (R271); a line whose home is held stays. -/
def State.displaceOne (s : State) (d : Nat) : State :=
  let xs := (s.homeLines d ++ (s.die d).nonHome.map fun x => x.line).filter fun l => (s.homeWait d (64 * l)).isNone
  match xs[Config.dieVictim s.ticks % xs.length]? with
  | none => s
  | some l =>
    let s := { s with ticks := s.ticks + 1 }
    if s.owner (stackOf (64 * l)) = d then s.flushHome (64 * l) 64 else s.dropNonHome d l

/-- So many lines of a die's cache displaced. -/
def State.displace (s : State) (d : Nat) : Nat → State
  | 0 => s
  | n + 1 => (s.displaceOne d).displace d n

/-- A die cache holds 16 MiB, 2^18 lines (R6, R271). -/
def State.fitCache (s : State) (d : Nat) : State :=
  if s.homeCache.length + (s.die d).nonHome.length ≤ 2 ^ 18 then s
  else s.displace d ((s.homeLines d).length + (s.die d).nonHome.length - 2 ^ 18)

/-- The die caches of the panel brought within their size, but in HEAT (R350). -/
def State.fitCaches (s : State) : State :=
  let lines := s.homeCache.length + s.dies.foldl (fun n y => n + y.2.nonHome.length) 0
  if lines ≤ 2 ^ 18 || s.inHeat then s else (List.range 128).foldl State.fitCache s

/-- The stack's two candidates are both dead: every access raises LINK (R413). -/
def State.orphaned (s : State) (p : Place) : Bool :=
  !isHold p.loc && !isFar p.loc && (s.stack (stackOf p.loc)).orphan

/-- A frame that a device write reaches, be it a replica's, is sealed (R373). Mailbox rows and holds are never sealed. -/
def State.sealed (s : State) (d : Nat) (p : Place) : Bool :=
  !isHold p.loc && !isFar p.loc && !isMailbox p.loc && (s.copies d p).any fun a => (s.die d).sealt.getLsbD (frameOf a)

/-- Scopes (R282), by their code (R84). -/
inductive Scope where
  | cell | die | panel | sys
  deriving DecidableEq, Repr

def Scope.of (x : BitVec 2) : Scope :=
  match x.toNat with
  | 0 => .cell | 1 => .die | 2 => .panel | _ => .sys

/-- A side-log entry of the core: of the hart that stands there, not of one that stood in its slot before (R288). -/
def State.ownEntry (s : State) (id : CoreId) (e : LogEntry) : Bool :=
  decide (e.core = id) && decide (e.crew = (s.core? id).bind Core.crew)

/-- Whether a core has side-log entries that are not replayed (R288 rule 6). -/
def State.logged (s : State) (id : CoreId) : Bool := (s.cell id.cell).log.any (s.ownEntry id)

/-- Whether remote writes or atomics of a core are not acknowledged yet (R189, system scope), those replayed for its hart
while that was saved among them (R257). -/
def State.unacked (s : State) (id : CoreId) : Bool :=
  s.outbound.any fun o =>
    (decide (o.core = some id) || (o.owner.isSome && decide (o.owner = (s.core? id).bind Core.crew)))
      && (!o.write.isEmpty || !o.merge.isEmpty || o.atomic.isSome)

/-- The lines a release writes home: those the core wrote in its die's non-home copies, of R pages, of U pages only
when `u` (R189, R279). -/
def State.ownDirty (s : State) (id : CoreId) (r u : Bool) : List NonHome :=
  (s.die id.die).nonHome.filter fun x =>
    decide (x.dirty ≠ 0) && x.writers.contains id && (if x.unordered then u else r)

/-- Lines written home that stay as clean copies. -/
def State.cleanLines (s : State) (d : Nat) : List NonHome → State
  | [] => s
  | x :: xs => ((s.mergeHome x).modDie d fun y =>
      { y with nonHome := putNonHome { x with dirty := 0, writers := [] } y.nonHome }).cleanLines d xs

/-- A line that would be written home lies in a stack whose two candidates are both dead (R413). -/
def State.lineLost (s : State) (x : NonHome) : Bool := decide (x.dirty ≠ 0) && (s.stack (stackOf (64 * x.line))).orphan

def State.linesLost (s : State) (xs : List NonHome) : Bool := xs.any s.lineLost

/-- LINK at a release that cannot write home what its core wrote (R413), at no address (log 34). -/
def State.lostTrap {α : Type} (s : State) : Except Halt α := s.unwinding { cause := .link }

/-- The release side at a scope (R188, R189): the core's side-log entries are replayed, at panel scope its dirty lines
written home, at system scope its remote writes acknowledged. -/
def State.release (s : State) (id : CoreId) (sc : Scope) (r u : Bool) : Except Halt State :=
  if s.logged id then s.stall .replay
  else if sc = .cell || sc = .die then .ok s
  else
    let xs := s.ownDirty id r u
    if s.linesLost xs then s.lostTrap
    else
    match xs.findSome? fun x => s.homeWait id.die (64 * x.line) with
    | some w => s.stall w
    | none =>
      let s := s.cleanLines id.die xs
      if sc = .sys && s.unacked id then s.stall (.remote 0) else .ok s

/-- Non-home copies dropped, their dirty bytes written home first. -/
def State.dropLines (s : State) (d : Nat) : List NonHome → State
  | [] => s
  | x :: xs => (s.dropNonHome d x.line).dropLines d xs

/-- What an acquire at a scope would wait for: the home of a dirty line it drops. -/
def State.acquireWait (s : State) (id : CoreId) (sc : Scope) (r u : Bool) : Option Wait :=
  if sc = .cell || sc = .die then none
  else ((s.die id.die).nonHome.filter fun x => if x.unordered then u else r).findSome? fun x =>
    if x.dirty = 0 then none else s.homeWait id.die (64 * x.line)

/-- The acquire side at a scope (R188, R189, R270): the cell's scalar data cache is emptied at die scope, the die's
non-home copies dropped at panel scope, those of U pages only when `u`. -/
def State.acquire (s : State) (id : CoreId) (sc : Scope) (r u : Bool) : Except Halt State :=
  if sc = .cell then .ok s
  else
    let s' := s.modCell id.cell fun y => { y with sdc := [] }
    if sc = .die then .ok s'
    else
      match s.acquireWait id sc r u with
      | some w => s.stall w
      | none => .ok (s'.dropLines id.die ((s.die id.die).nonHome.filter fun x => if x.unordered then u else r))

/-- Some of a die's non-home copies evicted, as any may be at any time (R271), once their homes take them. -/
def State.evictLines (s : State) (d : Nat) (xs : List NonHome) : Except Halt State :=
  match xs.findSome? fun x => if x.dirty = 0 then none else s.homeWait d (64 * x.line) with
  | some w => s.stall w
  | none => .ok (s.dropLines d xs)

/-- The lines that a core wrote in its die's copies of some kinds of page evicted. -/
def State.evictOwn (s : State) (id : CoreId) (r u : Bool) : Except Halt State :=
  let xs := s.ownDirty id r u
  if s.linesLost xs then s.lostTrap else s.evictLines id.die xs

/-- The release side of BOADD, BOARR, CBAR, TBAR and LAUNCH. It writes no U line home (R276, R279); that what the hart wrote on every
page kind is seen after it (R190, R196, R204) is due to the die, which evicts the U lines that the hart wrote (R271; log 12). -/
def State.releaseKinds (s : State) (id : CoreId) (sc : Scope) : Except Halt State := do
  let s ← s.release id sc true false
  if sc = .cell || sc = .die then .ok s else s.evictOwn id false true

/-- The acquire side of BOWAIT, BOARR, CBAR and TBAR. It leaves the U copies (R276, R279), which the die then evicts (R271), so that
the hart sees every page kind as it is (R190, R194, R196; log 12). -/
def State.acquireKinds (s : State) (id : CoreId) (sc : Scope) : Except Halt State := do
  let s ← s.acquire id sc true false
  if sc = .cell || sc = .die then .ok s else s.evictLines id.die ((s.die id.die).nonHome.filter fun x => x.unordered)

end Sys2Proof.Machine
end

