-- ==== Sys2Proof/Machine/Translate.lean ====
section
/-! DEFINITION. The address map, page tables, resident entries and TLBs, and where an access goes (R100, R101, R248,
R267 to R269, R362 to R371). -/

namespace Sys2Proof.Machine

/-- The member of an identity. -/
def State.member? (s : State) (m : MemberId) : Option Member := s.members.find? fun x => decide (x.id = m)

/-- The crew of a reference. -/
def State.crew? (s : State) (r : CrewRef) : Option Crew :=
  (s.member? r.mem).bind fun m => m.crews.find? fun x => decide (x.ref = r)

/-- The state with a member changed. -/
def State.modMember (s : State) (m : MemberId) (f : Member → Member) : State :=
  { s with members := s.members.map fun x => if x.id = m then f x else x }

/-- The state with a crew changed. -/
def State.modCrew (s : State) (r : CrewRef) (f : Crew → Crew) : State :=
  s.modMember r.mem fun m => { m with crews := m.crews.map fun x => if x.ref = r then f x else x }

/-- What an access does (R366). -/
inductive AccessKind where
  | load | store | fetch
  deriving DecidableEq, Repr

/-- The physical address an entry gives (R366): bits [47:16] of a base page, [47:28] of a huge one. -/
def leafPa (huge : Bool) (w va : Word) : Nat :=
  if huge then bits w 47 28 * 2 ^ 28 + bits va 27 0 else bits w 47 16 * 2 ^ 16 + bits va 15 0

/-- A frame that a valid replica set names, as its primary or as a replica (R366, R375). -/
def Die.inReplicaSet (x : Die) (frame : Nat) : Bool :=
  x.rset.any fun e => bit e.2.d0 63 && (decide (bits e.2.d0 13 0 = frame) ||
    [e.2.d1, e.2.d2, e.2.d3].any fun w => bit w 63 && decide (bits w 13 0 = frame))

/-- A frame that is the primary of a valid set (R366, R375). -/
def Die.isPrimary (x : Die) (frame : Nat) : Bool :=
  x.rset.any fun e => bit e.2.d0 63 && decide (bits e.2.d0 13 0 = frame)

/-- A malformed leaf at a walk level (R366). The interleave bit is compared for DRAM frames (log 7); mailbox rows are no frame, so
none of theirs is a registered primary or in a replica set. -/
def State.badLeaf (s : State) (d level : Nat) (w : Word) : Bool :=
  let x := s.die d
  let pa := bits w 47 16 * 2 ^ 16
  let frame := frameOf pa
  decide (level = 1) || decide (leafKind w = 3) || (bit w 2 && !bit w 1) || decide (bits w 15 13 ≠ 0)
    || (decide (level = 2) && decide (bits w 27 16 ≠ 0))
    || (if bit w 47 then bit w 11 || bit w 9 || bit w 8
        else decide (bits w 46 43 ≠ 0) || (bit w 42 && (bit w 12 || bit w 8))
          || (!bit w 42 && bit w 11 != s.frameResident d frame)
          || (bit w 8 && (decide (level = 3) || bit w 9 || !x.isPrimary frame))
          || (!bit w 8 && !bit w 42 && x.inReplicaSet frame))

/-- An eight-byte table entry as the walker reads it at home (R365). -/
def State.entryAt (s : State) (pa : Nat) : Word := bytesWord (s.locBytes pa 8)

/-- The walk from a table at a level (R365): the leaf and its size, or the reason and level of PAGE. Tables lie in device memory: a
pointer with PA[47] = 1 is followed by its lower bits (log 22). -/
def State.walkFrom (s : State) (d : Nat) (va : Word) (table level : Nat) : Nat → Except (Nat × Nat) (Bool × Word)
  | 0 => .error (1, level)
  | fuel + 1 =>
    let w := s.entryAt (table + 8 * (if level = 1 then bits va 51 40 else if level = 2 then bits va 39 28 else bits va 27 16))
    if !bit w 0 then .error (0, level)
    else if bit w 5 then
      if s.badLeaf d level w then .error (1, level) else .ok (decide (level = 2), w)
    else if level = 3 || bits w 14 1 ≠ 0 || (!bit w 47 && decide (bits w 46 43 ≠ 0)) then .error (1, level)
    else s.walkFrom d va (bits w 47 15 * 2 ^ 15) (level + 1) fuel

/-- A page walk of a die (R365). DESIGN CHOICE: a PTROOT with PA[47] or a bit of PA[46:43] set is walked by its lower bits, with no
PAGE for it (log 22). -/
def State.walk (s : State) (d : Nat) (va : Word) : Except (Nat × Nat) (Bool × Word) :=
  s.walkFrom d va (bits (s.die d).ptroot 47 15 * 2 ^ 15) 1 3

/-- The valid resident entries of an address (R368), each with the sealed bit as SEALT has it (R369). -/
def Die.residents (x : Die) (va : Word) : List Word :=
  ((x.rt.filter fun e => bit e.2.2 0 && decide (bits e.2.1 51 28 = bits va 51 28)).map fun e => e.2.2)

/-- The resident entry an address uses: one match, or the reason of HUGEABSENT (R368). -/
def Die.resident (x : Die) (va : Word) : Except Nat Word :=
  match x.residents va with
  | [] => .error 0
  | [w] => .ok w
  | _ :: _ :: _ => .error 2

/-- Whether a TLB entry maps an address. -/
def TlbEntry.hits (e : TlbEntry) (va : Word) : Bool :=
  if e.huge then decide (e.vpn = bits va 51 28) else decide (e.vpn = bits va 51 16)

/-- A TLB's entry for an address; of both sizes the 64 KiB one (R370). -/
def tlbFind (va : Word) (t : List TlbEntry) : Option TlbEntry :=
  match t.find? fun e => !e.huge && e.hits va with
  | some e => some e
  | none => t.find? fun e => e.hits va

/-- A TLB filled with an entry; a full one gives up a victim (R370). -/
def tlbFill (cap victim : Nat) (e : TlbEntry) (t : List TlbEntry) : List TlbEntry :=
  e :: (if t.length < cap then t else t.eraseIdx (victim % cap))

/-- The TLBs of a cell and its die filled by a completed walk (R370). -/
def State.fillTlbs (s : State) (id : CoreId) (e : TlbEntry) : State :=
  let full : Bool := !decide ((s.cell id.cell).tlb.length < 32) || !decide ((s.die id.die).tlb.length < 4096)
  let victim := if full then Config.tlbVictim s.ticks else 0
  let s := if full then { s with ticks := s.ticks + 1 } else s
  let s := s.modCell id.cell fun y => { y with tlb := if y.tlb.contains e then y.tlb else tlbFill 32 victim e y.tlb }
  s.modDie id.die fun y => { y with tlb := if y.tlb.contains e then y.tlb else tlbFill 4096 victim e y.tlb }

/-- The translation of a scalar access or fetch (R368, R370): the cell's TLB, the die's, a single resident entry, or a
walk; the last two fill the TLBs. -/
def State.translate (s : State) (id : CoreId) (va : Word) : Except (Nat × Nat) (State × Bool × Word) :=
  let put (huge : Bool) (w : Word) : State × Bool × Word :=
    (s.fillTlbs id ⟨huge, if huge then bits va 51 28 else bits va 51 16, w⟩, huge, w)
  match tlbFind va (s.cell id.cell).tlb with
  | some e => .ok (s, e.huge, e.leaf)
  | none =>
    match tlbFind va (s.die id.die).tlb with
    | some e => .ok (put e.huge e.leaf)
    | none =>
      match (s.die id.die).resident va with
      | .ok w => .ok (put true w)
      | .error _ =>
        match s.walk id.die va with
        | .ok (huge, w) => .ok (put huge w)
        | .error e => .error e

/-- Whether an entry forbids a user access (R366), or is a resident one whose address lies outside device memory with PA[47] = 0, such
as in die-control space, which no translation yields (R269, R362; log 22). -/
def leafForbids (k : AccessKind) (w : Word) : Bool :=
  !bit w 4 || (!bit w 47 && decide (bits w 46 43 ≠ 0)) || (match k with | .load => !bit w 1 | .store => !bit w 2 | .fetch => !bit w 3)

/-- A cause at an address. -/
def causeAt (c : Cause) (va : Word) : TrapInfo := { cause := c, addr := va }

/-- The place of a window access: `off` in the 512 KiB window of a cell whose first block is `block` (R248, R268). -/
def windowPlace (d p block holdsize : Nat) (va : Word) (off n : Nat) : Except TrapInfo Place :=
  if off + n > 2 ^ 19 then .error (causeAt .straddle va)
  else if off + n > holdsize then .error (causeAt .perm va)
  else .ok ⟨holdLoc d p (block * 2 ^ 16 + off), none⟩

/-- An access of a hart through the hold-local window or a crew window (R267, R268). -/
def State.resolveWindow (s : State) (c : Core) (va : Word) (n : Nat) : Except TrapInfo Place :=
  let a := va.toNat
  if a < 2 ^ 19 then windowPlace c.id.die c.id.pos c.holdbase.toNat c.holdsize.toNat va a n
  else if 0x1000000 ≤ a ∧ a < 0x3000000 then
    let r := (a - 0x1000000) / 2 ^ 19
    let off := (a - 0x1000000) % 2 ^ 19
    if off + n > 2 ^ 19 then .error (causeAt .straddle va)
    else
      match c.crew.bind fun x => (s.crew? x.1).bind fun k => k.cells[r]?.map fun y => (k.die, y) with
      | some (d, p, block) => windowPlace d p block c.holdsize.toNat va off n
      | none => .error (causeAt .perm va)
  else .error (causeAt .perm va)

/-- The entry a steward core's physical access counts as: an S page with every right (R362). -/
def stewardLeaf : Word := 0x3F

/-- Where an access of a steward core goes (R362): physical, aligned as its size asks, in die-control space, or at no address
with reserved bits; a store to a mailbox row traps PERM (R216). An address with a bit of [51:48] set, for which no rule names a
cause, traps PERM ahead of ALIGN, as one with a bit of [63:52] does (R87; log 34). -/
def resolvePhysical (k : AccessKind) (va : Word) (align : Nat) : Except TrapInfo Place :=
  let a := va.toNat
  if 2 ^ 48 ≤ a then .error (causeAt .perm va)
  else if a % align ≠ 0 then .error (causeAt .align va)
  else if !bit va 47 && !bit va 46 && decide (bits va 46 43 ≠ 0) then .error (causeAt .perm va)
  else if k = .store && isMailbox a then .error (causeAt .perm va)
  else .ok ⟨a, some stewardLeaf⟩

/-- What a page entry makes of an access, once found (R216, R366). -/
def finish (k : AccessKind) (huge : Bool) (w va : Word) : Except TrapInfo Place :=
  let pa := leafPa huge w va
  if leafForbids k w then .error (causeAt .perm va)
  else if k = .store && isMailbox pa then .error (causeAt .perm va)
  else .ok ⟨pa, some w⟩

/-- Where an access of the core goes, or the first of its address causes short of SEAL (R87): `vector` for accesses
that resident huge pages alone serve, `align` the alignment that translated memory asks. -/
def State.resolve (s : State) (vector : Bool) (k : AccessKind) (va : Word) (n align : Nat) :
    Except TrapInfo (State × Place) :=
  let c := s.me
  if c.isSteward then (resolvePhysical k va align).map fun p => (s, p)
  else if bits va 63 52 ≠ 0 then .error (causeAt .perm va)
  else if va.toNat < 2 ^ 32 then
    if k = .fetch then .error (causeAt .perm va) else (s.resolveWindow c va n).map fun p => (s, p)
  else if va.toNat % align ≠ 0 then .error (causeAt .align va)
  else if c.split.on && k ≠ .fetch then .error (causeAt .perm va)
  else if vector then
    match (s.die c.id.die).resident va with
    | .error reason => .error { cause := .hugeabsent, addr := va, reason := reason }
    | .ok w => (finish k true w va).map fun p => (s, p)
  else
    match s.translate c.id va with
    | .error (reason, level) => .error { cause := .page, addr := va, reason := reason, level := level }
    | .ok (s, huge, w) => (finish k huge w va).map fun p => (s, p)

/-- The translation of an address for a core is a page walk: neither TLB nor a single resident entry has it (R368, R370). -/
def State.walks (s : State) (id : CoreId) (va : Word) : Bool :=
  (tlbFind va (s.cell id.cell).tlb).isNone && (tlbFind va (s.die id.die).tlb).isNone
    && (match (s.die id.die).resident va with | .ok _ => false | .error _ => true)

/-- An access of a hart that the walker serves: in translated memory, aligned, of no lane thread, and found neither in a
TLB nor in one resident entry (R370). -/
def State.needsWalk (s : State) (k : AccessKind) (va : Word) (align : Nat) : Bool :=
  let c := s.me
  !c.isSteward && decide (bits va 63 52 = 0) && decide (2 ^ 32 ≤ va.toNat) && decide (va.toNat % align = 0)
    && (!c.split.on || decide (k = .fetch)) && s.walks c.id va

/-- The first of the entries that a page walk reads of which `f` says something, by their addresses. -/
def State.walkFind {α : Type} (s : State) (f : Nat → Option α) (va : Word) (table level : Nat) : Nat → Option α
  | 0 => none
  | fuel + 1 =>
    let a := table + 8 * (if level = 1 then bits va 51 40 else if level = 2 then bits va 39 28 else bits va 27 16)
    match f a with
    | some w => some w
    | none =>
      let w := s.entryAt a
      if bit w 0 && !bit w 5 && decide (level < 3) then s.walkFind f va (bits w 47 15 * 2 ^ 15) (level + 1) fuel else none

/-- The same from a die's root table. -/
def State.walkFrom? {α : Type} (s : State) (f : Nat → Option α) (d : Nat) (va : Word) : Option α :=
  s.walkFind f va (bits (s.die d).ptroot 47 15 * 2 ^ 15) 1 3

/-- The wait of a page walk of a die for the home of a table it reads (R306, R307). -/
def State.walkHeld (s : State) (d : Nat) (va : Word) : Option Wait := s.walkFrom? (s.homeWait d) d va

/-- The wait of the page walk of an access, if it walks. -/
def State.walkWait (s : State) (k : AccessKind) (va : Word) (align : Nat) : Option Wait :=
  if s.needsWalk k va align then s.walkHeld s.me.id.die va else none

/-- The page walk of an access, if it walks, reads a table in a stack that has lost both candidates (R413). -/
def State.walkLost (s : State) (k : AccessKind) (va : Word) (align : Nat) : Bool :=
  s.needsWalk k va align &&
    (s.walkFrom? (fun a => if (s.stack (stackOf a)).orphan then some () else none) s.me.id.die va).isSome

/-- The TLB fills of a scalar access or fetch: a completed walk fills the TLBs whatever its access then meets (R370). -/
def State.walked (s : State) (k : AccessKind) (va : Word) (align : Nat) : State :=
  if s.needsWalk k va align then
    match s.translate s.me.id va with
    | .ok (s, _, _) => s
    | .error _ => s
  else s

/-- Before a scalar access is judged: its page walk, which waits while a home is held. -/
def State.prepare (s : State) (k : AccessKind) (va : Word) (align : Nat) : Except Halt State :=
  if s.walkLost k va align then s.unwinding (causeAt .link va)
  else
  match s.walkWait k va align with
  | some w => s.stall w
  | none => .ok (s.walked k va align)

end Sys2Proof.Machine
end

