-- ==== Sys2Proof/Machine/Strip.lean ====
section
/-! DEFINITION. Strips (R112 to R116), the stores they buffer, the side log (R103, R288), remote memory (R386), and a
core's loads and stores of bytes. -/

namespace Sys2Proof.Machine

/-- Bits that masked bytes write. -/
def maskBits (data : List (Byte × Byte)) : Nat :=
  data.foldl (fun n x => n + if x.2 = 0xFF then 8 else (List.range 8).countP fun i => x.2.getLsbD i) 0

/-- Bits that a strip's buffered stores write: the buffer holds 16 KiB of them (R113). -/
def Strip.bits (x : Strip) : Nat := x.buf.foldl (fun n e => n + maskBits e.data) 0

/-- 16 KiB in bits (R113). -/
def bufferBits : Nat := 131072

/-- Bytes with one buffered store laid over them: by place, or by virtual address while its page is absent (R102). -/
def overlayOne (loc : Nat) (va : Word) (e : BufStore) (bs : List Byte) : List Byte :=
  let start := if e.logged.isSome then e.va.toNat else e.loc
  let at_ := if e.logged.isSome then va.toNat else loc
  (List.range bs.length).zipWith (fun i b =>
    if start ≤ at_ + i ∧ at_ + i < start + e.data.length then
      match e.data[at_ + i - start]? with
      | some (x, k) => mergeByte b x k
      | none => b
    else b) bs

/-- Bytes with a strip's buffered stores laid over them, oldest first (R102). -/
def overlay (loc : Nat) (va : Word) (buf : List BufStore) (bs : List Byte) : List Byte :=
  buf.foldl (fun bs e => overlayOne loc va e bs) bs

/-- A core's side-log entry covers a byte of an access (R288 rule 5). -/
def State.logCovers (s : State) (id : CoreId) (va : Word) (n : Nat) : Bool :=
  (s.cell id.cell).log.any fun e =>
    s.ownEntry id e && decide (e.va.toNat < va.toNat + n) && decide (va.toNat < e.va.toNat + e.data.length)

/-- One that an IFENCE of the core has followed covers a byte (R118). -/
def State.fenceCovers (s : State) (id : CoreId) (va : Word) (n : Nat) : Bool :=
  (s.cell id.cell).log.any fun e =>
    e.fenced && s.ownEntry id e && decide (e.va.toNat < va.toNat + n) && decide (va.toNat < e.va.toNat + e.data.length)

/-- A core has a side-log entry for a 64 KiB page (R288 rule 3). -/
def State.logsPage (s : State) (id : CoreId) (va : Word) : Bool :=
  (s.cell id.cell).log.any fun e => s.ownEntry id e && decide (bits e.va 63 16 = bits va 63 16)

/-- The reason and level of PAGE that a store or atomic entering the side log reports (R376): those of its own walk, or of the
hart's entry for the page that it follows. -/
def State.logReason (s : State) (id : CoreId) (va : Word) (own : Option (Nat × Nat)) : Nat × Nat :=
  own.getD (((s.cell id.cell).log.find? fun e =>
    s.ownEntry id e && decide (bits e.va 63 16 = bits va 63 16)).elim (0, 0) fun e => (e.reason, e.level))

/-- A side-log entry added to the cell's log, with its fault record (R103, R376, R377). -/
def State.logEntry (s : State) (e : LogEntry) : State :=
  let id := e.core
  let member := match e.crew with | some (r, _) => memberWord r.mem | none => 0
  (s.modCell id.cell fun y => { y with log := y.log ++ [e] }).faultTo id.die
    (faultRecord Cause.page.code false true e.reason e.level id.hartNumber 0 false e.va 0 e.pc e.pc member s.timeWord)

/-- The outbound window of a physical address with PA[47] = 1 (R386). -/
def State.window (s : State) (pa : Nat) : Quad := tblGet ⟨0, 0, 0, 0⟩ (pa / 2 ^ 40 % 128) s.windows

/-- A request with the number `id` as it leaves through the outbound window of its address (R386): to rva + PA[39:0] under the
window's key. One through an invalid window is carried as failing; one to die-control space uses no window. -/
def State.makeOut (s : State) (id : Nat) (core : Option CoreId) (base : Nat) (stream : Option Nat) (waits : Bool) (pa : Nat)
    (va : Word) (elem : Nat) (write : List Byte) (read : Nat) (atomic : Option (Nat × Word × Word)) : Outbound where
  id := id
  core := core
  owner := none
  sentAt := s.time
  base := base
  stream := stream
  waits := waits
  window := pa / 2 ^ 40 % 128
  port := bits (s.window pa).d0 29 24
  qp := bits (s.window pa).d0 23 0
  rva := (s.window pa).d1 + BitVec.ofNat 64 (pa % 2 ^ 40)
  rkey := (s.window pa).d2.setWidth 32
  pa := pa
  va := va
  elem := elem
  write := write
  merge := []
  read := read
  atomic := atomic
  valid := isControl pa || bit (s.window pa).d0 63

/-- A request of a core sent out (R386). -/
def State.sendOut (s : State) (id : CoreId) (waits : Bool) (pa : Nat) (va : Word) (elem : Nat) (write : List Byte)
    (read : Nat) (atomic : Option (Nat × Word × Word)) : State :=
  { s with
    nextId := s.nextId + 1
    outbound := s.outbound ++
      [s.makeOut (s.nextId + 1) (some id) ((s.core? id).elim 0 Core.remoteBase) none waits pa va elem write read atomic] }

/-- The request that the core, or its lane thread, waits for. -/
def State.pendingOut (s : State) (id : CoreId) : Option Outbound :=
  s.outbound.find? fun o => decide (o.core = some id) && o.waits && decide (some o.base = (s.core? id).map Core.remoteBase)

/-- A range [lo, hi) that overlaps a command's range (R201). -/
def overlaps (lo hi : Nat) (r : Option (Nat × Nat)) : Bool :=
  match r with
  | none => false
  | some (a, b) => decide (lo < b) && decide (a < hi)

/-- The hold of a crew's window cell: die, cell and first block (R248). -/
def Crew.cellOf (k : Crew) (r : Nat) : Option (Nat × Nat × Nat) := k.cells[r]?.map fun x => (k.die, x.1, x.2)

/-- The hold place of a virtual window address of a crew's cell, as an engine of that cell uses it (R201, R202). -/
def Crew.windowLoc (k : Crew) (cellRank : Nat) (va : Nat) : Option Nat :=
  if va < 2 ^ 19 then (k.cellOf cellRank).map fun x => holdLoc x.1 x.2.1 (x.2.2 * 2 ^ 16 + va)
  else if 0x1000000 ≤ va ∧ va < 0x3000000 then
    (k.cellOf ((va - 0x1000000) / 2 ^ 19)).map fun x =>
      holdLoc x.1 x.2.1 (x.2.2 * 2 ^ 16 + (va - 0x1000000) % 2 ^ 19)
  else none

/-- The lowest and one past the highest of some places of `n` bytes, those in one cell's hold only (R201). -/
def holdRange (key n : Nat) (locs : List Nat) : Option (Nat × Nat) :=
  let xs := locs.filter fun l => isHold l && decide ((l - 2 ^ 49) / 2 ^ 19 = key)
  match xs with
  | [] => none
  | x :: xs => some (xs.foldl Nat.min x, xs.foldl Nat.max x + n)

/-- The element addresses of a shape, destination or source (R198): Σ k_d · stride_d over the linear index. -/
def shapeOffset : List (Nat × Int) → Nat → Int
  | [], _ => 0
  | (count, stride) :: ds, i => (i % count : Nat) * stride + shapeOffset ds (i / count)

/-- A virtual address with a byte offset, modulo 2^64. -/
def offsetVa (a : Word) (o : Int) : Word := a + BitVec.ofInt 64 o

/-- Source and destination virtual addresses, or crew-wide targets, of one element of a stream command (R198, R200). -/
def StreamCmd.element (x : StreamCmd) (i : Nat) : Word × Word :=
  match x.work with
  | .shape _ dst src dims =>
    (offsetVa src (shapeOffset (dims.map fun d => (d.1, d.2.1)) i),
      offsetVa dst (shapeOffset (dims.map fun d => (d.1, d.2.2)) i))
  | .crewwide scatter base sel =>
    match sel[i]? with
    | none => (0, 0)
    | some (j, rank, off) =>
      let local_ := base + BitVec.ofNat 64 (j * 2 ^ x.elog)
      let far := BitVec.ofNat 64 (0x1000000 + rank * 2 ^ 19 + off)
      if scatter then (local_, far) else (far, local_)

/-- The hold ranges of its own cell that a stream command reads and writes (R201). -/
def State.streamRanges (s : State) (x : StreamCmd) : Option (Nat × Nat) × Option (Nat × Nat) :=
  match s.crew? x.crew with
  | none => (none, none)
  | some k =>
    match k.cellOf x.cellRank with
    | none => (none, none)
    | some (d, p, _) =>
      let es := (List.range x.total).map x.element
      let fill := match x.work with | .shape fill _ _ _ => fill | .crewwide _ _ _ => false
      let locs (f : Word × Word → Word) := es.filterMap fun e => k.windowLoc x.cellRank (f e).toNat
      (if fill then none else holdRange (cellKey d p) (2 ^ x.elog) (locs Prod.fst),
        holdRange (cellKey d p) (2 ^ x.elog) (locs Prod.snd))

/-- The crew that a bank command's hart stands with; none while the crew is saved. -/
def State.cmdCrew (s : State) (x : BankCmd) : Option Crew := (x.crew.bind s.crew?).filter Crew.resident

/-- The status doubleword that an LKACC of a cell will write, as a hold range (R214). Other hold operands of bank
commands are read when they issue. -/
def State.statusRange (s : State) (x : BankCmd) : Option (Nat × Nat) :=
  match x.work with
  | .lkacc _ _ _ _ _ _ _ _ status _ =>
    (s.cmdCrew x).bind fun k => (k.windowLoc x.cellRank status.toNat).map fun l => (l, l + 8)
  | _ => none

/-- The cell a bank command's hart stands on. -/
def State.cmdCell (s : State) (x : BankCmd) : Option Nat :=
  ((s.cmdCrew x).bind fun k => k.cellOf x.cellRank).map fun y => cellKey y.1 y.2.1

/-- Whether an access of `n` hold bytes waits behind an earlier stream or bank command of its cell (R201, R214). -/
def State.scoreboard (s : State) (id : CoreId) (loc n : Nat) (write : Bool) : Bool :=
  isHold loc && ((s.cell id.cell).queue.any (fun x =>
      let (q, w) := s.streamRanges x
      overlaps loc (loc + n) w || (write && overlaps loc (loc + n) q)) ||
    s.stackTbl.any fun k => (k.2.seqr ++ k.2.parked).any fun x =>
      decide (s.cmdCell x = some id.cell) && overlaps loc (loc + n) (s.statusRange x))

/-- The key of an access in what is done of an instruction: its element and its place, below 2^50 in a hold too. -/
def accessKey (elem loc : Nat) : Nat := elem * 2 ^ 50 + loc

/-- The key of an access that has been performed or acknowledged, and of one that has failed. -/
def ackKey (elem loc : Nat) : Nat := 2 ^ 90 + accessKey elem loc
def failKey (elem loc : Nat) : Nat := 2 ^ 91 + accessKey elem loc

/-- Wait for remote memory: send the request unless one of the core's is under way. One that has failed raises LINK at the
access, unwinding (R386). -/
def State.awaitRemote {α : Type} (s : State) (id : CoreId) (pa : Nat) (va : Word) (elem : Nat) (write : List Byte)
    (read : Nat) (atomic : Option (Nat × Word × Word)) : Except Halt α :=
  if (tblGet? (s.me.remoteBase + failKey elem pa) s.me.remote).isSome then
    s.unwinding { cause := .link, addr := va, elem := elem }
  else
  match s.pendingOut id with
  | some o => s.stall (.remote o.id)
  | none => (s.sendOut id true pa va elem write read atomic).stall (.remote (s.nextId + 1))

/-- What a request's answer puts into its issuer's table from `base` on: the bytes read, the old value of an atomic, or the
acknowledgement of a write. -/
def answerInto (o : Outbound) (base : Nat) (data : List Byte) (t : Tbl Byte) : Tbl Byte :=
  if o.write.isEmpty then data.zipIdx.foldl (fun t y => tblSet (base + accessKey o.elem o.pa + y.2) y.1 t) t
  else tblSet (base + ackKey o.elem o.pa) 0 t

/-- A read that was asked for to merge a partly written store into (R273) answered: the whole bytes are written back. -/
def State.mergeBack (s : State) (o : Outbound) (data : List Byte) : State :=
  if o.merge.isEmpty then s
  else { s with
    nextId := s.nextId + 1
    outbound := s.outbound ++ [{ s.makeOut (s.nextId + 1) o.core o.base none false o.pa o.va o.elem
      ((data.zip o.merge).map fun x => mergeByte x.1 x.2.1 x.2.2) 0 none with owner := o.owner }] }

/-- The bytes that answer a request (R386). -/
def Outbound.answerBytes (o : Outbound) : Nat := if o.atomic.isSome then 8 else o.read

/-- A request that has been answered. -/
def State.endOut (s : State) (id : Nat) : State := { s with outbound := s.outbound.filter fun o => !decide (o.id = id) }

/-- A request answered, to the core that waits for it. -/
def State.answerCore (s : State) (o : Outbound) (data : List Byte) : State :=
  let s := s.endOut o.id
  match o.core with
  | some c => if o.waits then s.modCore c fun c => { c with remote := answerInto o o.base data c.remote } else s
  | none => s

/-- Bytes that remote memory has answered the waiting core for an access, if all are there. -/
def Core.answered (c : Core) (elem loc n : Nat) : Option (List Byte) :=
  ((List.range n).mapM fun i => tblGet? (c.remoteBase + accessKey elem loc + i) c.remote)

/-- Whether a store of the waiting instruction has been performed or acknowledged. -/
def Core.acked (c : Core) (elem loc : Nat) : Bool := (tblGet? (c.remoteBase + ackKey elem loc) c.remote).isSome

/-- The core with a store of its instruction noted as performed. -/
def Core.noteDone (c : Core) (elem loc : Nat) : Core :=
  { c with remote := tblSet (c.remoteBase + ackKey elem loc) 1 c.remote }

/-- A store performed at its die instant, or sent to remote memory (R272, R275). -/
def State.perform (s : State) (id : CoreId) (strict : Bool) (p : Place) (va : Word) (elem : Nat) (data : List (Byte × Byte)) :
    State :=
  if isFar p.loc then s.sendOut id false p.loc va elem (data.map fun x => x.1) 0 none
  else s.storeDie id strict p data

/-- The whole bytes that a store to remote memory writes: masked bytes are merged into those that remote memory holds, which
it is asked for first (R273). -/
def State.farBytes (s : State) (p : Place) (va : Word) (elem : Nat) (data : List (Byte × Byte)) :
    Except Halt (List Byte) :=
  if data.all fun x => decide (x.2 = 0xFF) then .ok (data.map fun x => x.1)
  else
    match s.me.answered elem p.loc data.length with
    | some bs => .ok ((bs.zip data).map fun x => mergeByte x.1 x.2.1 x.2.2)
    | none => s.awaitRemote s.me.id p.loc va elem [] data.length none

/-- The element number under which a released strip asks for the bytes of a partly written remote store. -/
def drainElem : Nat := 2 ^ 32

/-- A buffered store to be released goes to the side log: it met PAGE, or the hart has an entry for its page (R103, R288). -/
def State.entersLog (s : State) (e : BufStore) : Bool := e.logged.isSome || (e.leaf.isSome && s.logsPage s.me.id e.va)

/-- What stops the release of the elements of one buffered instruction before any of them is performed: a stack that has lost both
candidates (R413), a sealed frame, which refuses the whole store (R172, R235), an overlapping command of the cell (R201), or a held
home. -/
def State.drainStop (s : State) (xs : List BufStore) : Option Halt :=
  let ys := xs.filter fun e => !s.entersLog e
  match ys.find? fun e => s.orphaned ⟨e.loc, e.leaf⟩ with
  | some e => some ⟨s, .trap { cause := .link, addr := e.va, elem := e.elem } e.pc true⟩
  | none =>
  match ys.find? fun e => s.sealed s.me.id.die ⟨e.loc, e.leaf⟩ with
  | some e => some ⟨s, .trap { cause := .seal, addr := e.va, elem := e.elem } e.pc true⟩
  | none =>
    ys.findSome? fun e => (if s.scoreboard s.me.id e.loc e.data.length true then some (Wait.scoreboard e.loc e.data.length true)
      else s.accessWait s.me.id.die ⟨e.loc, e.leaf⟩ e.strict).map fun w => ⟨s, .wait w⟩

/-- The strip's buffered stores released in program order (R112, R137), each instruction's as one store (R235): a store to a
page with a side-log entry of the hart, or one that met PAGE, enters the side log (R103, R288). What is left of the buffer
stays in the state at which the release stops. `fresh` says that the first of them is to be judged although the instruction
it belongs to has been released in part. -/
def State.drain (s : State) (fresh : Bool) : List BufStore → Except Halt State
  | [] => .ok s
  | e :: rest =>
    let c := s.me
    let s := s.upd fun c => { c with strip := { c.strip with buf := e :: rest } }
    let p : Place := ⟨e.loc, e.leaf⟩
    match if fresh || e.first then s.drainStop (e :: rest.takeWhile fun x => !x.first) else none with
    | some h => .error h
    | none =>
      if s.entersLog e then
        if 64 ≤ (s.cell c.id.cell).log.length then s.stall .sideLog
        else
          let (reason, level) := s.logReason c.id e.va e.logged
          (s.logEntry ⟨c.id, c.crew, e.va, e.pc, e.data, none, reason, level, false, false, false⟩).drain false rest
      else if isFar e.loc then
        match s.farBytes p e.va drainElem e.data with
        | .error h => .error h
        | .ok bs =>
          ((s.perform c.id e.strict p e.va e.elem (whole bs)).upd fun c =>
            { c with remote := c.remote.filter fun x =>
                !decide (c.remoteBase + accessKey drainElem 0 ≤ x.1 ∧ x.1 < c.remoteBase + accessKey (drainElem + 1) 0) }).drain false rest
      else (s.perform c.id e.strict p e.va e.elem e.data).drain false rest

/-- The strip closes (R112): its buffered stores are released, its tentative pushes become permanent (R134), and the
history is emptied. -/
def State.closeStrip (s : State) : Except Halt State :=
  if s.me.strips then
    (s.drain true s.me.strip.buf).map fun s => s.upd fun c =>
      { c with strip := .empty, lq := c.lq.map fun e => { e with tentative := false } }
  else .ok s

/-- The strip closes, and a hart that has been asked to stop stops there, before the instruction (R255). -/
def State.close (s : State) : Except Halt State :=
  (s.closeStrip).bind fun s => if s.me.stopAsked && s.me.strips then .error ⟨s, .stop⟩ else .ok s

/-- A checkpoint at the instruction (R115): the strip closes and cr.ckpt is its address. -/
def State.checkpoint (s : State) : Except Halt State :=
  if s.me.strips then (s.close).map fun s => s.upd fun c => c.putCkpt c.pc else .ok s

/-- A checkpoint around the instruction (R115): as one at it, and `retire` moves cr.ckpt past it. Inside a repeat
frame the checkpoint is around the whole frame (R167). -/
def State.checkpointAround (s : State) : Except Halt State :=
  if s.me.frame.isSome || s.me.around then .ok s
  else (s.checkpoint).map fun s => s.upd fun c => { c with around := c.strips }

/-- The next step of a repeat frame (R81, R167): the next word, the next replay, or the address after the frame, where
cr.ckpt moves. -/
def Core.frameNext (c : Core) (f : Frame) : Core :=
  let n := f.words.length
  if f.idx + 1 < n then
    { c with frame := some { f with idx := f.idx + 1 }, pc := c.pc + 4 }
  else if f.replay + 1 < f.count then
    { c with frame := some { f with idx := 0, replay := f.replay + 1 }, pc := f.base }
  else
    let a := f.base + BitVec.ofNat 64 (4 * n)
    { c with frame := none, pc := a, strip := .empty }.putCkpt a

/-- An instruction ends with its program counter at `a`: a checkpoint around it moves cr.ckpt there (R115). One that the gate
does not charge counts 1 towards the hart's share of its cell's energy (R402). -/
def Core.retireTo (c : Core) (a : Word) : Core :=
  let c := { c with wait := .none, released := false, share := c.share + (!c.released).toNat }.clearRemote.clearLane
  match c.frame with
  | some f => c.frameNext f
  | none =>
    let c := if c.around then { c with around := false, strip := .empty }.putCkpt a else c
    c.setPc a

/-- An instruction ends and the next follows it. -/
def Core.retire (c : Core) : Core := c.retireTo (c.curPc + 4)

/-- The state with the instruction of the core whose turn it is ended. -/
def State.retire (s : State) : State := s.upd Core.retire

/-- What every access does once its address causes are judged: LINK where both candidates are dead (R413), and the
waits of R201, R307 and R410; `home` for an access that reaches home whatever its die holds. -/
def State.admitAccess (s : State) (p : Place) (va : Word) (elem n : Nat) (write : Bool) (home : Bool := false) :
    Except Halt State :=
  let c := s.me
  if s.orphaned p then s.unwinding { cause := .link, addr := va, elem := elem }
  else if s.scoreboard c.id p.loc n write then s.stall (.scoreboard p.loc n write)
  else
    match s.accessWait c.id.die p home with
    | some w => s.stall w
    | none => .ok s

/-- The bytes an admitted load reads, before the strip's own stores (R272), each by its own page's row. `scalar` reads through the
scalar data cache; of an instruction that a stronger page orders, `strict`, the die first evicts the line, so that what it reads is
no older than the instruction (R280). -/
def State.readPlace (s : State) (scalar strict : Bool) (p : Place) (va : Word) (elem n : Nat) : Except Halt (State × List Byte) :=
  let c := s.me
  if isFar p.loc then
    match c.answered elem p.loc n with
    | some bs => .ok (s, bs)
    | none => s.awaitRemote c.id p.loc va elem [] n none
  else if p.cacheable then
    let s := if strict then s.evict c.id.die p else s
    .ok (if scalar then s.readScalar c.id p.loc n p.unordered else s.readDie c.id p.loc n p.unordered)
  else
    let (s, bs) := s.readHome c.id.die p n
    .ok (s.renew c.id p, bs)

/-- Whether an access takes a checkpoint around itself because of its page (R115, R277, R281). -/
def State.around (s : State) (p : Place) : Except Halt State :=
  if p.strong && s.me.strips then s.checkpointAround else .ok s

/-- A scalar load of `n` bytes (R100 to R104): precise traps, the wait for the hart's own side-log entry (R288 rule 5),
the checkpoint of an S page, and the hart's own buffered stores. -/
def State.loadScalar (s : State) (va : Word) (n : Nat) : Except Halt (State × List Byte) := do
  let c := s.me
  let s ← s.prepare .load va n
  match s.resolve false .load va n n with
  | .error t =>
    if t.cause = .page && s.logCovers c.id va n then s.stall (.covered false va n)
    else s.precise t
  | .ok (s, p) =>
    if s.logCovers c.id va n then s.stall (.covered false va n)
    else
      let s ← s.around p
      let s ← s.admitAccess p va 0 n false
      let (s, bs) ← s.readPlace true false p va 0 n
      .ok (s, overlay p.loc va s.me.strip.buf bs)

/-- A store put into the strip's buffer; one that would take it past 16 KiB first takes a checkpoint at itself
(R113, R115). -/
def State.buffer (s : State) (e : BufStore) : Except Halt State := do
  let s ← if bufferBits < s.me.strip.bits + maskBits e.data then s.checkpoint else .ok s
  .ok (s.upd fun c => { c with strip := { c.strip with buf := c.strip.buf ++ [e] } })

/-- An unbuffered store: of a lane thread, a steward core, or an instruction that touches an S page or a page with the no-speculation
bit (R104, R137, R280, R362). It follows an entry of the hart for its page into the side log (R288 rule 3); a sealed frame refuses it (R235); a
write to remote memory waits for its acknowledgement (R277). -/
def State.storeNow (s : State) (strict : Bool) (p : Place) (va : Word) (elem : Nat) (data : List (Byte × Byte)) :
    Except Halt State :=
  let c := s.me
  if p.leaf.isSome && s.logsPage c.id va then
    if 64 ≤ (s.cell c.id.cell).log.length then s.stall .sideLog
    else
      let (reason, level) := s.logReason c.id va none
      .ok (s.logEntry ⟨c.id, c.crew, va, c.curPc, data, none, reason, level, false, false, false⟩)
  else if s.sealed c.id.die p then s.unwinding { cause := .seal, addr := va, elem := elem }
  else if isFar p.loc then
    if c.acked elem p.loc then .ok s
    else
      match s.farBytes p va elem data with
      | .error h => .error h
      | .ok bs => s.awaitRemote c.id p.loc va elem bs 0 none
  else .ok (s.storeDie c.id strict p data)

/-- A store of a resolved place: buffered in the strip, or performed as it executes. -/
def State.storePlace (s : State) (p : Place) (va : Word) (elem : Nat) (data : List (Byte × Byte)) : Except Halt State := do
  let s ← s.around p
  let s ← s.admitAccess p va elem data.length true
  if p.strong || !s.me.strips then s.storeNow false p va elem data
  else s.buffer ⟨va, s.me.pc, elem, p.loc, p.leaf, data, none, true, false⟩

/-- A scalar store (R100 to R104): one that meets PAGE is buffered for the side log (R103); any other address cause
traps precisely. -/
def State.storeScalar (s : State) (va : Word) (bs : List Byte) : Except Halt State := do
  let s ← s.prepare .store va bs.length
  match s.resolve false .store va bs.length bs.length with
  | .error t =>
    if t.cause = .page then s.buffer ⟨va, s.me.pc, 0, 0, none, whole bs, some (t.reason, t.level), true, false⟩ else s.precise t
  | .ok (s, p) => s.storePlace p va 0 (whole bs)

end Sys2Proof.Machine
end

