-- ==== Sys2Proof/Machine/Members.lean ====
section
/-! DEFINITION. Launch records, members and crews, lane grants, barrier-object arrivals and held faults (R192, R205,
R207, R226, R236, R245 to R254, R381). -/

namespace Sys2Proof.Machine

/-- Doubleword i of a launch record (R205). -/
def dwAt (xs : List Word) (i : Nat) : Word := xs[i]?.getD 0

/-- Fields of a launch record (R205). -/
def recLanes (x : List Word) : Nat := bits (dwAt x 2) 52 48
def recBlocks (x : List Word) : Nat := bits (dwAt x 2) 43 40
def recTrain (x : List Word) : Bool := bit (dwAt x 2) 24
def recCrews (x : List Word) : Nat := if recTrain x then bits (dwAt x 2) 39 32 else 1
def recCells (x : List Word) : Nat := bits (dwAt x 2) 22 16
def recHarts (x : List Word) : Nat := bits (dwAt x 2) 8 0
def recCount (x : List Word) : Nat := bits (dwAt x 3) 31 0
def recMigrate (x : List Word) : Bool := bit (dwAt x 4) 24
def recCeiling (x : List Word) : Word := dwAt x 6
def recHostrec (x : List Word) : Word := dwAt x 8
def recImage (x : List Word) : Word := dwAt x 9
def recDiscard (x : List Word) : Nat := bits (dwAt x 10) 51 32
def recImglen (x : List Word) : Nat := bits (dwAt x 10) 19 0
def recDeps (x : List Word) : Nat := bits (dwAt x 11) 1 0

/-- The stacks a claim doubleword names (R205). -/
def claimStacks (w : Word) : List Nat :=
  match bits w 1 0 with
  | 0 => []
  | 1 => [bits w 14 8]
  | _ => [bits w 14 8, bits w 22 16]

/-- The claims of the crew of a rank (R205). -/
def Batch.claimsOf (b : Batch) (rank : Nat) : List Nat :=
  if recTrain b.dw then (if bits (dwAt b.dw 4) 1 0 = 0 then [] else claimStacks (dwAt b.claims rank))
  else claimStacks (dwAt b.dw 4)

/-- The batch of a member. -/
def State.batch? (s : State) (m : MemberId) : Option Batch :=
  s.batches.find? fun b => decide (b.queue = m.queue) && decide (b.seq = m.seq)

/-- The launch record of a member; zeros if there is none. -/
def State.recordOf (s : State) (m : MemberId) : List Word :=
  match s.batch? m with
  | some b => b.dw
  | none => []

/-- The stacks a crew claims (R205). -/
def State.crewClaims (s : State) (r : CrewRef) : List Nat :=
  match s.batch? r.mem with
  | some b => b.claimsOf r.rank
  | none => []

/-- A register of four doublewords that reads zero until written. -/
def quadAt (k : Nat) (t : Tbl Quad) : Quad := tblGet ⟨0, 0, 0, 0⟩ k t

/-- A queue's priority (R387). -/
def State.queuePri (s : State) (q : Nat) : Nat := bits (quadAt q s.queues).d0 58 56

/-- A crew's priority: its queue's. -/
def State.crewPri (s : State) (r : CrewRef) : Nat := s.queuePri r.mem.queue

/-- The harts of a crew that are resident and have not halted. -/
def State.hartsOf (s : State) (r : CrewRef) : List Core :=
  s.cores.filter fun c => decide (c.crewRef? = some r)

/-- Offsets in a save area (R381): hart contexts, and the hold of a cell rank. -/
def saveContext (hr : Nat) : Nat := 0x40000 + 0x7000 * hr
def saveHold (x : List Word) (r : Nat) : Nat := 0x40000 + 0x7000 * recHarts x + recDiscard x * r

/-- The place of `n` bytes of a crew's window of a cell rank: in the hold while resident, in the save area while saved
(R259, R261, R381). -/
def State.crewPlace? (s : State) (k : Crew) (r off n : Nat) : Option Nat :=
  if k.resident then (k.cellOf r).map fun x => holdLoc x.1 x.2.1 (x.2.2 * 2 ^ 16 + off)
  else if off + n ≤ recDiscard (s.recordOf k.ref.mem) ∧ r < recCells (s.recordOf k.ref.mem) then
    some (k.save + saveHold (s.recordOf k.ref.mem) r + off)
  else none

/-- The place of a barrier object; none once its crew has ended (R207), and in the discardable region of a saved crew, whose
bytes are zero and so hold no object (R192, R261). -/
def State.objLoc? (s : State) (o : ObjRef) : Option Nat :=
  (s.crew? o.crew).bind fun k => s.crewPlace? k o.cellRank o.off 16

/-- The two doublewords of a barrier object. -/
def State.objWords (s : State) (loc : Nat) : Word × Word :=
  (bytesWord (s.locBytes loc 8), bytesWord (s.locBytes (loc + 8) 8))

/-- The fields of doublewords 0 and 1 (R191). -/
def objExpected (d0 : Word) : Nat := bits d0 47 0
def objArrived (d1 : Word) : Nat := bits d1 47 0
def objPhase (d1 : Word) : Bool := bit d1 48
def objErr (d1 : Word) : Bool := bit d1 49
def objMagic (d1 : Word) : Bool := decide (bits d1 63 56 = 0xB7)

/-- An object's doublewords with fields replaced. -/
def objPut (d0 d1 : Word) (expected arrived : Nat) (phase err : Bool) : Word × Word :=
  (putBits d0 0 48 expected, putBits (putBits (putBits d1 0 48 arrived) 48 1 phase.toNat) 49 1 err.toNat)

/-- An update of an object, with its check (R192): `expected` and `arrived` as the update leaves them. -/
def objUpdate (d0 d1 : Word) (expected arrived : Nat) : Word × Word :=
  let wrap := decide (2 ^ 48 ≤ arrived)
  let arrived := arrived % 2 ^ 48
  let err := objErr d1 || wrap
  if expected ≠ 0 ∧ err = false then
    if arrived = expected then objPut d0 d1 0 0 (!objPhase d1) err
    else if expected < arrived then objPut d0 d1 expected arrived (objPhase d1) true
    else objPut d0 d1 expected arrived (objPhase d1) err
  else objPut d0 d1 expected arrived (objPhase d1) err

/-- Every hart of a cell gets the event latch set (R118). -/
def State.signalCell (s : State) (key : Nat) : State :=
  { s with cores := s.cores.map fun c =>
      if !c.isSteward && decide (c.id.cell = key) then { c with latch := true } else c }

/-- The dependence is met: its crew has ended, or the object's phase differs from the token (R207). The object of a saved
crew in its discardable region reads as zero (R261): phase 0. -/
def State.depMet (s : State) (d : ObjRef × Bool) : Bool :=
  (s.crew? d.1.crew).isNone ||
    (match s.objLoc? d.1 with
    | none => d.2
    | some loc => objPhase (s.objWords loc).2 != d.2)

/-- Batches whose dependences are all met become Ready (R207, R265). -/
def State.settleDeps (s : State) : State :=
  { s with batches := s.batches.map fun (b : Batch) =>
      if !b.deps.isEmpty && b.deps.all s.depMet then { b with deps := [], readyAt := s.time } else b }

/-- An object written, with what its change sets off: latches (R118), and dependences of launches (R207). One in the save area of its
crew is not written in a sealed frame (R373; log 34). -/
def State.putObject (s : State) (loc : Nat) (writer : Option CoreId) (old new : Word × Word) : State :=
  if !isHold loc && s.sealedAt loc then s
  else
  let s := (s.setLocBytes loc (whole (wordBytes64 new.1 ++ wordBytes64 new.2))).holdWritten loc writer
  if objPhase old.2 = objPhase new.2 && objErr old.2 = objErr new.2 then s
  else (if isHold loc then s.signalCell ((loc - 2 ^ 49) / 2 ^ 19) else s).settleDeps

/-- No arrival. -/
def Arrivals.none : Arrivals := ⟨false, []⟩

/-- An arrival of software: BOADD, BOARR or a completed member (R194). -/
def Arrivals.soft : Arrivals := ⟨true, []⟩

/-- What an object's phases have counted. -/
def State.phaseLog (s : State) (o : ObjRef) : PhaseLog :=
  (s.phases.find? fun x => decide (x.obj = o)).getD ⟨o, .none, .none⟩

/-- The state with that replaced. -/
def State.setPhase (s : State) (x : PhaseLog) : State :=
  { s with phases := x :: s.phases.filter fun y => !decide (y.obj = x.obj) }

/-- An arrival counted in an object's current phase. -/
def State.countArrival (s : State) (o : ObjRef) (x : Arrivals) : State :=
  let y := s.phaseLog o
  s.setPhase { y with now := ⟨y.now.software || x.software, y.now.wrote ++ x.wrote⟩ }

/-- An object's phase completes. -/
def State.turnPhase (s : State) (o : ObjRef) : State :=
  let y := s.phaseLog o
  s.setPhase { y with now := .none, last := y.now }

/-- An object updated (R192), and its phase's count closed when the update completes the phase. -/
def State.updateObject (s : State) (loc : Nat) (o : ObjRef) (writer : Option CoreId) (old new : Word × Word) : State :=
  let s := s.putObject loc writer old new
  if objPhase old.2 = objPhase new.2 then s else s.turnPhase o

/-- An arrival at the object of a place (R192): 0 changes nothing, and without the magic it is dropped. -/
def State.arriveAt (s : State) (loc : Nat) (o : ObjRef) (writer : Option CoreId) (n : Nat) (x : Arrivals) : State :=
  let (d0, d1) := s.objWords loc
  if n = 0 || !objMagic d1 then s
  else (s.countArrival o x).updateObject loc o writer (d0, d1) (objUpdate d0 d1 (objExpected d0) (objArrived d1 + n))

/-- An arrival by hardware (R192); dropped when the object's crew has ended (R207) or the object is gone with a saved hold, and
made later while the home of a saved crew's area is held (R307). -/
def State.arrive (s : State) (o : Option ObjRef) (n : Nat) (x : Arrivals) : State :=
  match o with
  | some o =>
    match s.objLoc? o with
    | some loc =>
      if !isHold loc && s.heldAt loc then { s with late := s.late ++ [.arrival o n x] } else s.arriveAt loc o none n x
    | none => s
  | none => s

/-- The grant a hart will hold once its pending change is applied. -/
def Core.dueGrant (c : Core) : Nat := (c.target.getD c.grant).toNat

/-- Lanes of a cell that no resident hart holds or is to have (R249). -/
def State.freeLanes (s : State) (key : Nat) : Nat :=
  16 - (s.cores.filter fun c => !c.isSteward && decide (c.id.cell = key)).foldl
    (fun n c => n + Nat.max c.grant.toNat c.dueGrant) 0

/-- Earlier placed or resumed first, then lower hart rank (R254; log 10). -/
def laneOrder (s : State) (a b : Core) : Bool :=
  match a.crew, b.crew with
  | some (x, i), some (y, j) =>
    let px := s.crewPri x
    let py := s.crewPri y
    let mx := (s.crew? x).elim 0 Crew.movedAt
    let my := (s.crew? y).elim 0 Crew.movedAt
    if px ≠ py then decide (py < px) else if mx ≠ my then decide (mx < my) else decide (i ≤ j)
  | _, _ => true

/-- An ordered insertion, and a sort by an order. -/
def insertBy {α : Type} (le : α → α → Bool) (x : α) : List α → List α
  | [] => [x]
  | y :: ys => if le x y then x :: y :: ys else y :: insertBy le x ys

def sortBy {α : Type} (le : α → α → Bool) : List α → List α
  | [] => []
  | x :: xs => insertBy le x (sortBy le xs)

/-- Lanes beyond `keep` given back to harts in order, each up to its request; they take them at their next SETVL
(R254). -/
def State.giveLanes (s : State) (key keep : Nat) : List CoreId → State
  | [] => s
  | id :: rest =>
    let free := s.freeLanes key - keep
    (s.modCore id fun c =>
      let n := Nat.min free (c.request.toNat - c.dueGrant)
      if n = 0 then c else { c with target := some (BitVec.ofNat 5 (c.dueGrant + n)) }).giveLanes key keep rest

/-- The Reserving members bound to a die (R392). -/
def State.reserving (s : State) (d : Nat) : List Member :=
  s.members.filter fun m => decide (m.state = .reserving) && m.reserved.contains d

/-- The lanes that the harts of a record need on one cell: those of its fullest cell (R245, R249). -/
def needLanes (x : List Word) : Nat := recLanes x * ((recHarts x + recCells x - 1) / recCells x)

/-- Lanes that freed on a cell handed out (R254): to harts above every Reserving member of the die, to those members,
each of which holds on every cell the lanes of its fullest one (log 10), and the rest to the other harts. -/
def State.laneReturn (s : State) (d p : Nat) : State :=
  let key := cellKey d p
  let hungry := sortBy (laneOrder s) (s.cores.filter fun c =>
    !c.isSteward && decide (c.id.cell = key) && decide (c.dueGrant < c.request.toNat) && decide (c.grant.toNat ≤ c.dueGrant))
  let rs := s.reserving d
  let above (c : Core) : Bool :=
    rs.all fun m => decide (s.queuePri m.id.queue < c.crew.elim 0 fun x => s.crewPri x.1)
  let keep := rs.foldl (fun n m => n + needLanes (s.recordOf m.id)) 0
  (s.giveLanes key 0 ((hungry.filter above).map fun c => c.id)).giveLanes key keep
    ((hungry.filter fun c => !above c).map fun c => c.id)

/-- The fault of a crew that a hart raises next (R226, R236): one of its own, or one whose issuing hart has halted, the
first issued first. `sealOnly` at stream-engine instructions. -/
def State.heldFault (s : State) (c : Core) (sealOnly : Bool) : Option HeldFault :=
  match c.crew with
  | none => none
  | some (r, hr) =>
    match s.crew? r with
    | none => none
    | some k => (sortBy (fun a b => decide (a.order ≤ b.order)) k.held).find? fun f =>
        (!sealOnly || decide (f.info.cause = .seal)) && (decide (f.core = hr) || k.halted.contains f.core)

/-- A held fault taken away from its crew. -/
def State.dropHeld (s : State) (c : Core) (f : HeldFault) : State :=
  match c.crew with
  | none => s
  | some (r, _) => s.modCrew r fun k => { k with held := k.held.filter fun g => !decide (g = f) }

/-- A held fault is raised at an instruction whose strip is closed (R226, R236): an unwinding trap with cr.epc and
cr.ckpt its address. -/
def State.raiseHeld (s : State) (sealOnly : Bool) : Except Halt State :=
  match s.heldFault s.me sealOnly with
  | none => .ok s
  | some f => (s.dropHeld s.me f).unwinding f.info

/-- Parked commands of a crew dropped (R228). -/
def State.dropParked (s : State) (r : CrewRef) : State :=
  { s with stackTbl := s.stackTbl.map fun k =>
      (k.1, { k.2 with parked := k.2.parked.filter fun x => !decide (x.crew = some r) }) }

/-- An RDMA WRITE of the panel itself through an outbound window (R386, R396). -/
def State.rdmaOut (s : State) (pa : Nat) (write : List Byte) : State :=
  { s with
    nextId := s.nextId + 1
    outbound := s.outbound ++ [s.makeOut (s.nextId + 1) none 0 none false pa 0 0 write 0 none] }

/-- An event record (R396), written when the host event ring is valid. Its serial is the events written before it, so that the first
one's is 0; R396 does not say whether a record counts itself (log 25). DESIGN CHOICE: an nlog outside the range of R396, 0 to 3, is
taken as it stands (log 25). -/
def State.eventRecord (s : State) (kind : Nat) (cause : BitVec 8) (member addr : Word) : State :=
  if bit s.eventRing.d0 63 then
    let i := s.eventSerial.toNat % 2 ^ bits s.eventRing.d0 3 0
    let ws : List Word := [s.eventSerial, BitVec.ofNat 64 (kind + cause.toNat * 2 ^ 8), member, addr, s.timeWord, 0, 0, 0]
    { s with eventSerial := s.eventSerial + 1 }.rdmaOut (s.eventRing.d1.toNat + 64 * i) (ws.flatMap wordBytes64)
  else s

/-- The control block of a queue (R387, R388). -/
def State.controlBlock (s : State) (q : Nat) : Nat := bits (quadAt q s.queues).d1 47 7 * 2 ^ 7

/-- A doubleword of device memory at home, read and written. -/
def State.readWord (s : State) (pa : Nat) : Word := bytesWord (s.locBytes pa 8)

/-- A doubleword that the schedulers or machine firmware write at home; a sealed frame refuses it (R373; log 34). -/
def State.writeWord (s : State) (pa : Nat) (w : Word) : State :=
  if s.sealedAt pa then s else s.setLocBytes pa (whole (wordBytes64 w))

/-- One more record of a queue completed or skipped (R388). -/
def State.countDone (s : State) (q : Nat) : State :=
  s.writeWord (s.controlBlock q + 0x18) (s.readWord (s.controlBlock q + 0x18) + 1)

/-- The completion record of a batch (R396). -/
def State.completionRecord (s : State) (b : Batch) : List Word :=
  [BitVec.ofNat 64 (b.queue * 2 ^ 58 + b.seq % 2 ^ 26 * 2 ^ 32 + recCount b.dw), BitVec.ofNat 64 b.ok,
    BitVec.ofNat 64 (b.kcause * 2 ^ 56 + b.killed), BitVec.ofNat 64 (2 ^ 63 + s.time % 2 ^ 63)]

/-- The bank state of a launch leaves the stacks, and its areas are free: no member of it remains (R262, R266). -/
def State.forgetLaunch (s : State) (launch : Nat × Nat) : State :=
  { s with stackTbl := s.stackTbl.map fun k => (k.1, { k.2 with
      launch := if k.2.launch = some launch then none else k.2.launch
      saved := k.2.saved.filter fun x => !decide (x.1 = launch)
      areas := k.2.areas.filter fun x => !decide (x.1 = launch) }) }

/-- Batches of which every member has completed or been killed end (R207, R396): the completion record is written, and
done in the control block raised, whose home must not be held. A batch of count 0 ends once its dependences are met. -/
def State.endBatches (s : State) : List Batch → State
  | [] => s
  | b :: rest =>
    if !b.finished && b.deps.isEmpty && decide (recCount b.dw ≤ b.ok + b.killed) && !s.heldAt (s.controlBlock b.queue) then
      let s := { s with batches := s.batches.map fun (x : Batch) =>
        if x.queue = b.queue ∧ x.seq = b.seq then { x with finished := true } else x }
      let s := if recHostrec b.dw = 0 then s
        else s.rdmaOut (recHostrec b.dw).toNat ((s.completionRecord b).flatMap wordBytes64)
      ((s.countDone b.queue).forgetLaunch (b.queue, b.seq)).endBatches rest
    else s.endBatches rest

/-- The same for every batch. -/
def State.settleBatches (s : State) : State := s.endBatches s.batches

/-- Side-log entries, engine commands, and bank commands not started of a crew dropped (R266). -/
def State.dropCommands (s : State) (r : CrewRef) : State :=
  let s := s.dropParked r
  { s with
    stackTbl := s.stackTbl.map fun k =>
      (k.1, { k.2 with seqr := k.2.seqr.filter fun x => x.started || !decide (x.crew = some r) })
    cells := s.cells.map fun y =>
      (y.1, { y.2 with
        queue := y.2.queue.filter fun x => !decide (x.crew = r)
        log := y.2.log.filter fun e => !decide (e.crew.map Prod.fst = some r) }) }

/-- Lanes of several cells of a die handed out. -/
def State.laneReturns (s : State) (d : Nat) : List Nat → State
  | [] => s
  | p :: ps => (s.laneReturn d p).laneReturns d ps

/-- Lanes of every cell of a die handed out: a member has stopped holding them (R254, R392). -/
def State.laneReturnDie (s : State) (d : Nat) : State := s.laneReturns d (List.range (s.cellsOfDie d))

/-- A save area's bytes (R380). -/
def saveSize (x : List Word) : Nat :=
  (0x40000 + 0x7000 * recHarts x + recCells x * recDiscard x + 0xFFFF) / 0x10000 * 0x10000

/-- The save areas in use, by start and bytes: those of members, and those of killed members of whose launch a member remains
(R266, R380). -/
def State.saves (s : State) : List (Nat × Nat) :=
  s.members.flatMap fun m => (m.crews.map fun k => (k.save, saveSize (s.recordOf m.id)))
    ++ if (s.batch? m.id).any fun b => !b.finished then m.areas else []

/-- A hart leaves its slot, which keeps its debug ring (R397). -/
def State.leaveSlot (s : State) (c : Core) : State :=
  let s := s.modCell c.id.cell fun y => { y with rings := tblSet c.id.slot (c.dbg, c.dbgCount) y.rings }
  { s with
    cores := s.cores.filter fun k => !decide (k.id = c.id)
    outbound := s.outbound.map fun o => if o.core = some c.id then { o with core := none } else o }

/-- What the objects of a member's crews have counted is forgotten with them (R207). -/
def State.dropPhases (s : State) (m : MemberId) : State :=
  { s with phases := s.phases.filter fun x => !decide (x.obj.crew.mem = m) }

/-- The harts of crews removed from their slots. -/
def State.removeHarts (s : State) (rs : List CrewRef) : State :=
  (s.cores.filter fun c => c.crewRef?.elim false fun r => rs.contains r).foldl State.leaveSlot s

/-- A member is killed (R266): its commands and side-log entries are dropped, its harts end, no arrival is made, and the
kill is counted and reported (R396). -/
def State.killMember (s : State) (m : MemberId) (code : BitVec 8) (addr : Word) : State :=
  match s.member? m with
  | none => s
  | some x =>
    if x.state = .done || x.state = .killed then s
    else
      let s := x.crews.foldl (fun s k => s.dropCommands k.ref) s
      let s := s.removeHarts (x.crews.map fun k => k.ref)
      let s := s.modMember m fun x => { x with
        state := .killed
        crews := []
        reserved := []
        areas := x.crews.map fun k => (k.save, saveSize (s.recordOf x.id))
        kcause := code.toNat }
      let s := { s with batches := s.batches.map fun (b : Batch) =>
        if b.queue = m.queue ∧ b.seq = m.seq then
          { b with killed := b.killed + 1, kcause := if b.killed = 0 then code.toNat else b.kcause }
        else b }
      let s := x.crews.foldl (fun s k => if k.resident then s.laneReturns k.die (k.cells.map Prod.fst) else s) s
      let s := (x.reserved.foldl State.laneReturnDie s).dropPhases m
      ((s.eventRecord 3 code (memberWord m) addr).settleDeps).settleBatches

/-- A hart ends (R118, R254): its slot is free, its lanes are handed out, and with the crew's last hart its parked
commands are dropped (R228). A fault that no hart of the crew can raise any more kills the member (R236). -/
def State.endHart (s : State) (c : Core) : State :=
  match c.crew with
  | none => { s with cores := s.cores.filter fun k => !decide (k.id = c.id) }
  | some (r, hr) =>
    let s := s.leaveSlot c
    let s := s.modCrew r fun k => { k with halted := k.halted ++ [hr] }
    let s := s.laneReturn c.id.die c.id.pos
    if (s.hartsOf r).isEmpty then
      let s := s.dropParked r
      match (s.crew? r).bind fun k => k.held.head? with
      | some f => s.killMember r.mem f.info.cause.code f.info.addr
      | none => s
    else s

end Sys2Proof.Machine
end

