-- ==== Sys2Proof/Machine/Issue.lean ====
section
/-! DEFINITION. What surrounds the execution of an encoded instruction (R69, R87, R115, R164, R166, R252). -/

namespace Sys2Proof.Machine

/-- What an instruction makes of the machine: the state it leaves, or the trap, wait or stop it ends in. -/
def settle (r : Except Halt State) : State :=
  match r with
  | .ok s => s
  | .error h => h.next

/-- Before the instruction: outside the lane-thread subset a lane thread traps SPLITMODE (R69 step 4, R164); from
VJOIN to the next SETVL each instruction takes a checkpoint at itself (R166), but for those of the handler of an unwinding trap that
has taken none of its own, from which RETT returns to the cr.ckpt that the trap left (R122; log 16). -/
def State.enter (s : State) (subset : Bool) : Except Halt State :=
  let c := s.me
  if c.split.on && !subset then s.precise { cause := .splitmode }
  else if c.stepwise && c.strips && c.frame.isNone && !c.noStrip then s.checkpoint
  else .ok s

/-- An encoded instruction of the core whose turn it is. -/
def State.run (s : State) (subset : Bool) (body : State → Except Halt State) :
    Host.Outcome State Fault Refusal :=
  match s.core? s.cur with
  | none => .fault .noCore
  | some _ => .next (settle ((s.enter subset).bind body))

/-- An encoded instruction with a checkpoint around it (R115). -/
def State.runAround (s : State) (subset : Bool) (body : State → Except Halt State) :
    Host.Outcome State Fault Refusal :=
  s.run subset fun s => (s.checkpointAround).bind body

/-- An instruction that only writes a scalar register from the core's own registers. -/
def State.alu (s : State) (d : BitVec 5) (x : Core → Word) : Host.Outcome State Fault Refusal :=
  s.run true fun s => .ok (s.upd fun c => (c.wg d (x c)).retire)

/-- An instruction released by the dispatch gate and charged `cost` (R252), once. -/
def State.releaseGate (s : State) (id : CoreId) (cost : Nat) : State :=
  (s.modCell id.cell fun y => { y with bucket := y.bucket + cost }).modCore id fun c =>
    { c with released := true, share := c.share + cost }

/-- The dispatch gate of a cell (R252): a vector, matrix, tile or stream instruction passes when the bucket is below its
level, and charges it `cost`, be that 0; otherwise its hart waits for GATE_RELEASE. Steward cores have no gate. -/
def State.gate (s : State) (cost : Nat) : Except Halt State :=
  let c := s.me
  if c.isSteward || c.released then .ok s
  else if (s.cell c.id.cell).bucket < (s.die c.id.die).level.toNat then .ok (s.releaseGate c.id cost)
  else s.stall (.gate cost)

end Sys2Proof.Machine
end

