-- ==== Sys2Proof/Machine/Operands.lean ====
section
/-! DEFINITION. Operand forms of vector, mask and tile instructions: rows, elements, gates, strides, the checks at
issue, and which registers a strip has read and written (R12 to R17, R67, R68, R116, R127 to R130, R397). -/

namespace Sys2Proof.Machine

/-- Element width in bits (R20). -/
def Core.w (c : Core) : Nat := fmtWidth c.fmt

/-- Grouping (R30). -/
def Core.grp (c : Core) : Nat := 2 ^ c.glog.toNat

/-- VL and RC. -/
def Core.vln (c : Core) : Nat := c.vl.toNat
def Core.rcn (c : Core) : Nat := c.rc.toNat

/-- The mask stride σ = w / (2·G) (R16). -/
def Core.sigma (c : Core) : Nat := c.w / (2 * c.grp)

/-- Elements of width `w` that the granted lanes hold in one register (R13). -/
def Core.perReg (c : Core) (w : Nat) : Nat := 64 * c.grant.toNat / w

/-- The register of element e of row i of an operand with base `b` and grouping `g` (R13). -/
def Core.elemReg (c : Core) (b g w i e : Nat) : Nat := b + i * g + e / c.perReg w

/-- The bit at which it starts in that register (R12, R13). -/
def Core.elemBit (c : Core) (w e : Nat) : Nat := e % c.perReg w * w

/-- Element e of row i of an operand (R13). -/
def Core.elem (c : Core) (b g w i e : Nat) : Nat := getBits (c.vreg (c.elemReg b g w i e)) (c.elemBit w e) w

/-- The core with that element written. -/
def Core.setElem (c : Core) (b g w i e x : Nat) : Core :=
  let r := c.elemReg b g w i e
  c.setV r (putBits (c.vreg r) (c.elemBit w e) w x)

/-- An operand's base and extent meet R14 for a sweep of `rows` rows. -/
def fits (b g rows : Nat) : Bool := decide (b % g = 0) && decide (b + rows * g ≤ 64)

/-- A mask operand of a sweep stays within m47 (R17, R156). -/
def fitsMask (b rows : Nat) : Bool := decide (b + rows ≤ 48)

/-- Rows with their elements, rows first (R87, R127). -/
def Core.positions (c : Core) : List (Nat × Nat) :=
  (List.range c.rcn).flatMap fun i => (List.range c.vln).map fun e => (i, e)

/-- The gate of element e of row i: no gate for field 0, else bit e·σ of mask register m + i, inverted when `inv`
(R16, R17, R67). -/
def Core.gateOn (c : Core) (m : BitVec 4) (inv : Bool) (i e : Nat) : Bool :=
  if m = 0 then true else (c.mreg (m.toNat + i)).getLsbD (e * c.sigma) != inv

/-- The active elements of a gated sweep (R15, R127). -/
def Core.active (c : Core) (m : BitVec 4) (inv : Bool) : List (Nat × Nat) :=
  c.positions.filter fun x => c.gateOn m inv x.1 x.2

/-- The second operand of a V word (R130). -/
inductive Second where
  | vv (b : BitVec 6)
  | vs (s : BitVec 5)
  | vi (k : BitVec 6)
  deriving DecidableEq, Repr

/-- Its value for element e of row i, as w bits (R130). -/
def Core.second (c : Core) (x : Second) (i e : Nat) : Nat :=
  match x with
  | .vv b => c.elem b.toNat c.grp c.w i e
  | .vs s => (c.rg s).toNat % 2 ^ c.w
  | .vi k => toField k.toInt c.w

/-- It meets R14. -/
def Second.fits (x : Second) (g rows : Nat) : Bool :=
  match x with
  | .vv b => Machine.fits b.toNat g rows
  | .vs _ => true
  | .vi _ => true

/-- Registers of a strip numbered: vector, mask, tile (R116). -/
def regV (n : Nat) : Nat := n
def regM (n : Nat) : Nat := 64 + n
def regY (n : Nat) : Nat := 128 + n

/-- Bits added to parts of registers, listed by register number. -/
def addPart (r mask : Nat) (t : Tbl Nat) : Tbl Nat := tblSet r (tblGet 0 r t ||| mask) t

/-- The parts of vector registers that hold the elements below VL of an operand's rows. -/
def Core.rowRegs (c : Core) (b g w : Nat) : Tbl Nat :=
  (List.range c.rcn).flatMap fun i => (List.range g).filterMap fun k =>
    let n := min (c.perReg w) (c.vln - k * c.perReg w)
    if n = 0 then none else some (regV (b + i * g + k), 2 ^ (n * w) - 1)

/-- The parts that hold some elements of an operand. -/
def Core.elemRegs (c : Core) (b g w : Nat) (xs : List (Nat × Nat)) : Tbl Nat :=
  xs.foldl (fun t x => addPart (regV (c.elemReg b g w x.1 x.2)) ((2 ^ w - 1) * 2 ^ c.elemBit w x.2) t) []

/-- The parts that hold the active elements of a gated sweep. -/
def Core.actRegs (c : Core) (m : BitVec 4) (inv : Bool) (b g w : Nat) : Tbl Nat :=
  if m = 0 then c.rowRegs b g w else c.elemRegs b g w (c.active m inv)

/-- Bits e·σ of a mask register for each e below VL. -/
def Core.predBits (c : Core) : Nat := (List.range c.vln).foldl (fun x e => x + 2 ^ (e * c.sigma)) 0

/-- The gate bits of a sweep. -/
def Core.gateRegs (c : Core) (m : BitVec 4) : Tbl Nat :=
  if m = 0 then [] else (List.range c.rcn).map fun i => (regM (m.toNat + i), c.predBits)

/-- The mask bits of a sweep's rows: those below VL·σ. -/
def Core.maskRegs (c : Core) (b : Nat) : Tbl Nat := (List.range c.rcn).map fun i => (regM (b + i), 2 ^ (c.vln * c.sigma) - 1)

/-- The same without the bits of gated-off elements, which a mask-producing instruction leaves (R16). -/
def Core.maskActRegs (c : Core) (m : BitVec 4) (inv : Bool) (b : Nat) : Tbl Nat :=
  (List.range c.rcn).map fun i => (regM (b + i), 2 ^ (c.vln * c.sigma) - 1 -
    (List.range c.vln).foldl (fun x e => if c.gateOn m inv i e then x else x + 2 ^ (e * c.sigma)) 0)

/-- The parts of registers of the second operand. -/
def Core.secondRegs (c : Core) (m : BitVec 4) (inv : Bool) (x : Second) : Tbl Nat :=
  match x with
  | .vv b => c.actRegs m inv b.toNat c.grp c.w
  | .vs _ => []
  | .vi _ => []

/-- A VTYPE trap at issue (R14, R22, R129): precise, with the replay number inside a frame (R168). -/
def State.vtypeTrap {α : Type} (s : State) : Except Halt α :=
  s.precise { cause := .vtype, elem := match s.me.frame with | some f => f.replay | none => 0 }

/-- The registers whose strip-entry contents an access to parts of registers reads: those of a bit that the strip has not
written (R116). -/
def Strip.reads (x : Strip) (rd : Tbl Nat) : List Nat :=
  (rd.filter fun e => decide (e.2 &&& tblGet 0 e.1 x.wr ≠ e.2)).map fun e => e.1

/-- R116: an instruction that writes a register whose strip-entry contents the strip has read, or that it reads itself,
takes a checkpoint around itself; else the strip remembers what it reads and writes. -/
def State.touch (s : State) (rd wr : Tbl Nat) : Except Halt State :=
  let c := s.me
  let wr := wr.filter fun e => decide (e.2 ≠ 0)
  let news := c.strip.reads rd
  if !c.strips || c.frame.isSome then .ok s
  else if wr.any fun e => c.strip.rd.contains e.1 || news.contains e.1 then s.checkpointAround
  else .ok (s.upd fun c => { c with strip := { c.strip with
    rd := (news.filter fun r => !c.strip.rd.contains r).eraseDups ++ c.strip.rd
    wr := wr.foldl (fun t e => addPart e.1 e.2 t) c.strip.wr } })

/-- What an instruction reads remembered in a strip that opened at it (R116, R173); as it is where the strip is the one in which
`touch` has noted that. -/
def State.noteReads (s : State) (rd : Tbl Nat) : State :=
  let c := s.me
  if !c.strips || c.frame.isSome || c.around then s
  else s.upd fun c => { c with strip := { c.strip with
    rd := ((c.strip.reads rd).filter fun r => !c.strip.rd.contains r).eraseDups ++ c.strip.rd } }

/-- A debug-ring entry for an instruction that completes (R397): its active elements, and the addresses of the lowest
and highest it accessed. -/
def Core.ring (c : Core) (pc : Word) (active : Nat) (first last : Word) : Core :=
  if c.isSteward then c
  else
    let d0 : Word := BitVec.ofNat 64 ((c.rcn - 1) % 8 * 2 ^ 48 + c.fmt.toNat * 2 ^ 44 + c.glog.toNat * 2 ^ 42
      + active % 2 ^ 13 * 2 ^ 16 + c.vln)
    { c with
      dbg := (c.dbg ++ [DbgEntry.mk d0 pc first last]).drop (c.dbg.length + 1 - 64)
      dbgCount := c.dbgCount + 1
      strip := if c.noStrip then c.strip else { c.strip with ring := c.strip.ring + 1 } }

/-- A debug-ring entry of an instruction that stands in no strip (R397). -/
def Core.ringOutside (c : Core) : Core := { c.ring c.curPc 0 0 0 with strip := c.strip }

/-- Flags raised by the elements of an instruction (R47). -/
def Core.raise (c : Core) (f : Flags) : Core := { c with fflags := c.fflags ||| f }

/-- A vector instruction that touches registers only: its checks at issue, the gate of the cell, R116, its effect, and
its debug entry. With VL = 0 it has no effect (R15). -/
def State.vector (s : State) (weight : Nat) (ok : Core → Bool) (rd wr : Core → Tbl Nat) (m : BitVec 4) (inv : Bool)
    (f : Core → Core) : Host.Outcome State Fault Refusal :=
  s.run false fun s => do
    let c := s.me
    if c.ill || !ok c then s.vtypeTrap
    else
      let s ← s.gate (c.vln * c.rcn * weight)
      let s ← s.touch (rd c ++ c.gateRegs m) (wr c)
      .ok (s.upd fun c =>
        ((if c.vln = 0 then c else f c).ring c.pc (c.active m inv).length 0 0).retire)

/-- Elements of a destination written in order, with the flags of each (R15, R127). The values come from the state
before the instruction. -/
def Core.writeElems (c : Core) (d g w : Nat) : List (Nat × Nat) → (Nat → Nat → Nat × Flags) → Core
  | [], _ => c
  | (i, e) :: xs, f => ((c.setElem d g w i e (f i e).1).raise (f i e).2).writeElems d g w xs f

/-- A mask register written by a mask-producing instruction (R16): bit e·σ for each e below VL as `f` says, unchanged
where it says nothing, zero in the other bits below VL·σ, unchanged above. -/
def Core.maskResult (c : Core) (old : BitVec 512) (f : Nat → Option Bool) : BitVec 512 :=
  let n := c.vln * c.sigma
  let ones := (List.range c.vln).foldl (fun x e =>
    if (f e).getD (old.getLsbD (e * c.sigma)) then x + 2 ^ (e * c.sigma) else x) 0
  putBits old 0 n ones

/-- The same for each row of a mask destination. -/
def Core.writeMasks (c : Core) (d : Nat) (f : Nat → Nat → Option Bool) : Core :=
  (List.range c.rcn).foldl (fun k i => k.setM (d + i) (c.maskResult (c.mreg (d + i)) (f i))) c

end Sys2Proof.Machine
end

