-- ==== Sys2Proof/Machine/Atomics.lean ====
section
/-! DEFINITION. Atomics, LDACQ, STREL and FENCE (R183 to R190). -/

namespace Sys2Proof.Machine

/-- Bytes of a size code (R184). -/
def amoBytes (z : Nat) : Nat := if z % 2 = 0 then 4 else 8

/-- A value of 8·n bits extended by a size code: signed for 0 and 1 (R73, R184). -/
def extendSize (z n x : Nat) : Word := if z / 2 % 2 = 0 then BitVec.ofInt 64 (sext x (8 * n)) else BitVec.ofNat 64 (zext x (8 * n))

/-- The new value of an atomic (R184): x is the old value, b the operand, c the compared value; with the flags of AMOFADD,
and none where AMOCAS does not write. -/
def amoNew (op z x b c : Nat) (mode : Rmode) : Option Nat × Flags :=
  let k := 8 * amoBytes z
  let less : Bool := if z / 2 % 2 = 0 then decide (sext x k < sext b k) else decide (x < b)
  match op with
  | 0 => (some ((x + b) % 2 ^ k), 0)
  | 1 => (some b, 0)
  | 2 => (if x = c then some b else none, 0)
  | 3 => (some (if less then x else b), 0)
  | 4 => (some (if less then b else x), 0)
  | 5 => (some (x &&& b), 0)
  | 6 => (some (x ||| b), 0)
  | 7 => (some (x ^^^ b), 0)
  | _ =>
    let (r, f) := sumRule fmtF32 mode [.of (c32 x), .of (c32 b)]
    (some r, f)

/-- Where an access goes that must be naturally aligned in hold windows too (R185, R188); an address with bits above 51 set
meets PERM alone (R87). -/
def State.resolveAligned (s : State) (k : AccessKind) (va : Word) (n : Nat) : Except TrapInfo (State × Place) :=
  if bits va 63 52 = 0 && decide (va.toNat % n ≠ 0) then .error (causeAt .align va) else s.resolve false k va n n

/-- A cell's scalar copy of a line dropped (R185). -/
def State.dropScalar (s : State) (id : CoreId) (loc : Nat) : State :=
  s.modCell id.cell fun y => { y with sdc := y.sdc.filter fun x => !decide (x.line = loc / 64) }

/-- An atomic performed at its coherence point (R184 to R186): the old value, and the state with the new one. -/
def State.amoAt (s : State) (id : CoreId) (p : Place) (op z b c : Nat) (mode : Rmode) : State × Nat × Flags :=
  let n := amoBytes z
  let s := if isHold p.loc then s else s.dropNonHome id.die (p.loc / 64)
  let x := bytesNat (s.locBytes (s.homePlace id.die p) n)
  let (y, f) := amoNew op z x b c mode
  let s := match y with
    | some y => s.writeHome id.die (some id) p (whole (natBytes n y))
    | none => s
  (s.dropScalar id p.loc, x, f)

/-- A `g0` atomic that enters the side log (R187), with its scope code: an acquiring one acquires here, and again when it is
replayed (log 22). `own` is what its walk reported. -/
def State.logAtomic (s : State) (op z : Nat) (va b : Word) (scope : BitVec 2) (acq : Bool) (own : Option (Nat × Nat)) :
    Except Halt State :=
  let c := s.me
  let sc := Scope.of scope
  if 64 ≤ (s.cell c.id.cell).log.length then s.stall .sideLog
  else
    match if acq then s.acquireWait c.id sc true false else none with
    | some w => s.stall w
    | none => do
      let (reason, level) := s.logReason c.id va own
      let s := s.logEntry ⟨c.id, c.crew, va, c.curPc, whole (List.replicate (amoBytes z) 0), some ⟨op, z, b, c.frm, scope, acq⟩,
        reason, level, false, false, false⟩
      let s ← if acq then s.acquire c.id sc true false else .ok s
      .ok s.retire

/-- The acquire side of an atomic (R186). -/
def State.amoAcquire (s : State) (id : CoreId) (sc : Scope) (acq : Bool) : Except Halt State :=
  if acq then s.acquire id sc true false else .ok s

/-- An atomic carried to host or remote memory (R185): fetch-add or compare-swap, whose answer is the old value. -/
def State.amoRemote (s : State) (op z : Nat) (sc : Scope) (acq : Bool) (p : Place) (va b cmp : Word) (d : BitVec 5) :
    Except Halt State :=
  let c := s.me
  match c.answered 0 p.loc 8 with
  | some bs => (s.amoAcquire c.id sc acq).map fun s =>
    s.upd fun c => (c.wg d (extendSize z 8 (bytesNat bs))).retire
  | none => s.awaitRemote c.id p.loc va 0 [] 0 (some (if op = 0 then (0, b, 0) else (1, cmp, b)))

/-- An atomic on die-control space (R362; log 15): the register is read, then written. -/
def State.amoControl (s : State) (op z : Nat) (sc : Scope) (acq : Bool) (p : Place) (va : Word) (d b : BitVec 5) :
    Except Halt State := do
  let c := s.me
  let n := amoBytes z
  let k := 2 ^ (8 * n)
  let (s, bs) ← s.readPlace false false p va 0 n
  let (y, f) := amoNew op z (bytesNat bs) ((c.rg b).toNat % k) ((c.rg d).toNat % k) (modeOfFrm c.frm)
  let s ← match y with
    | some y => s.storeNow false p va 0 (whole (natBytes n y))
    | none => .ok s
  let s ← s.amoAcquire c.id sc acq
  .ok (s.upd fun c => ((c.raise f).wg d (extendSize z n (bytesNat bs))).retire)

/-- An atomic on a place of the panel's own memory, with the order of R186. It is performed once: what its acquire would wait
for it waits for before. -/
def State.amoLocal (s : State) (op z : Nat) (sc : Scope) (acq : Bool) (p : Place) (va : Word) (d b : BitVec 5) :
    Except Halt State := do
  let c := s.me
  let k := 2 ^ (8 * amoBytes z)
  let s ← s.admitAccess p va 0 (amoBytes z) true true
  match if acq then s.acquireWait c.id sc true false else none with
  | some w => s.stall w
  | none =>
    let (s, x, f) := s.amoAt c.id p op z ((c.rg b).toNat % k) ((c.rg d).toNat % k) (modeOfFrm c.frm)
    let s ← s.amoAcquire c.id sc acq
    .ok (s.upd fun c => ((c.raise f).wg d (extendSize z (amoBytes z) x)).retire)

/-- An atomic that R185 allows on remote memory. -/
def amoCarried (op z : Nat) (p : BitVec 2) : Bool :=
  (decide (op = 0) || decide (op = 2)) && decide (z % 2 = 1) && decide (p = 3)

/-- The atomics (R183 to R187). -/
def State.amo (s : State) (op z : Nat) (d a b : BitVec 5) (o p : BitVec 2) : Host.Outcome State Fault Refusal :=
  s.runAround true fun s => do
    let c := s.me
    let va := c.rg a
    let sc := Scope.of p
    let acq := o.getLsbD 0
    let s ← s.prepare .store va (amoBytes z)
    match s.resolveAligned .store va (amoBytes z) with
    | .error t =>
      if t.cause = .page && decide (d = 0) then do
        let s ← if o.getLsbD 1 then s.release c.id sc true false else .ok s
        s.logAtomic op z va (c.rg b) p acq (some (t.reason, t.level))
      else s.precise t
    | .ok (s, pl) =>
      if isRemote pl.loc && !amoCarried op z p then s.precise (causeAt .perm va)
      else if s.sealed c.id.die pl then s.precise (causeAt .seal va)
      else do
        let s ← if o.getLsbD 1 then s.release c.id sc true false else .ok s
        if pl.leaf.isSome && s.logsPage c.id va then
          if d = 0 then s.logAtomic op z va (c.rg b) p acq none
          else s.stall (.covered false (va &&& ~~~(0xFFFF : Word)) (2 ^ 16))
        else if isRemote pl.loc then s.amoRemote op z sc acq pl va (c.rg b) (c.rg d) d
        else if isControl pl.loc then s.amoControl op z sc acq pl va d b
        else s.amoLocal op z sc acq pl va d b

/-- AMOADD (R184). -/
def execAmoadd (d a b : BitVec 5) (o p z : BitVec 2) (s : State) := s.amo 0 z.toNat d a b o p

/-- AMOSWAP (R184). -/
def execAmoswap (d a b : BitVec 5) (o p z : BitVec 2) (s : State) := s.amo 1 z.toNat d a b o p

/-- AMOCAS (R184). -/
def execAmocas (d a b : BitVec 5) (o p z : BitVec 2) (s : State) := s.amo 2 z.toNat d a b o p

/-- AMOMIN (R184). -/
def execAmomin (d a b : BitVec 5) (o p z : BitVec 2) (s : State) := s.amo 3 z.toNat d a b o p

/-- AMOMAX (R184). -/
def execAmomax (d a b : BitVec 5) (o p z : BitVec 2) (s : State) := s.amo 4 z.toNat d a b o p

/-- AMOAND (R184). -/
def execAmoand (d a b : BitVec 5) (o p z : BitVec 2) (s : State) := s.amo 5 z.toNat d a b o p

/-- AMOOR (R184). -/
def execAmoor (d a b : BitVec 5) (o p z : BitVec 2) (s : State) := s.amo 6 z.toNat d a b o p

/-- AMOXOR (R184). -/
def execAmoxor (d a b : BitVec 5) (o p z : BitVec 2) (s : State) := s.amo 7 z.toNat d a b o p

/-- AMOFADD (R184). -/
def execAmofadd (d a b : BitVec 5) (o p : BitVec 2) (s : State) := s.amo 8 0 d a b o p

/-- The value a load of size code z makes of n bytes (R73, R100). -/
def loadValue (z : BitVec 3) (x : Nat) : Word :=
  let n := 2 ^ (z.toNat % 4)
  if z.toNat < 4 then BitVec.ofInt 64 (sext x (8 * n)) else BitVec.ofNat 64 (zext x (8 * n))

/-- LDACQ (R188): a load through the die cache, then an acquire. -/
def execLdacq (d a : BitVec 5) (p : BitVec 2) (z : BitVec 3) (s : State) : Host.Outcome State Fault Refusal :=
  s.runAround true fun s => do
    let c := s.me
    let va := c.rg a
    let n := 2 ^ (z.toNat % 4)
    let s ← s.prepare .load va n
    match s.resolveAligned .load va n with
    | .error t => if t.cause = .page && s.logCovers c.id va n then s.stall (.covered false va n) else s.precise t
    | .ok (s, pl) =>
      if s.logCovers c.id va n then s.stall (.covered false va n)
      else do
        let s ← s.admitAccess pl va 0 n false
        let (s, bs) ← s.readPlace false false pl va 0 n
        let s ← s.acquire c.id (Scope.of p) true false
        .ok (s.upd fun c => (c.wg d (loadValue z (bytesNat bs))).retire)

/-- Whether a release store is performed at home (R275): at panel and system scope. -/
def homeStore (sc : Scope) (p : Place) : Bool := !(decide (sc = .cell) || decide (sc = .die) || isFar p.loc)

/-- A release store performed: at home at panel and system scope, where the cell's scalar copy of the line is renewed with
it (R270), else at the die (R272, R275). -/
def State.releaseStore (s : State) (sc : Scope) (p : Place) (va : Word) (data : List (Byte × Byte)) : Except Halt State :=
  if homeStore sc p then
    let id := s.me.id
    .ok ((s.writeHome id.die (some id) p data).renew id p)
  else s.storeNow false p va 0 data

/-- STREL (R188): a release, then the store, which never enters the side log. -/
def execStrel (a b : BitVec 5) (p z : BitVec 2) (s : State) : Host.Outcome State Fault Refusal :=
  s.runAround true fun s => do
    let c := s.me
    let va := c.rg a
    let n := 2 ^ z.toNat
    let s ← s.prepare .store va n
    match s.resolveAligned .store va n with
    | .error t => s.precise t
    | .ok (s, pl) =>
      if s.sealed c.id.die pl then s.precise (causeAt .seal va)
      else do
        let s ← s.release c.id (Scope.of p) true false
        let s ← s.admitAccess pl va 0 n true (homeStore (Scope.of p) pl)
        let s ← s.releaseStore (Scope.of p) pl va (whole (natBytes n (c.rg b).toNat))
        .ok s.retire

/-- FENCE (R189): closes the strip, then a release and an acquire of the named kinds. A lane thread's orders its hold
accesses, which are performed as they execute. -/
def execFence (k : BitVec 3) (p : BitVec 2) (s : State) : Host.Outcome State Fault Refusal :=
  s.run true fun s => do
    if s.me.split.on then .ok s.retire
    else
      let s ← s.close
      let id := s.me.id
      let s ← s.release id (Scope.of p) (k.getLsbD 1) (k.getLsbD 2)
      let s ← s.acquire id (Scope.of p) (k.getLsbD 1) (k.getLsbD 2)
      .ok s.retire

end Sys2Proof.Machine
end

