-- ==== Sys2Proof/Machine/Barriers.lean ====
section
/-! DEFINITION. Barrier objects, CBAR and TBAR (R191 to R196). -/

namespace Sys2Proof.Machine

/-- The cell rank of a hart (R245). -/
def State.cellRank (s : State) (c : Core) : Nat :=
  match c.crew with
  | none => 0
  | some (r, hr) => match s.crew? r with
    | none => 0
    | some k => hr % k.cells.length

/-- The barrier object a virtual address of a hart names, by cell rank and offset (R207). -/
def State.objOf (s : State) (c : Core) (va : Word) : Option ObjRef :=
  c.crewRef?.map fun r =>
    if va.toNat < 2 ^ 19 then ⟨r, s.cellRank c, va.toNat⟩
    else ⟨r, (va.toNat - 0x1000000) / 2 ^ 19, (va.toNat - 0x1000000) % 2 ^ 19⟩

/-- The place of a barrier object, with checks 1 to 3 of R195. -/
def State.objPlace (s : State) (c : Core) (va : Word) : Except TrapInfo Place :=
  let a := va.toNat
  if bits va 63 52 ≠ 0 then .error (causeAt .perm va)
  else if a % 16 ≠ 0 then .error (causeAt .align va)
  else if c.crew.isNone || !(decide (a < 2 ^ 19) || decide (0x1000000 ≤ a ∧ a < 0x3000000)) then .error (causeAt .bobj va)
  else s.resolveWindow c va 16

/-- The same with checks 4 and 5: the object's place. -/
def State.checkObject (s : State) (c : Core) (va : Word) : Except TrapInfo Place :=
  match s.objPlace c va with
  | .error t => .error t
  | .ok p =>
    let d1 := (s.objWords p.loc).2
    if !objMagic d1 || objErr d1 then .error (causeAt .bobj va) else .ok p

/-- A cause of a barrier object met by an instruction of major 0x38 (R117): BOBJ unwinds, the address causes are precise. -/
def State.objTrap {α : Type} (s : State) (t : TrapInfo) : Except Halt α :=
  if t.cause = .bobj then s.unwinding t else s.precise t

/-- A phase as a word. -/
def phaseWord (d1 : Word) : Word := if objPhase d1 then 1 else 0

/-- An instruction on the barrier object at gs1, checked, with no overlapping engine command before it. -/
def State.withObject (s : State) (a : BitVec 5) (f : State → Place → ObjRef → Word × Word → Except Halt State) :
    Except Halt State := do
  let va := s.me.rg a
  match s.checkObject s.me va, s.objOf s.me va with
  | .error t, _ => s.objTrap t
  | .ok _, none => s.objTrap (causeAt .bobj va)
  | .ok p, some o =>
    let s ← s.admitAccess p va 0 16 true
    f s p o (s.objWords p.loc)

/-- BOINIT (R193). -/
def execBoinit (a b : BitVec 5) (s : State) : Host.Outcome State Fault Refusal :=
  s.runAround false fun s => do
    let c := s.me
    let va := c.rg a
    match s.objPlace c va with
    | .error t => s.objTrap t
    | .ok p =>
      if bits (c.rg b) 63 48 ≠ 0 then s.objTrap (causeAt .bobj va)
      else
        let s ← s.admitAccess p va 0 16 true
        let s := { s with phases := s.phases.filter fun y => !decide (some y.obj = s.objOf c va) }
        .ok ((s.putObject p.loc (some c.id) (s.objWords p.loc) (c.rg b, BitVec.ofNat 64 (0xB7 * 2 ^ 56))).retire)

/-- BOEXP (R193): check 6 of R195 comes before the update. -/
def execBoexp (d a b : BitVec 5) (s : State) : Host.Outcome State Fault Refusal :=
  s.runAround false fun s => s.withObject a fun s p o (d0, d1) =>
    let c := s.me
    let x := objExpected d0 + (c.rg b).toNat
    if 2 ^ 48 ≤ x || (decide (x ≠ 0) && decide (x < objArrived d1)) then s.objTrap (causeAt .bobj (c.rg a))
    else
      let s := s.updateObject p.loc o (some c.id) (d0, d1) (objUpdate d0 d1 x (objArrived d1))
      .ok (s.upd fun c => (c.wg d (phaseWord d1)).retire)

/-- BOADD (R190, R193): a release at panel scope (log 12), then the arrival. -/
def execBoadd (d a b : BitVec 5) (s : State) : Host.Outcome State Fault Refusal :=
  s.runAround false fun s => s.withObject a fun s p o (_, d1) => do
    let c := s.me
    let s ← s.releaseKinds c.id .panel
    let s := s.arriveAt p.loc o (some c.id) (c.rg b).toNat .soft
    .ok (s.upd fun c => (c.wg d (phaseWord d1)).retire)

/-- The non-home copies of a die with bytes in some ranges. -/
def State.linesOf (s : State) (d : Nat) (ranges : List (Nat × Nat)) : List NonHome :=
  (s.die d).nonHome.filter fun x => ranges.any fun y => decide (y.1 < 64 * x.line + 64) && decide (64 * x.line < y.1 + y.2)

/-- What a returning BOWAIT or BOARR acquires (R194, R289): the bytes that the counted commands wrote, of which the die's
non-home copies are dropped; at panel scope when a BOADD, BOARR or completion was counted (log 12); and
always the cell's scalar data cache is emptied (R270). -/
def State.acquirePhase (s : State) (id : CoreId) (x : Arrivals) : Except Halt State :=
  (s.evictLines id.die (s.linesOf id.die x.wrote)).bind fun s => s.acquireKinds id (if x.software then .panel else .die)

/-- The end of a wait on a phase (R194, R195): BOBJ on an object in error; while its phase equals the token the hart waits;
then it acquires what the phase counted. -/
def State.phaseWait (s : State) (o : ObjRef) (va : Word) (token : Bool) (d : BitVec 5) : Except Halt State := do
  let c := s.me
  match s.objLoc? o with
  | none => s.stall (.phase o va token d)
  | some loc =>
    let d1 := (s.objWords loc).2
    if !objMagic d1 || objErr d1 then s.unwinding (causeAt .bobj va)
    else if objPhase d1 = token then s.stall (.phase o va token d)
    else
      match s.acquirePhase c.id (s.phaseLog o).last with
      | .error h => h.st.stall (.phase o va token d)
      | .ok s => .ok (s.upd fun c => (c.wg d (phaseWord d1)).retire)

/-- BOWAIT (R194): a fault held for the hart is raised first (R226). -/
def execBowait (d a b : BitVec 5) (s : State) : Host.Outcome State Fault Refusal :=
  s.runAround false fun s => do
    let s ← s.raiseHeld false
    s.withObject a fun s _ o _ => s.phaseWait o (s.me.rg a) ((s.me.rg b).getLsbD 0) d

/-- BOARR (R193, R194): it arrives, then waits as BOWAIT does with the phase before its arrival. -/
def execBoarr (d a b : BitVec 5) (s : State) : Host.Outcome State Fault Refusal :=
  s.runAround false fun s => do
    let s ← s.raiseHeld false
    s.withObject a fun s p o (_, d1) => do
      let c := s.me
      let s ← s.releaseKinds c.id .panel
      let s := s.arriveAt p.loc o (some c.id) (c.rg b).toNat .soft
      s.phaseWait o (c.rg a) (objPhase d1) d

/-- Whether a member is a train (R243). -/
def State.inTrain (s : State) (m : MemberId) : Bool := recTrain (s.recordOf m)

/-- The crews whose harts meet at a barrier: the crew, or every crew of the train (R196). -/
def State.barrierCrews (s : State) (r : CrewRef) (train : Bool) : List Crew :=
  match s.member? r.mem with
  | none => []
  | some m => m.crews.filter fun k => train || decide (k.ref = r)

/-- The instances a hart has reached, by hart rank: resident, or saved with its crew. -/
def State.reached (s : State) (k : Crew) (train : Bool) : List Nat :=
  (((s.hartsOf k.ref).map fun c => if train then c.tbars else c.cbars) ++
    k.stops.map fun x => if train then x.tbars else x.cbars)

/-- A hart of the crew that has halted has side-log entries which are not replayed yet. -/
def State.haltedLogs (s : State) (k : Crew) : Bool :=
  s.cells.any fun y => y.2.log.any fun e => e.crew.any fun x => decide (x.1 = k.ref) && k.halted.contains x.2

/-- Every hart that meets there has reached instance `n`, or has halted with every store of it performed (R196). -/
def State.barrierMet (s : State) (r : CrewRef) (train : Bool) (n : Nat) : Bool :=
  (s.barrierCrews r train).all fun k => ((s.reached k train).all fun x => decide (n ≤ x)) && !s.haltedLogs k

/-- The end of a wait at a barrier (R196): once it is met the hart leaves, acquiring at die or panel scope. `panel` of a
TBAR outside a train is `train` of the instruction. -/
def State.barrierWait (s : State) (train : Bool) (n : Nat) (panel : Bool) : Except Halt State := do
  let c := s.me
  match c.crewRef? with
  | none => .ok s.retire
  | some r =>
    if s.barrierMet r train n then
      match s.acquireKinds c.id (if panel then .panel else .die) with
      | .error h => h.st.stall (.barrier train n panel)
      | .ok s => .ok s.retire
    else s.stall (.barrier train n panel)

/-- CBAR and TBAR (R196): the release (log 12), the count, and the wait. -/
def State.barrier (s : State) (tbar : Bool) : Host.Outcome State Fault Refusal :=
  s.runAround false fun s => do
    let s ← s.raiseHeld false
    let c := s.me
    let train := tbar && (c.crewRef?.elim false fun r => s.inTrain r.mem)
    let s ← s.releaseKinds c.id (if tbar then .panel else .die)
    let s := s.upd fun c => if train then { c with tbars := c.tbars + 1 } else { c with cbars := c.cbars + 1 }
    s.barrierWait train (if train then c.tbars + 1 else c.cbars + 1) tbar

/-- CBAR (R196). -/
def execCbar (s : State) : Host.Outcome State Fault Refusal := s.barrier false

/-- TBAR (R196). -/
def execTbar (s : State) : Host.Outcome State Fault Refusal := s.barrier true

end Sys2Proof.Machine
end

