-- ==== Sys2Proof/Machine/VectorMemory.lean ====
section
/-! DEFINITION. Vector loads and stores: elements, mask bytes and sparse blocks (R38, R135 to R143). -/

namespace Sys2Proof.Machine

/-- One access of an instruction: its address, its bytes, the alignment translated memory asks, and its element number
with its row (R87, R136). -/
structure Access where
  va : Word
  n : Nat
  align : Nat
  elem : Nat
  deriving DecidableEq, Repr

/-- Row and element as cr.eelem has them (R29). -/
def rowElem (i e : Nat) : Nat := i * 2 ^ 16 + e

/-- The order of the address causes within one element (R87). -/
def Cause.rank : Cause → Nat
  | .align => 0
  | .straddle => 1
  | .page | .hugeabsent => 2
  | .perm => 3
  | .seal => 4
  | .illegal | .priv | .vtype | .splitmode | .brk | .svc | .owner | .sparse | .stream | .layout | .table | .bankcmd
  | .bobj | .launch | .ecc | .link | .energy => 5

/-- The cause that a list of faulting accesses in ascending order reports (R87): of the accesses of its first element the
lowest in the order of causes, and of those the first. -/
def firstCause : List TrapInfo → Option TrapInfo
  | [] => none
  | t :: ts => some ((ts.filter fun u => decide (u.elem = t.elem)).foldl
      (fun a b => if Cause.rank b.cause < Cause.rank a.cause then b else a) t)

/-- The place of one access of an instruction that resident huge pages alone serve, or its first address cause short of
SEAL. -/
def State.judge (s : State) (k : AccessKind) (x : Access) : Except TrapInfo Place :=
  match s.resolve true k x.va x.n x.align with
  | .error t => .error { t with elem := x.elem }
  | .ok (_, p) => .ok p

/-- The cause of a judged access. -/
def causeOf? : Except TrapInfo Place → Option TrapInfo
  | .error t => some t
  | .ok _ => none

/-- A load of bytes that a side-log entry of the hart covers waits for it instead of finding its page absent (R288
rule 5). -/
def State.covered (s : State) (k : AccessKind) (x : Access) : Bool := decide (k = .load) && s.logCovers s.me.id x.va x.n

/-- The places of an instruction's accesses in ascending order, or the unwinding trap of the first faulting element (R87,
R138). -/
def State.resolveAll (s : State) (k : AccessKind) (xs : List Access) : Except Halt (State × List Place) :=
  let ys := xs.map fun x => (x, s.judge k x)
  match firstCause (ys.filterMap fun y =>
      (causeOf? y.2).filter fun t => !(decide (t.cause = .hugeabsent) && s.covered k y.1)) with
  | some t => s.unwinding t
  | none =>
    match xs.find? (s.covered k) with
    | some x => s.stall (.covered false x.va x.n)
    | none => .ok (s, ys.filterMap fun y => match y.2 with | .ok p => some p | .error _ => none)

/-- The places of accesses that meet no cause. -/
def State.placesOf (s : State) (k : AccessKind) (xs : List Access) : List Place :=
  xs.filterMap fun x => match s.judge k x with | .ok p => some p | .error _ => none

/-- How strongly a page orders an access to it (R280): S, or the no-speculation bit, above R above U. A hold orders none (log 34). -/
def Place.order (p : Place) : Nat := if p.strong then 2 else if p.leaf.isSome && !p.unordered then 1 else 0

/-- The strongest of places, from `k` on. -/
def strongest (k : Nat) (ps : List Place) : Nat := ps.foldl (fun n p => Nat.max n p.order) k

/-- A page of an instruction that a stronger one orders (R280): its bytes follow the page's own row of R272, and their lines are
evicted before they are read and after they are written. -/
def Place.strict (k : Nat) (p : Place) : Bool := p.leaf.isSome && decide (p.order < k)

/-- A checkpoint around an instruction that touches an S page or a no-speculation page (R115, R137). -/
def State.aroundAny (s : State) (k : Nat) : Except Halt State :=
  if k = 2 && s.me.strips then s.checkpointAround else .ok s

/-- The core with bytes noted as read by its instruction, for when that is issued anew. -/
def Core.noteRead (c : Core) (elem loc : Nat) (bs : List Byte) : Core :=
  { c with remote := bs.zipIdx.foldl (fun t y => tblSet (c.remoteBase + accessKey elem loc + y.2) y.1 t) c.remote }

/-- One resolved load of an instruction ordered as `k`. On an S page or a no-speculation page each access is performed once and in
order, be the instruction issued anew after a wait of a later one (R277, R281). -/
def State.readOne (s : State) (k : Nat) (x : Access) (p : Place) : Except Halt (State × List Byte) :=
  match if k = 2 then s.me.answered x.elem p.loc x.n else none with
  | some bs => .ok (s, bs)
  | none => do
    let s ← s.admitAccess p x.va x.elem x.n false (p.strict k)
    let (s, bs) ← s.readPlace false (p.strict k) p x.va x.elem x.n
    .ok (if k = 2 then s.upd fun c => c.noteRead x.elem p.loc bs else s, bs)

/-- The bytes of resolved loads, in order, with the hart's own buffered stores over them (R102, R137). -/
def State.readAll (s : State) (k : Nat) : List (Access × Place) → Except Halt (State × List (List Byte))
  | [] => .ok (s, [])
  | (x, p) :: xs => do
    let (s, bs) ← s.readOne k x p
    let bs := overlay p.loc x.va s.me.strip.buf bs
    let (s, rest) ← s.readAll k xs
    .ok (s, bs :: rest)

/-- Accesses loaded as one instruction that is ordered at least as strongly as `k` (R280). -/
def State.loadIn (s : State) (k : Nat) (xs : List Access) : Except Halt (State × List (List Byte)) := do
  let k := strongest k (s.placesOf .load xs)
  let s ← s.aroundAny k
  let (s, ps) ← s.resolveAll .load xs
  s.readAll k (xs.zip ps)

/-- Accesses loaded as one instruction. -/
def State.loadAll (s : State) (xs : List Access) : Except Halt (State × List (List Byte)) := s.loadIn 0 xs

/-- The key under which an instruction notes how strongly the pages order it that it has met so far. -/
def orderKey : Nat := 2 ^ 92

/-- How strongly. -/
def Core.orderMet (c : Core) : Nat := (tblGet? (c.remoteBase + orderKey) c.remote).elim 0 BitVec.toNat

/-- Some accesses of an instruction that finds its later ones as it goes. -/
def State.loadNext (s : State) (xs : List Access) : Except Halt (State × List (List Byte)) :=
  let k := strongest s.me.orderMet (s.placesOf .load xs)
  let s := if k = s.me.orderMet then s
    else s.upd fun c => { c with remote := tblSet (c.remoteBase + orderKey) (BitVec.ofNat 8 k) c.remote }
  s.loadIn k xs

/-- The state in which something ends. -/
def endState {α : Type} : Except Halt (State × α) → State
  | .ok x => x.1
  | .error h => h.st

/-- An instruction that finds its accesses as it goes, with each of them ordered as the strongest page that it meets (R280): where
it meets a stronger one than before, it is taken from its start. -/
def State.asStrongest {α : Type} (s : State) (f : State → Except Halt (State × α)) : Except Halt (State × α) :=
  let from_ (k : Nat) : State := s.upd fun c => { c with remote := tblSet (c.remoteBase + orderKey) (BitVec.ofNat 8 k) c.remote }
  let r := f s
  let k := (endState r).me.orderMet
  if k ≤ s.me.orderMet then r
  else
    let r := f (from_ k)
    if (endState r).me.orderMet ≤ k then r else f (from_ 2)

/-- A store of an instruction: its access, its place and its masked bytes. -/
abbrev Stored := Access × Place × List (Byte × Byte)

/-- Every store of an instruction can be performed or buffered now: none of them is while one must wait. -/
def State.admitAll (s : State) (k : Nat) : List Stored → Except Halt State
  | [] => .ok s
  | (x, p, _) :: xs => do
    let s ← s.admitAccess p x.va x.elem x.n true (p.strict k)
    s.admitAll k xs

/-- Stores performed as they execute, in ascending order (R137). One that has been performed is not performed again when
the instruction is issued anew after a wait for remote memory. -/
def State.storeEach (s : State) (k : Nat) : List Stored → Except Halt State
  | [] => .ok s
  | (x, p, data) :: xs => do
    let s ← if s.me.acked x.elem p.loc then .ok s
      else (s.storeNow (p.strict k) p x.va x.elem data).map fun s => s.upd fun c => c.noteDone x.elem p.loc
    s.storeEach k xs

/-- An unbuffered instruction's stores, once none of them must wait for a command or a home (R137). -/
def State.storeNowAll (s : State) (k : Nat) (xs : List Stored) : Except Halt State := do
  let s ← s.admitAll k xs
  s.storeEach k xs

/-- Stores that join the strip's buffer, in ascending order (R137). -/
def State.bufferAll (s : State) (k : Nat) (first : Bool) : List Stored → State
  | [] => s
  | (x, p, data) :: xs =>
    (s.upd fun c => { c with strip := { c.strip with
      buf := c.strip.buf ++ [⟨x.va, c.pc, x.elem, p.loc, p.leaf, data, none, first, p.strict k⟩] } }).bufferAll k false xs

/-- Whether an instruction's stores are performed unbuffered (R104, R137, R362): one touches an S page or a page with the
no-speculation bit, they are more than 16 KiB, or the core has no strips. -/
def State.unbuffered (s : State) (size : Nat) (ys : List (Except TrapInfo Place)) : Bool :=
  decide (bufferBits < size) || !s.me.strips || ys.any fun y => match y with | .ok p => p.strong | .error _ => false

/-- The causes of an instruction's stores in ascending order (R87): SEAL is met by an unbuffered store as it executes, by a
buffered one when its strip closes (R235). -/
def State.storeCauses (s : State) (unbuffered : Bool) (ys : List (Access × Except TrapInfo Place)) : List TrapInfo :=
  ys.filterMap fun y =>
    match y.2 with
    | .error t => some t
    | .ok p =>
      if unbuffered && s.sealed s.me.id.die p && !(p.leaf.isSome && s.logsPage s.me.id y.1.va)
        && !s.me.acked y.1.elem p.loc then
        some { cause := .seal, addr := y.1.va, elem := y.1.elem }
      else none

/-- Whether the stores of an instruction are unbuffered. -/
def State.storesNow (s : State) (xs : List (Access × List (Byte × Byte))) : Bool :=
  s.unbuffered (xs.foldl (fun n x => n + maskBits x.2) 0) (xs.map fun x => s.judge .store x.1)

/-- The cause that the stores of an instruction report, if any (R87). -/
def State.storeFault (s : State) (xs : List (Access × List (Byte × Byte))) : Option TrapInfo :=
  firstCause (s.storeCauses (s.storesNow xs) (xs.map fun x => (x.1, s.judge .store x.1)))

/-- The checkpoint around an instruction whose stores are unbuffered, before any of them is judged (R137, R235). -/
def State.storesBegin (s : State) (xs : List (Access × List (Byte × Byte))) : Except Halt State :=
  if s.storesNow xs && s.me.strips then s.checkpointAround else .ok s

/-- Accesses stored as one instruction (R137): buffered, with a checkpoint at it when the buffer would overflow, or
unbuffered around it; no byte is written if any element fails. -/
def State.storeAll (s : State) (xs : List (Access × List (Byte × Byte))) : Except Halt State := do
  let s ← s.storesBegin xs
  match s.storeFault xs with
  | some t => s.unwinding t
  | none =>
    let ps := s.placesOf .store (xs.map Prod.fst)
    let k := strongest 0 ps
    let zs : List Stored := (xs.zip ps).map fun x => (x.1.1, x.2, x.1.2)
    if s.storesNow xs then s.storeNowAll k zs
    else
      let s ← if bufferBits < s.me.strip.bits + xs.foldl (fun n x => n + maskBits x.2) 0 then s.checkpoint else .ok s
      let s ← s.admitAll k zs
      .ok (s.bufferAll k true zs)

/-- The access of a packed element that starts `bit` bits from an address (R38, R136). -/
def packedAccess (w : Nat) (base : Word) (bit elem : Nat) : Access :=
  ⟨base + BitVec.ofNat 64 (bit / 8), max 1 (w / 8), max 1 (w / 8), elem⟩

/-- An element's value in the bytes read for it. -/
def packedValue (w bit : Nat) (bs : List Byte) : Nat := bytesNat bs / 2 ^ (bit % 8) % 2 ^ w

/-- The masked bytes that store an element. -/
def packedData (w bit x : Nat) : List (Byte × Byte) :=
  if 8 ≤ w then whole (natBytes (w / 8) x)
  else [(BitVec.ofNat 8 (x * 2 ^ (bit % 8)), BitVec.ofNat 8 ((2 ^ w - 1) * 2 ^ (bit % 8)))]

/-- How a vector memory instruction finds element e of row i: a base address and a bit offset (R135). -/
inductive Addressing where
  | packed (off : BitVec 6)
  | strided (r : BitVec 5)
  | indexed (x : BitVec 6)
  deriving DecidableEq, Repr

/-- Width and grouping of the index operand (R135). -/
def Core.indexWidth (c : Core) : Nat := if c.w ≤ 32 then 32 else 64
def Core.indexGroup (c : Core) : Nat := if c.w ≤ 32 then c.grp * 32 / c.w else c.grp

/-- B + off (R80). -/
def Core.packedBase (c : Core) (b : BitVec 5) (off : BitVec 6) : Word := c.rg b + BitVec.ofInt 64 (off.toInt * 64)

/-- Base address and bit offset of an element (R135). -/
def Core.elemAddress (c : Core) (b : BitVec 5) (k : Addressing) (i e : Nat) : Word × Nat :=
  match k with
  | .packed off => (c.packedBase b off, (i * c.vln + e) * c.w)
  | .strided r => (c.rg b + BitVec.ofNat 64 i * c.rg r, e * c.w)
  | .indexed x => (c.rg b + BitVec.ofNat 64 (c.elem x.toNat c.indexGroup c.indexWidth i e), 0)

/-- The access of an element. -/
def Core.elemAccess (c : Core) (b : BitVec 5) (k : Addressing) (x : Nat × Nat) : Access :=
  let (a, bit) := c.elemAddress b k x.1 x.2
  packedAccess c.w a bit (rowElem x.1 x.2)

/-- The index operand meets R14, and indexed forms take w ≥ 8 (R129, R135). -/
def Addressing.ok (k : Addressing) (c : Core) : Bool :=
  match k with
  | .packed _ => true
  | .strided _ => true
  | .indexed x => decide (8 ≤ c.w) && fits x.toNat c.indexGroup c.rcn

/-- The parts of registers of the index operand. -/
def Addressing.regs (k : Addressing) (m : BitVec 4) (c : Core) : Tbl Nat :=
  match k with
  | .packed _ => []
  | .strided _ => []
  | .indexed x => c.actRegs m false x.toNat c.indexGroup c.indexWidth

/-- The end of a vector memory instruction: its debug entry, with the addresses of its lowest and highest active
elements (R397), and the next instruction. -/
def State.endMemory (s : State) (active : Nat) (xs : List Access) : State :=
  s.upd fun c => (c.ring c.pc active (match xs.head? with | some x => x.va | none => 0)
    (match xs.getLast? with | some x => x.va | none => 0)).retire

/-- A vector memory instruction: its checks at issue, the gate, R116, and with VL > 0 its accesses (R15, R22). -/
def State.vectorMemory (s : State) (ok : Core → Bool) (rd wr : Core → Tbl Nat) (m : BitVec 4)
    (f : State → Core → Except Halt (State × List Access)) : Host.Outcome State Fault Refusal :=
  s.run false fun s => do
    let c := s.me
    if c.ill || !ok c then s.vtypeTrap
    else
      let s ← s.gate (c.vln * c.rcn * 2)
      let s ← s.touch (rd c ++ c.gateRegs m) (wr c)
      if c.vln = 0 then .ok (s.endMemory 0 [])
      else
        let (s, xs) ← f s s.me
        .ok ((s.noteReads (rd c ++ c.gateRegs m)).endMemory (c.active m false).length xs)

/-- The values of loaded elements written to a destination. -/
def Core.putLoaded (c : Core) (v : BitVec 6) (b : BitVec 5) (k : Addressing) (c0 : Core) :
    List ((Nat × Nat) × List Byte) → Core
  | [] => c
  | (x, bs) :: rest =>
    (c.setElem v.toNat c.grp c.w x.1 x.2 (packedValue c.w (c0.elemAddress b k x.1 x.2).2 bs)).putLoaded v b k c0 rest

/-- VLD, VLDS and VLDX (R135): every active element is read, then written. -/
def State.vLoad (s : State) (v : BitVec 6) (b : BitVec 5) (k : Addressing) (m : BitVec 4) :
    Host.Outcome State Fault Refusal :=
  s.vectorMemory (fun c => fits v.toNat c.grp c.rcn && k.ok c) (k.regs m) (fun c => c.actRegs m false v.toNat c.grp c.w) m
    fun s c => do
      let es := c.active m false
      let xs := es.map (c.elemAccess b k)
      let (s, vs) ← s.loadAll xs
      .ok (s.upd fun k' => k'.putLoaded v b k c (es.zip vs), xs)

/-- VST, VSTS and VSTX (R135). -/
def State.vStore (s : State) (v : BitVec 6) (b : BitVec 5) (k : Addressing) (m : BitVec 4) :
    Host.Outcome State Fault Refusal :=
  s.vectorMemory (fun c => fits v.toNat c.grp c.rcn && k.ok c)
    (fun c => c.actRegs m false v.toNat c.grp c.w ++ k.regs m c) (fun _ => []) m
    fun s c => do
      let xs := (c.active m false).map fun x =>
        (c.elemAccess b k x, packedData c.w (c.elemAddress b k x.1 x.2).2 (c.elem v.toNat c.grp c.w x.1 x.2))
      let s ← s.storeAll xs
      .ok (s, xs.map fun x => x.1)

/-- VLD (R135). -/
def execVld (v : BitVec 6) (b : BitVec 5) (o : BitVec 6) (m : BitVec 4) (s : State) := s.vLoad v b (.packed o) m

/-- VLDS (R135). -/
def execVlds (v : BitVec 6) (b r : BitVec 5) (m : BitVec 4) (s : State) := s.vLoad v b (.strided r) m

/-- VLDX (R135). -/
def execVldx (v : BitVec 6) (b : BitVec 5) (x : BitVec 6) (_ : BitVec 1) (m : BitVec 4) (s : State) :=
  s.vLoad v b (.indexed x) m

/-- VST (R135). -/
def execVst (v : BitVec 6) (b : BitVec 5) (o : BitVec 6) (_ : BitVec 1) (m : BitVec 4) (s : State) :=
  s.vStore v b (.packed o) m

/-- VSTS (R135). -/
def execVsts (v : BitVec 6) (b r : BitVec 5) (_ : BitVec 1) (m : BitVec 4) (s : State) := s.vStore v b (.strided r) m

/-- VSTX (R135). -/
def execVstx (v : BitVec 6) (b : BitVec 5) (x : BitVec 6) (_ : BitVec 1) (m : BitVec 4) (s : State) :=
  s.vStore v b (.indexed x) m

/-- Whether VLDF stops before an access (R139): an address cause, or a page with the no-speculation bit. -/
def State.stopsBefore (s : State) (x : Access) : Bool :=
  match s.judge .load x with
  | .error _ => true
  | .ok p => p.noSpec

/-- The active elements that VLDF loads, and the element it shortens VL to, if any (R139). -/
def State.faultFirst (s : State) (c : Core) (b : BitVec 5) (o : BitVec 6) (m : BitVec 4) :
    List (Nat × Nat) × Option Nat :=
  let es := c.active m false
  match es with
  | [] => ([], none)
  | _ :: rest =>
    match rest.find? fun x => s.stopsBefore (c.elemAccess b (.packed o) x) with
    | none => (es, none)
    | some y =>
      if es.head?.any fun x => s.stopsBefore (c.elemAccess b (.packed o) x) then (es, none)
      else (es.filter fun x => decide (x.2 < y.2), some y.2)

/-- VLDF (R139): as VLD, but a cause above the lowest active element shortens VL and is reported in cr.eelem. -/
def execVldf (v : BitVec 6) (b : BitVec 5) (o : BitVec 6) (m : BitVec 4) (s : State) :=
  s.vectorMemory (fun c => fits v.toNat c.grp c.rcn && decide (c.rcn = 1)) (fun _ => [])
    (fun c => c.actRegs m false v.toNat c.grp c.w) m
    fun s c => do
      let (es, short) := s.faultFirst c b o m
      let xs := es.map (c.elemAccess b (.packed o))
      let (s, vs) ← s.loadAll xs
      .ok (s.upd fun k =>
        let k := k.putLoaded v b (.packed o) c (es.zip vs)
        match short with
        | none => k
        | some e => { k with vl := BitVec.ofNat 10 e, eelem := BitVec.ofNat 19 e }, xs)

/-- Bytes of one row of a mask in memory (R140). -/
def Core.maskBytes (c : Core) : Nat := (c.vln * c.sigma + 7) / 8

/-- The byte accesses of VLDM and VSTM: row i at B + off + 64·i, numbered by byte (R135, R136). -/
def Core.maskAccesses (c : Core) (b : BitVec 5) (o : BitVec 6) : List ((Nat × Nat) × Access) :=
  (List.range c.rcn).flatMap fun i => (List.range c.maskBytes).map fun j =>
    ((i, j), ⟨c.packedBase b o + BitVec.ofNat 64 (64 * i + j), 1, 1, rowElem i j⟩)

/-- VLDM (R140): bits 0 to VL·σ − 1 of each row. -/
def execVldm (v : BitVec 6) (b : BitVec 5) (o : BitVec 6) (s : State) :=
  s.vectorMemory (fun c => fitsMask v.toNat c.rcn) (fun _ => []) (fun c => c.maskRegs v.toNat) 0
    fun s c => do
      let ys := c.maskAccesses b o
      let (s, vs) ← s.loadAll (ys.map fun y => y.2)
      let row (i : Nat) : Nat := bytesNat (((ys.zip vs).filter fun z => decide (z.1.1.1 = i)).flatMap fun z => z.2)
      .ok (s.upd fun k => (List.range c.rcn).foldl (fun k i =>
        k.setM (v.toNat + i) (putBits (c.mreg (v.toNat + i)) 0 (c.vln * c.sigma) (row i))) k, ys.map fun y => y.2)

/-- VSTM (R140): whole bytes, as the register holds them. -/
def execVstm (v : BitVec 6) (b : BitVec 5) (o : BitVec 6) (s : State) :=
  s.vectorMemory (fun c => fitsMask v.toNat c.rcn) (fun c => c.maskRegs v.toNat) (fun _ => []) 0
    fun s c => do
      let ys := c.maskAccesses b o
      let s ← s.storeAll (ys.map fun y =>
        (y.2, [(BitVec.ofNat 8 (getBits (c.mreg (v.toNat + y.1.1)) (8 * y.1.2) 8), 0xFF)]))
      .ok (s, ys.map fun y => y.2)

/-- Bytes of the bitmask of a sparse block (R141). -/
def maskWords (vl : Nat) : Nat := (vl + 63) / 64

/-- The size of a sparse block with k stored values (R141). -/
def blockSize (vl w k : Nat) : Nat := 8 + 8 * maskWords vl + 8 * ((k * w + 63) / 64)

/-- The elements of a row that VSTZ stores: active and not all zero bits (R142). -/
def Core.stored (c : Core) (v : BitVec 6) (m : BitVec 4) (i : Nat) : List Nat :=
  (List.range c.vln).filter fun e => c.gateOn m false i e && decide (c.elem v.toNat c.grp c.w i e ≠ 0)

/-- Elements packed in ascending order, as one number (R38). -/
def packNumber (w : Nat) : List Nat → Nat
  | [] => 0
  | x :: xs => x + 2 ^ w * packNumber w xs

/-- A row's sparse block as 8-byte words (R141). -/
def Core.block (c : Core) (v : BitVec 6) (m : BitVec 4) (i : Nat) : List Word :=
  let es := c.stored v m i
  let size := blockSize c.vln c.w es.length
  let mask := es.foldl (fun x e => x + 2 ^ e) 0
  let vals := packNumber c.w (es.map fun e => c.elem v.toNat c.grp c.w i e)
  BitVec.ofNat 64 (size + c.vln * 2 ^ 32 + es.length * 2 ^ 48)
    :: ((List.range (maskWords c.vln)).map fun j => BitVec.ofNat 64 (mask / 2 ^ (64 * j)))
    ++ (List.range ((es.length * c.w + 63) / 64)).map fun j => BitVec.ofNat 64 (vals / 2 ^ (64 * j))

/-- The word accesses of blocks laid one after another, numbered by row and word (R136, R141). -/
def blockAccesses (base : Word) : Nat → List (List Word) → List (Access × List (Byte × Byte))
  | _, [] => []
  | i, ws :: rest =>
    (ws.zipIdx.map fun x => (⟨base + BitVec.ofNat 64 (8 * x.2), 8, 8, rowElem i x.2⟩, whole (wordBytes64 x.1)))
      ++ blockAccesses (base + BitVec.ofNat 64 (8 * ws.length)) (i + 1) rest

/-- The first row whose block does not lie within a capacity, counting from row i with `used` bytes before it. -/
def firstOver (cap : Nat) : Nat → Nat → List Nat → Nat
  | i, _, [] => i
  | i, used, n :: ns => if cap < used + n then i else firstOver cap (i + 1) (used + n) ns

/-- VSTZ (R141, R142): SPARSE follows every address cause of its blocks, and then nothing is stored. -/
def execVstz (v : BitVec 6) (b r : BitVec 5) (_ : BitVec 1) (m : BitVec 4) (s : State) :=
  s.vectorMemory (fun c => fits v.toNat c.grp c.rcn) (fun c => c.actRegs m false v.toNat c.grp c.w) (fun _ => []) m
    fun s c => do
      let blocks := (List.range c.rcn).map (c.block v m)
      let sizes := blocks.map fun ws => 8 * ws.length
      let need := sizes.foldl (fun x y => x + y) 0
      let xs := blockAccesses (c.rg b) 0 blocks
      let cap := (c.rg r).toNat
      let s ← s.storesBegin xs
      if cap < need then
        s.unwinding ((s.storeFault xs).getD
          { cause := .sparse, addr := c.rg b + BitVec.ofNat 64 need, elem := rowElem (firstOver cap 0 0 sizes) 0 })
      else
        let s ← s.storeAll xs
        .ok (s, xs.map fun x => x.1)

/-- One word of a block loaded. -/
def State.loadWord (s : State) (x : Access) : Except Halt (State × Word) := do
  let (s, vs) ← s.loadNext [x]
  .ok (s, bytesWord (vs.headD []))

/-- Words of a block loaded in ascending order. -/
def State.loadWords (s : State) : List Access → Except Halt (State × List Word)
  | [] => .ok (s, [])
  | x :: xs => do
    let (s, w) ← s.loadWord x
    let (s, ws) ← s.loadWords xs
    .ok (s, w :: ws)

/-- Words as one number, least significant first. -/
def wordsNat : List Word → Nat
  | [] => 0
  | w :: ws => w.toNat + 2 ^ 64 * wordsNat ws

/-- The elements of a row from a checked block: the next packed value where the bitmask has a one, else +0 (R143). -/
def expand (w mask : Nat) (vals : Nat) (e : Nat) : Nat :=
  if mask / 2 ^ e % 2 = 1 then
    vals / 2 ^ (w * ((List.range e).countP fun j => mask / 2 ^ j % 2 = 1)) % 2 ^ w
  else 0

/-- The blocks of rows i on, read and checked row by row (R143): the bitmask and values of each, and its accesses. -/
def State.readBlocks (s : State) (c : Core) (cap : Nat) (base : Word) (used i : Nat) :
    Nat → Except Halt (State × List (Nat × Nat) × List Access)
  | 0 => .ok (s, [], [])
  | rows + 1 => do
    let at_ (j : Nat) : Access := ⟨base + BitVec.ofNat 64 (8 * j), 8, 8, rowElem i j⟩
    let bad (s : State) : Except Halt (State × List (Nat × Nat) × List Access) :=
      s.unwinding { cause := .sparse, addr := base, elem := rowElem i 0 }
    let (s, h) ← s.loadWord (at_ 0)
    let size := bits h 31 0
    let k := bits h 63 48
    if size ≠ blockSize c.vln c.w k || bits h 47 32 ≠ c.vln || cap < used + size then bad s
    else
      let n := size / 8
      let others := (List.range (n - 1)).map fun j => at_ (j + 1)
      let (s, ws) ← s.loadWords others
      let mask := wordsNat (ws.take (maskWords c.vln))
      let vals := wordsNat (ws.drop (maskWords c.vln))
      if 2 ^ c.vln ≤ mask || (List.range c.vln).countP (fun j => mask / 2 ^ j % 2 = 1) ≠ k then bad s
      else
        let (s, rest, xs) ← s.readBlocks c cap (base + BitVec.ofNat 64 size) (used + size) (i + 1) rows
        .ok (s, (mask, vals) :: rest, at_ 0 :: others ++ xs)

/-- VLDZ (R143). -/
def execVldz (v : BitVec 6) (b r : BitVec 5) (m : BitVec 4) (s : State) :=
  s.vectorMemory (fun c => fits v.toNat c.grp c.rcn) (fun _ => []) (fun c => c.actRegs m false v.toNat c.grp c.w) m
    fun s c => do
      let (s, blocks, xs) ← s.asStrongest fun s => s.readBlocks c (c.rg r).toNat (c.rg b) 0 0 c.rcn
      .ok (s.upd fun k => k.writeElems v.toNat c.grp c.w (c.active m false) fun i e =>
        let (mask, vals) := blocks[i]?.getD (0, 0)
        (expand c.w mask vals e, 0), xs)

end Sys2Proof.Machine
end

