-- ==== Sys2Proof/Machine/Streams.lean ====
section
/-! DEFINITION. The stream engine: issue of SCOPY, SFILL, SGATH and SSCAT, and the performance of their elements
(R197 to R203, R236, R416). -/

namespace Sys2Proof.Machine

/-- A structure of R416 that must lie in the hold-local window, at a multiple of `align`. -/
def localStruct (va : Word) (align : Nat) : Option TrapInfo :=
  if bits va 63 52 ≠ 0 then some (causeAt .perm va)
  else if va.toNat % align ≠ 0 then some (causeAt .align va)
  else if 2 ^ 19 ≤ va.toNat then some (causeAt .perm va)
  else none

/-- An unwinding trap if there is a cause. -/
def State.trapIf (s : State) (t : Option TrapInfo) : Except Halt State :=
  match t with
  | some t => s.unwinding t
  | none => .ok s

/-- A check's first cause, if it found one, as an unwinding trap. -/
def State.orTrap {α : Type} (s : State) : Except TrapInfo α → Except Halt α
  | .ok x => .ok x
  | .error t => s.unwinding t

/-- Doublewords of a structure, read as elements numbered from `first` (R136). -/
def State.readDwords (s : State) (va : Word) (first n : Nat) : Except Halt (State × List Word) :=
  (s.loadAll ((List.range n).map fun j => ⟨va + BitVec.ofNat 64 (8 * j), 8, 8, first + j⟩)).map fun x =>
    (x.1, x.2.map bytesWord)

/-- The barrier object that an engine command names, checked last (R203, R240): none for `g0`. Its causes unwind. -/
def State.commandObject (s : State) (b : BitVec 5) : Except Halt (Option ObjRef) :=
  if b = 0 then .ok none
  else
    match s.checkObject s.me (s.me.rg b) with
    | .error t => s.unwinding t
    | .ok _ => .ok (s.objOf s.me (s.me.rg b))

/-- A dimension of a shape block: count, source stride, destination stride (R198). -/
def shapeDims (ws : List Word) (n : Nat) : List (Nat × Int × Int) :=
  (List.range n).map fun d =>
    (bits (dwAt ws (3 + 3 * d)) 31 0, (dwAt ws (4 + 3 * d)).toInt, (dwAt ws (5 + 3 * d)).toInt)

/-- Elements of a shape. -/
def shapeCount (dims : List (Nat × Int × Int)) : Nat := dims.foldl (fun n d => n * d.1) 1

/-- The first faulty doubleword of a shape block whose D is in range (R198, R203): reserved bits, a count that takes the
bytes to 2^48, or a source stride of SFILL. -/
def shapeFault (fill : Bool) (ws : List Word) (elog n : Nat) : Option Nat :=
  let dims := shapeDims ws n
  let big := decide (2 ^ 48 ≤ 2 ^ elog * shapeCount dims)
  (List.range (3 * n)).findSome? fun k =>
    let w := dwAt ws (3 + k)
    let tooBig : Bool := big && decide (2 ^ 48 ≤ 2 ^ elog * shapeCount (dims.take (k / 3 + 1)))
    if (decide (k % 3 = 0) && (decide (bits w 63 32 ≠ 0) || tooBig)) || (fill && decide (k % 3 = 1) && decide (w ≠ 0)) then
      some (3 + k)
    else none

/-- The number of an element as cr.eelem has it (R203). -/
def elemNumber (i : Nat) : Nat := i % 2 ^ 16

/-- The cause of one address of an element at issue, as load or store (R199): a mailbox row traps PERM, and SEAL follows the
other causes. -/
def State.elemCause (s : State) (k : AccessKind) (va : Word) (n i : Nat) : Option TrapInfo :=
  match s.judge k ⟨va, n, n, elemNumber i⟩ with
  | .error t => some t
  | .ok p =>
    if k = .load && isMailbox p.loc then some { cause := .perm, addr := va, elem := elemNumber i }
    else if k = .store && s.sealed s.me.id.die p then some { cause := .seal, addr := va, elem := elemNumber i }
    else none

/-- The causes of one element in the order of R87; a source that a side-log entry of the hart covers waits for it instead of
finding its page absent (R288 rule 5). -/
def State.elemCheck (s : State) (src : Option Access) (causes : List TrapInfo) : Except Halt State :=
  let waits := src.filter fun x => s.covered .load x
  match firstCause (causes.filter fun t => !(waits.isSome && decide (t.cause = .hugeabsent))), waits with
  | some t, _ => s.unwinding t
  | none, some x => s.stall (.covered false x.va x.n)
  | none, none => .ok s

/-- The addresses of a command's elements from i on, in ascending index (R203). -/
def State.checkElems (s : State) (x : StreamCmd) (fill : Bool) (i : Nat) : Nat → Except Halt State
  | 0 => .ok s
  | n + 1 => do
    let (src, dst) := x.element i
    let k := 2 ^ x.elog
    let s ← s.elemCheck (if fill then none else some ⟨src, k, k, elemNumber i⟩)
      ((if fill then [] else (s.elemCause .load src k i).toList) ++ (s.elemCause .store dst k i).toList)
    s.checkElems x fill (i + 1) n

/-- The hart rank of a hart. -/
def Core.hartRank (c : Core) : Nat := match c.crew with | some (_, hr) => hr | none => 0

/-- A stream command of the core whose turn it is, not yet queued. -/
def State.newStream (s : State) (elog total : Nat) (work : StreamWork) : StreamCmd :=
  let c := s.me
  ⟨s.nextId, c.hartRank, c.crewRef?.getD ⟨⟨0, 0, 0⟩, 0⟩, s.cellRank c, c.curPc, none, elog, work, 0, total, [], [], false⟩

/-- The command enters its cell's queue with its object, once there is room; gd receives its byte count (R197). -/
def State.queueStream (s : State) (x : StreamCmd) (op : Nat) (d a b : BitVec 5) : Except Halt State := do
  let o ← s.commandObject b
  let key := s.me.id.cell
  if 16 ≤ (s.cell key).queue.length then s.stall (.engine op d a b)
  else
    let s := { s with nextId := s.nextId + 1 }.modCell key fun y => { y with queue := y.queue ++ [{ x with obj := o }] }
    .ok (s.upd fun c => (c.wg d (BitVec.ofNat 64 (2 ^ x.elog * x.total))).retire)

/-- LAYOUT of a stream command (R203). -/
def State.streamLayout {α : Type} (s : State) (va : Word) (dw : Nat) : Except Halt α :=
  s.unwinding { cause := .layout, addr := va, elem := dw }

/-- SCOPY and SFILL at issue (R198, R199, R203). -/
def State.issueShape (s : State) (fill : Bool) (op : Nat) (d a b : BitVec 5) : Except Halt State := do
  let va := s.me.rg a
  let s ← s.trapIf (localStruct va 8)
  let (s, head) ← s.readDwords va 0 3
  let w := dwAt head 2
  let n := bits w 3 0
  let elog := bits w 7 4
  let (s, tail) ← s.readDwords (va + 24) 3 (if n ≤ 8 then 3 * n else 0)
  let ws := head ++ tail
  if bits w 63 8 ≠ 0 || n = 0 || 8 < n || 3 < elog then s.streamLayout va 2
  else
    match shapeFault fill ws elog n with
    | some k => s.streamLayout va k
    | none =>
      let dims := shapeDims ws n
      let x := s.newStream elog (shapeCount dims) (.shape fill (dwAt ws 0) (dwAt ws 1) dims)
      let s ← s.checkElems x fill 0 x.total
      s.queueStream x op d a b

/-- The cause of a gather target (R200): PERM for a rank at or beyond the crew's cells, bits above it (log 18), or an offset beyond the
cell's hold bytes. -/
def State.targetCause (s : State) (va : Word) (e n i : Nat) : Option TrapInfo :=
  let cells := (s.me.crewRef?.bind s.crew?).elim 0 fun k => k.cells.length
  if cells ≤ e / 2 ^ 19 || decide (s.me.holdsize.toNat < e % 2 ^ 19 + n) then
    some { cause := .perm, addr := va, elem := elemNumber i }
  else none

/-- The cause of a packed element of a gather block, which must lie in a hold window (R200). -/
def State.packedCause (s : State) (k : AccessKind) (va : Word) (n i : Nat) : Option TrapInfo :=
  if 2 ^ 32 ≤ va.toNat then some { cause := .perm, addr := va, elem := elemNumber i } else s.elemCause k va n i

/-- The elements a gather block selects from i on, with `n` to go (R200): each one's index entry is read from the array,
and its mask bit, as it is reached, before its packed address (log 18). -/
def State.gatherElems (s : State) (x : StreamCmd) (scatter all : Bool) (idx msk : Word) (i : Nat) (sel : List (Nat × Nat × Nat)) :
    Nat → Except Halt (State × List (Nat × Nat × Nat))
  | 0 => .ok (s, sel)
  | n + 1 => do
    let ma := msk + BitVec.ofNat 64 (i / 8)
    let (s, bs) ← if all then .ok (s, [[(0xFF : Byte)]]) else s.loadAll [⟨ma, 1, 1, elemNumber i⟩]
    if !(BitVec.ofNat 8 (bytesNat bs.flatten)).getLsbD (i % 8) then s.gatherElems x scatter all idx msk (i + 1) sel n
    else
      let (s, es) ← s.loadAll [⟨idx + BitVec.ofNat 64 (4 * i), 4, 4, elemNumber i⟩]
      let e := bytesNat es.flatten
      let t := (i, e / 2 ^ 19, e % 2 ^ 19)
      let k := 2 ^ x.elog
      let base := match x.work with | .shape _ _ _ _ => 0 | .crewwide _ base _ => base
      let (src, dst) := { x with work := .crewwide scatter base [t] }.element 0
      let s ← s.elemCheck none (if scatter then (s.packedCause .load src k i).toList ++ (s.targetCause dst e k i).toList
        else (s.targetCause src e k i).toList ++ (s.packedCause .store dst k i).toList)
      s.gatherElems x scatter all idx msk (i + 1) (sel ++ [t]) n

/-- The causes of the element mask and the index array as structures, judged at their first elements (R416). -/
def gatherStructs (all : Bool) (idx msk : Word) (n : Nat) : Option TrapInfo :=
  if n = 0 then none
  else
    match if all then none else localStruct msk 1 with
    | some t => some t
    | none => localStruct idx 1

/-- SGATH and SSCAT at issue (R200, R203). -/
def State.issueGather (s : State) (scatter : Bool) (op : Nat) (d a b : BitVec 5) : Except Halt State := do
  let va := s.me.rg a
  let s ← s.trapIf (localStruct va 8)
  let (s, ws) ← s.readDwords va 0 4
  let w := dwAt ws 3
  if bits w 63 25 ≠ 0 || bits w 23 18 ≠ 0 then s.streamLayout va 3
  else
    let n := bits w 15 0
    let base := dwAt ws 0
    let x := s.newStream (bits w 17 16) 0 (.crewwide scatter base [])
    let s ← s.trapIf (gatherStructs (bit w 24) (dwAt ws 1) (dwAt ws 2) n)
    let (s, sel) ← s.gatherElems x scatter (bit w 24) (dwAt ws 1) (dwAt ws 2) 0 [] n
    s.queueStream { x with work := .crewwide scatter base sel, total := sel.length } op d a b

/-- A stream instruction by its op (R84, R197), as it also runs again when its queue has room: past the gate, which charges it
nothing (R252). A held seal refusal is raised first (R236). -/
def State.issueStream (s : State) (op : Nat) (d a b : BitVec 5) : Except Halt State := do
  let s ← s.gate 0
  let s ← s.checkpointAround
  let s ← s.raiseHeld true
  match op with
  | 0 => s.issueShape false 0 d a b
  | 1 => s.issueShape true 1 d a b
  | 2 => s.issueGather false 2 d a b
  | _ => s.issueGather true 3 d a b

/-- SCOPY (R199). -/
def execScopy (d a b : BitVec 5) (s : State) : Host.Outcome State Fault Refusal := s.run false fun s => s.issueStream 0 d a b

/-- SFILL (R199). -/
def execSfill (d a b : BitVec 5) (s : State) : Host.Outcome State Fault Refusal := s.run false fun s => s.issueStream 1 d a b

/-- SGATH (R200). -/
def execSgath (d a b : BitVec 5) (s : State) : Host.Outcome State Fault Refusal := s.run false fun s => s.issueStream 2 d a b

/-- SSCAT (R200). -/
def execSscat (d a b : BitVec 5) (s : State) : Host.Outcome State Fault Refusal := s.run false fun s => s.issueStream 3 d a b

/-- The hart of a crew with a rank, if it has not halted. -/
def State.hartOf (s : State) (r : CrewRef) (hr : Nat) : Option Core := s.cores.find? fun c => decide (c.crew = some (r, hr))

/-- A fault held with a crew (R226, R236); when every hart of the crew has halted the member is killed. -/
def State.holdFault (s : State) (r : CrewRef) (f : HeldFault) : State :=
  match s.crew? r with
  | none => s
  | some k =>
    if k.resident && (s.hartsOf r).isEmpty then s.killMember r.mem f.info.cause.code f.info.addr
    else s.modCrew r fun k => { k with held := k.held ++ [f] }

/-- LINK made pending on the hart that issued a command (R197). -/
def State.pendLink (s : State) (r : CrewRef) (hr : Nat) (va : Word) : State :=
  match s.hartOf r hr with
  | none => s
  | some c => s.modCore c.id (Core.pendLink va)

/-- The place of an engine access: a window of the crew, or a resident huge page; none while no valid translation is
there (R202). -/
def State.enginePlace (s : State) (k : Crew) (x : StreamCmd) (kind : AccessKind) (va : Word) : Option Place :=
  if va.toNat < 2 ^ 32 then (k.windowLoc x.cellRank va.toNat).map fun l => ⟨l, none⟩
  else
    match (s.die k.die).resident va with
    | .error _ => none
    | .ok w => match finish kind true w va with
      | .ok p => some p
      | .error _ => none

/-- What became of one element. -/
inductive Streamed where
  | done | wait
  | refused (va : Word)
  | link (va : Word)
  deriving DecidableEq, Repr

/-- A request of the engine to remote memory, unless one is under way (R386). -/
def State.engineOut (s : State) (x : StreamCmd) (pa : Nat) (va : Word) (write : List Byte) (read : Nat) : State × StreamCmd :=
  if x.waiting then (s, x)
  else
    ({ s with
        nextId := s.nextId + 1
        outbound := s.outbound ++ [s.makeOut (s.nextId + 1) none 0 (some x.id) false pa va 0 write read none] },
      { x with waiting := true })

/-- The source bytes of an element (R272): the pattern of SFILL, a hold, the die cache, home, or remote memory. -/
def State.engineRead (s : State) (k : Crew) (p : Nat) (x : StreamCmd) (va : Word) : State × StreamCmd × Streamed × List Byte :=
  let n := 2 ^ x.elog
  match s.enginePlace k x .load va with
  | none => (s, x, .wait, [])
  | some pl =>
    if s.orphaned pl then (s, x, .link va, [])
    else if isRemote pl.loc then
      match (List.range n).mapM fun i => tblGet? (pl.loc + i) x.remote with
      | some bs => (s, x, .done, bs)
      | none => let (s, x) := s.engineOut x pl.loc va [] n; (s, x, .wait, [])
    else if (s.accessWait k.die pl).isSome then (s, x, .wait, [])
    else
      let (s, bs) := s.peekCell k.die (cellKey k.die p) pl n
      (s, x, .done, bs)

/-- Bytes written from `a` on, behind those written before. -/
def addRange (a n : Nat) : List (Nat × Nat) → List (Nat × Nat)
  | [] => [(a, n)]
  | [(lo, len)] => if lo + len = a then [(lo, len + n)] else [(lo, len), (a, n)]
  | y :: ys => y :: addRange a n ys

/-- The bytes of an element written at home (R272, R275), or refused by a seal (R235, R236). -/
def State.engineWrite (s : State) (k : Crew) (x : StreamCmd) (va : Word) (bs : List Byte) : State × StreamCmd × Streamed :=
  match s.enginePlace k x .store va with
  | none => (s, x, .wait)
  | some pl =>
    if s.sealed k.die pl then (s, x, .refused va)
    else if s.orphaned pl then (s, x, .link va)
    else if isRemote pl.loc then
      match tblGet? (ackKey 0 pl.loc) x.remote with
      | some _ => (s, x, .done)
      | none => let (s, x) := s.engineOut x pl.loc va bs 0; (s, x, .wait)
    else if (s.accessWait k.die pl true).isSome then (s, x, .wait)
    else (s.writeHome k.die none pl (whole bs),
      if isHold pl.loc then x else { x with wrote := addRange pl.loc bs.length x.wrote }, .done)

/-- The next element of a command (R199, R200): read, then written. -/
def State.streamElem (s : State) (k : Crew) (p : Nat) (x : StreamCmd) : State × StreamCmd × Streamed :=
  let (src, dst) := x.element x.next
  let (s, x, r, bs) :=
    match x.work with
    | .shape true _ pattern _ => (s, x, Streamed.done, natBytes (2 ^ x.elog) pattern.toNat)
    | .shape false _ _ _ | .crewwide _ _ _ => s.engineRead k p x src
  match r with
  | .done =>
    let (s, x, r) := s.engineWrite k x dst bs
    match r with
    | .done => (s, { x with next := x.next + 1, remote := [], waiting := false }, .done)
    | .wait | .refused _ | .link _ => (s, x, r)
  | .wait | .refused _ | .link _ => (s, x, r)

/-- Up to `n` elements in ascending index, and what stopped them. -/
def State.streamElems (s : State) (k : Crew) (p : Nat) (x : StreamCmd) : Nat → State × StreamCmd × Streamed
  | 0 => (s, x, .wait)
  | n + 1 =>
    if x.total ≤ x.next then (s, x, .done)
    else
      let (s, x, r) := s.streamElem k p x
      match r with
      | .done => s.streamElems k p x n
      | .wait | .refused _ | .link _ => (s, x, r)

/-- An earlier command of the queue, or an LKACC of its cell, holds this one back (R201, R214). -/
def State.streamHeld (s : State) (x : StreamCmd) (queue : List StreamCmd) : Bool :=
  let (q, w) := s.streamRanges x
  let hits (r t : Option (Nat × Nat)) : Bool := match r with | none => false | some (lo, hi) => overlaps lo hi t
  ((queue.takeWhile fun y => !decide (y.id = x.id)).any fun y =>
    let (qy, wy) := s.streamRanges y
    hits q wy || hits w qy || hits w wy) ||
  s.stackTbl.any fun k => (k.2.seqr ++ k.2.parked).any fun y =>
    decide (y.id < x.id) && decide (s.cmdCell y = (s.crew? x.crew).bind fun c => (c.cellOf x.cellRank).map fun z => cellKey z.1 z.2.1)
      && (hits q (s.statusRange y) || hits w (s.statusRange y))

/-- The engine of cell `p` performs up to `n` elements of a queued command and arrives for them (R199, R192). -/
def State.streamPerform (s : State) (d p id n : Nat) : State :=
  let key := cellKey d p
  match (s.cell key).queue.find? fun x => decide (x.id = id) with
  | none => s
  | some x =>
    match s.crew? x.crew with
    | none => s
    | some k =>
      if s.streamHeld x (s.cell key).queue then s
      else
        let (s, y, r) := s.streamElems k p x n
        let drop := s.modCell key fun c => { c with queue := c.queue.filter fun z => !decide (z.id = id) }
        let keep := s.modCell key fun c => { c with queue := c.queue.map fun z => if z.id = id then { y with wrote := [] } else z }
        let arrival (s : State) : State := s.arrive x.obj (2 ^ x.elog * (y.next - x.next)) ⟨false, y.wrote⟩
        match r with
        | .refused va =>
          (arrival drop).holdFault x.crew ⟨x.hart, x.id, { cause := .seal, addr := va, elem := elemNumber y.next }, none⟩
        | .link va => (arrival drop).pendLink x.crew x.hart va
        | .wait | .done => arrival (if y.total ≤ y.next then drop else keep)

end Sys2Proof.Machine
end

