-- ==== Sys2Proof/Machine/Launch.lean ====
section
/-! DEFINITION. LAUNCH and DTLD, and the checks of a launch record (R204 to R208, R388 to R390). -/

namespace Sys2Proof.Machine

/-- A claim doubleword's reserved bits, nclaims and common candidate (R205, R206). -/
def badClaim (w : Word) : Bool :=
  decide (bits w 63 25 ≠ 0) || bit w 23 || bit w 15 || decide (bits w 7 2 ≠ 0) || decide (bits w 1 0 = 3)
    || (decide (bits w 1 0 = 2) &&
      !(List.range 128).any fun d => isCandidate d (bits w 14 8) && isCandidate d (bits w 22 16))

/-- The record has a claim table: a train with nclaims ≠ 0 (R205). -/
def recTable (x : List Word) : Bool := recTrain x && decide (bits (dwAt x 4) 1 0 ≠ 0)

/-- Doubleword i of a launch record breaks its ranges or reserved bits (R205, R206). The conditions on done and the
dependences are the poster's. An image longer than the bytes that are restored fails (R206, R418). -/
def badDword (x : List Word) (i : Nat) : Bool :=
  let w := dwAt x i
  match i with
  | 0 => decide (bits w 1 0 ≠ 0)
  | 2 =>
    decide (bits w 63 53 ≠ 0) || decide (bits w 47 44 ≠ 0) || decide (bits w 31 25 ≠ 0) || bit w 23
      || decide (bits w 15 9 ≠ 0) || decide (recLanes x = 0) || decide (16 < recLanes x)
      || decide (recBlocks x = 0) || decide (8 < recBlocks x)
      || (if recTrain x then decide (bits w 39 32 < 2) || decide (128 < bits w 39 32) else decide (bits w 39 32 ≠ 0))
      || decide (recCells x = 0) || decide (64 < recCells x)
      || decide (recHarts x = 0) || decide (256 < recHarts x) || decide (4 * recCells x < recHarts x)
  | 3 => decide (bits w 63 32 ≠ 0)
  | 4 => if recTrain x then decide (bits w 63 25 ≠ 0) || bit w 23 || bit w 15 || decide (bits w 7 2 ≠ 0)
      || decide (bits w 1 0 = 3) else badClaim (w &&& ~~~(BitVec.ofNat 64 (2 ^ 24)))
  | 5 => !recTable x && decide (w ≠ 0)
  | 10 =>
    decide (bits w 63 52 ≠ 0) || decide (bits w 31 20 ≠ 0) || decide (recDiscard x % 2 ^ 16 ≠ 0)
      || decide (recBlocks x * 2 ^ 16 < recDiscard x) || decide (recDiscard x < recImglen x)
  | 11 => decide (bits w 63 2 ≠ 0)
  | 12 | 13 | 14 => decide (bits w 3 1 ≠ 0)
  | 15 => decide (w ≠ 0)
  | _ => false

/-- The hold object an address of the launching hart names, if it is a 16-byte-aligned address of the crew's hold bytes
(R206, R207). -/
def State.launchObj (s : State) (c : Core) (va : Word) : Option ObjRef :=
  match s.objPlace c va with
  | .ok _ => s.objOf c va
  | .error _ => none

/-- The address of dependence i and its token (R205). -/
def recDep (x : List Word) (i : Nat) : Word × Bool := (dwAt x (12 + i) &&& ~~~(0xF : Word), bit (dwAt x (12 + i)) 0)

/-- The first faulty doubleword of a record that LAUNCH posts (R206 step 3). -/
def State.launchFault (s : State) (c : Core) (x : List Word) : Option Nat :=
  (List.range 16).find? fun i =>
    badDword x i
      || (decide (i = 7) && decide (dwAt x 7 ≠ 0) && (s.launchObj c (dwAt x 7)).isNone)
      || (decide (12 ≤ i) && decide (i < 12 + recDeps x) && (s.launchObj c (recDep x (i - 12)).1).isNone)

/-- A claim-table entry is bad (R206 step 5): bit 24 must be 0. -/
def badEntry (w : Word) : Bool := badClaim w || bit w 24

/-- The slots of a queue's ring (R387, R388). DESIGN CHOICE: a slog outside the range of R387, 0 to 3, is taken as it stands (log 24). -/
def State.ringSlots (s : State) (q : Nat) : Nat := 2 ^ bits (quadAt q s.queues).d0 51 48

/-- The place of slot `n` of a queue's ring (R388). -/
def State.slotPlace (s : State) (q n : Nat) : Nat := s.controlBlock q + 0x80 + 128 * (n % s.ringSlots q)

/-- A record appended by LAUNCH (R389): reserved while reserve − head is below the slots, written, and published once every
earlier reservation is. gd receives its sequence number, or −1 when the queue is full (R204). A sealed frame refuses the
append with SEAL at the record's address (R373; log 34), and a queue in a stack that has lost both candidates raises LINK
there (R413). -/
def State.appendRecord (s : State) (q : Nat) (va : Word) (x : List Word) (d : BitVec 5) (o : Option ObjRef)
    (deps : List (ObjRef × Bool)) : Except Halt State :=
  let cb := s.controlBlock q
  let n := s.readWord (cb + 8)
  let slot := s.slotPlace q n.toNat
  if [cb, slot].any fun a => (s.stack (stackOf a)).orphan then s.unwinding { cause := .link, addr := va }
  else
  match [cb, slot].findSome? (s.homeWait s.me.id.die) with
  | some w => s.stall w
  | none =>
    if s.ringSlots q ≤ (n - s.readWord (cb + 0x10)).toNat then .ok (s.upd fun c => (c.wg d (BitVec.allOnes 64)).retire)
    else if s.readWord cb ≠ n then s.stall .none
    else if s.sealedAt cb || s.sealedAt slot then s.unwinding { cause := .seal, addr := va }
    else
      let s := s.writeWord (cb + 8) (n + 1)
      let s := s.setLocBytes slot (whole (x.flatMap wordBytes64))
      let s := s.writeWord cb (n + 1)
      .ok ({ s with binds := s.binds ++ [((q, n.toNat), (o, deps))] }.upd fun c => (c.wg d n).retire)

/-- LAUNCH (R204, R206): its checks in order, a release at panel scope (R190; log 12), and the append. -/
def execLaunch (d a b : BitVec 5) (s : State) : Host.Outcome State Fault Refusal :=
  s.runAround false fun s => do
    let va := s.me.rg a
    let q := (s.me.rg b).toNat
    let s ← s.trapIf (if bits va 63 52 = 0 && decide (va.toNat % 8 ≠ 0) then some (causeAt .align va) else none)
    let (s, x) ← s.readDwords va 0 16
    let regs := quadAt q s.queues
    if 64 ≤ q || !bit regs.d0 63 || !bit regs.d0 62 then s.unwinding { cause := .launch, addr := va, elem := 0xFFFF }
    else
      match s.launchFault s.me x with
      | some i => s.unwinding { cause := .launch, addr := va, elem := 8 * i }
      | none => do
        let table := dwAt x 5
        let (s, ws) ← if recTable x then s.readDwords table 0 (recCrews x) else .ok (s, [])
        match ws.findIdx? badEntry with
        | some k => s.unwinding { cause := .launch, addr := table, elem := 0x80 + 8 * k }
        | none => do
          let s ← s.releaseKinds s.me.id .panel
          let c := s.me
          s.appendRecord q va x d (if dwAt x 7 = 0 then none else s.launchObj c (dwAt x 7))
            ((List.range (recDeps x)).filterMap fun i => (s.launchObj c (recDep x i).1).map fun o => (o, (recDep x i).2))

/-- The first relative entry that DTLD or BDTLD refuses (R208, R218): beyond the table, or with nb > 11. -/
def badEntries (first limit : Nat) (es : List (BitVec 32)) : Option Nat :=
  (es.zipIdx.find? fun x => decide (limit ≤ first + x.2) || decide (11 < dtBits x.1)).map fun x => x.2

/-- A decoder entry written (R19); a zero entry is not listed. -/
def putEntry (i : Nat) (e : BitVec 32) (t : Tbl (BitVec 32)) : Tbl (BitVec 32) :=
  if e = 0 then tblErase i t else tblSet i e t

/-- Decoder entries loaded from `first` on, with their reserved bits cleared (R208, R218). -/
def putEntries (first : Nat) (es : List (BitVec 32)) (t : Tbl (BitVec 32)) : Tbl (BitVec 32) :=
  es.zipIdx.foldl (fun t x => putEntry (first + x.2) (x.1 &&& 0x7FFFFF) t) t

/-- DTLD (R208). A bit of gs2 outside its fields gives entry number 0, for which the rule names none, and
cr.eaddr of its TABLE is 0, for the rule gives it no address (DESIGN CHOICE, log 34). -/
def execDtld (a b : BitVec 5) (s : State) : Host.Outcome State Fault Refusal :=
  s.runAround false fun s => do
    let va := s.me.rg a
    let w := s.me.rg b
    let first := bits w 10 0
    let (s, bs) ← s.loadAll ((List.range (bits w 27 16)).map fun i => ⟨va + BitVec.ofNat 64 (4 * i), 4, 4, elemNumber i⟩)
    let es := bs.map fun x => BitVec.ofNat 32 (bytesNat x)
    if bits w 63 28 ≠ 0 || bits w 15 11 ≠ 0 then s.unwinding { cause := .table }
    else
      match badEntries first 2048 es with
      | some k => s.unwinding { cause := .table, elem := k }
      | none => .ok (s.upd fun c => { c with dtab := putEntries first es c.dtab }.retire)

end Sys2Proof.Machine
end

