-- ==== Sys2Proof/Machine/Banks.lean ====
section
/-! DEFINITION. The bank and stack instructions at issue: descriptors, checks in the order of R240, commands entering a
stack's sequencer, seals, and lockages (R209 to R223, R227, R229, R230, R233, R234, R237 to R241, R293, R295, R416, R417). -/

namespace Sys2Proof.Machine

/-- A bank command as its issue leaves it: stack, bank set, work and count (R209, R211). -/
structure Issued where
  stack : Nat
  slog : Nat
  b0 : Nat
  work : BankWork
  count : Nat
  deriving DecidableEq, Repr

/-- Fields of the bank-set word (R211). -/
def wordStack (w : Word) : Nat := bits w 30 24
def wordLog (w : Word) : Nat := bits w 19 16
def wordFirst (w : Word) : Nat := bits w 8 0

/-- A bank-set word that breaks the limits of R211. -/
def badSet (w : Word) : Bool :=
  decide (bits w 63 31 ≠ 0) || decide (bits w 23 20 ≠ 0) || decide (bits w 15 9 ≠ 0) || decide (9 < wordLog w)
    || decide (wordFirst w % 2 ^ wordLog w ≠ 0)

/-- The shape word (R220), and its reserved bits. -/
def shapeOf (w : Word) : TableShape := ⟨bits w 45 32, bits w 28 16, bits w 6 4 + 1, bits w 2 0⟩
def badShapeBits (w : Word) : Bool :=
  decide (bits w 63 46 ≠ 0) || decide (bits w 31 29 ≠ 0) || decide (bits w 15 7 ≠ 0) || bit w 3

/-- Table entries E and tables of a bank (R220). -/
def TableShape.entries (x : TableShape) : Nat := 2 ^ (x.b * x.gsz)

/-- The limits of R220, short of the reserved bits. -/
def TableShape.ok (x : TableShape) : Bool :=
  decide (1 ≤ x.b) && decide (x.b ≤ 4) && decide (x.b * x.gsz ≤ 8) && decide (1 ≤ x.tpb)
    && decide (x.tpb ≤ 8192 / x.entries) && decide (x.t0 + x.tpb ≤ 8192 / x.entries)

/-- J, the groups of K inputs, and Bu, the banks they use (R222, R290). -/
def TableShape.groups (x : TableShape) (k : Nat) : Nat := (k + x.gsz - 1) / x.gsz
def TableShape.banks (x : TableShape) (k : Nat) : Nat := (x.groups k + x.tpb - 1) / x.tpb

/-- J_k, the groups of bank k (R222). -/
def TableShape.groupsOf (x : TableShape) (k bank : Nat) : Nat := Nat.min x.tpb (x.groups k - bank * x.tpb)

/-- A cause found at issue is an unwinding trap (R210). -/
def State.bankTrap {α : Type} (s : State) (c : Cause) (va : Word) (elem : Nat) : Except Halt α :=
  s.unwinding { cause := c, addr := va, elem := elemNumber elem }

/-- The structures of R416 that a bank command's hart reads in its hold-local window. A steward core, which has no
windows, reads them at physical addresses (R362; log 5). -/
def State.bankStruct (s : State) (va : Word) (align : Nat) : Option TrapInfo :=
  if s.me.isSteward then none else localStruct va align

/-- The descriptor, read once as doublewords (R209, R210), and its opt and other limits (R240 steps 1 and 2). -/
def State.descriptor (s : State) (va : Word) (n : Nat) (bad : List Word → Bool) : Except Halt (State × List Word) := do
  let s ← s.trapIf (s.bankStruct va 8)
  let (s, ds) ← s.readDwords va 0 n
  if bad ds then s.bankTrap .bankcmd va 0 else .ok (s, ds)

/-- The crew of the issuing core claims the stack (R210); steward firmware may use any. -/
def State.claims (s : State) (c : Core) (stack : Nat) : Bool :=
  c.isSteward || c.crewRef?.elim false fun r => (s.crewClaims r).contains stack

/-- The stack is not owned by the core's die, or in lockage (R241). -/
def State.notOwner (s : State) (c : Core) (stack : Nat) : Bool :=
  decide (s.owner stack ≠ c.id.die) || (s.stack stack).lock.isSome

/-- PERM for an unclaimed stack, then OWNER (R240 step 3). -/
def State.stackRight (s : State) (stack : Nat) (va : Word) : Except Halt State :=
  if !s.claims s.me stack then s.bankTrap .perm va 0
  else if s.notOwner s.me stack then s.bankTrap .owner va 0
  else .ok s

/-- Operands of `n` bytes each in the hold-local window, read at issue (R214, R218, R221). More than 2^19 of a hart's fault
within the first 2^19 + 1; a steward core reads them at physical addresses (R362; log 5). -/
def State.bankOperands (s : State) (va : Word) (count n : Nat) : Except Halt (State × List (List Byte)) := do
  let s ← if count = 0 then .ok s else s.trapIf (s.bankStruct va 1)
  let count := if s.me.isSteward then count else Nat.min count (2 ^ 19 + 1)
  s.loadAll ((List.range count).map fun i => ⟨va + BitVec.ofNat 64 (n * i), n, n, elemNumber i⟩)

/-- The accumulator shape of a bank as the sequencer's commands will leave it: 1 for INT16 (R417, R219). -/
def State.shapeAhead (s : State) (stack bank : Nat) : Bool :=
  let x := s.stack stack
  match x.seqr.reverse.findSome? fun y =>
      match y.work with
      | .lkclr narrow => if y.b0 ≤ bank ∧ bank < y.b0 + 2 ^ y.slog then some narrow else none
      | _ => none with
  | some narrow => narrow
  | none => (tblGet Bank.reset bank x.bank.banks).narrow

/-- The b of a codebook slot as the sequencer's commands will leave it, 0 when empty (R417, R217). -/
def State.slotAhead (s : State) (stack slot : Nat) : Nat :=
  let x := s.stack stack
  match x.seqr.reverse.findSome? fun y =>
      match y.work with
      | .cbload n b _ => if n = slot then some b else none
      | _ => none with
  | some b => b
  | none => (tblGet ⟨0, []⟩ slot x.bank.slots).b

/-- Banks of a set differ in shape, or rows pass their one shape's accumulators (R223, R229). -/
def State.badRows (s : State) (stack b0 slog row0 n : Nat) : Bool :=
  let narrow := s.shapeAhead stack b0
  !((List.range (2 ^ slog)).all fun k => s.shapeAhead stack (b0 + k) == narrow)
    || decide ((if narrow then 512 else 256) < row0 + n)

/-- CBLOAD (R217). -/
def State.issueCbload (s : State) (va : Word) (opt : BitVec 8) : Except Halt (State × Issued) := do
  let (s, ds) ← s.descriptor va 3 fun ds =>
    badSet (dwAt ds 0) || decide (wordLog (dwAt ds 0) ≠ 0) || decide (wordFirst (dwAt ds 0) ≠ 0)
  let stack := wordStack (dwAt ds 0)
  let s ← s.stackRight stack va
  let b := getBits opt 6 2 + 1
  let entries := (wordBytes64 (dwAt ds 1) ++ wordBytes64 (dwAt ds 2)).take (2 ^ b)
  .ok (s, ⟨stack, 0, 0, .cbload (getBits opt 0 6) b entries, 2 ^ b⟩)

/-- BDTLD (R218): the first entry with nb above 11 is the faulting address of TABLE. -/
def State.issueBdtld (s : State) (va : Word) (opt : BitVec 8) : Except Halt (State × Issued) := do
  let (s, ds) ← s.descriptor va 3 fun ds => decide (opt ≠ 0) || badSet (dwAt ds 0)
    || decide (bits (dwAt ds 2) 63 28 ≠ 0) || decide (bits (dwAt ds 2) 15 11 ≠ 0)
  let w := dwAt ds 0
  let s ← s.stackRight (wordStack w) va
  let first := bits (dwAt ds 2) 10 0
  let count := bits (dwAt ds 2) 27 16
  let (s, bs) ← s.bankOperands (dwAt ds 1) count 4
  let es := bs.map fun x => BitVec.ofNat 32 (bytesNat x)
  if 2048 < first + count then s.bankTrap .table va 0
  else
    match es.findIdx? fun e => decide (11 < dtBits e) with
    | some i => s.bankTrap .table (dwAt ds 1 + BitVec.ofNat 64 (4 * i)) i
    | none => .ok (s, ⟨wordStack w, wordLog w, wordFirst w, .bdtld first es, 4 * count * 2 ^ wordLog w⟩)

/-- LKCLR (R219). -/
def State.issueLkclr (s : State) (va : Word) (opt : BitVec 8) : Except Halt (State × Issued) := do
  let (s, ds) ← s.descriptor va 1 fun ds => decide (1 < opt.toNat) || badSet (dwAt ds 0)
  let w := dwAt ds 0
  let s ← s.stackRight (wordStack w) va
  .ok (s, ⟨wordStack w, wordLog w, wordFirst w, .lkclr (opt.getLsbD 0), 1024 * 2 ^ wordLog w⟩)

/-- LKRD (R229). -/
def State.issueLkrd (s : State) (va : Word) (opt : BitVec 8) : Except Halt (State × Issued) := do
  let (s, ds) ← s.descriptor va 3 fun ds => decide (1 < opt.toNat) || badSet (dwAt ds 0)
    || decide (bits (dwAt ds 1) 63 26 ≠ 0) || decide (bits (dwAt ds 1) 15 9 ≠ 0) || decide (bits (dwAt ds 1) 25 16 = 0)
    || decide (bits (dwAt ds 2) 63 19 ≠ 0) || decide (bits (dwAt ds 2) 15 9 ≠ 0)
  let w := dwAt ds 0
  let s ← s.stackRight (wordStack w) va
  let n := bits (dwAt ds 1) 25 16
  let row0 := bits (dwAt ds 1) 8 0
  let mrow := bits (dwAt ds 2) 18 16
  if s.badRows (wordStack w) (wordFirst w) (wordLog w) row0 n then s.bankTrap .table va 0
  else if 8192 < 1024 * mrow + 8 * n then s.bankTrap .bankcmd va 0
  else .ok (s, ⟨wordStack w, wordLog w, wordFirst w, .lkrd n row0 mrow (bits (dwAt ds 2) 8 0) (opt.getLsbD 0), 8 * n⟩)

/-- TBUILD (R220, R221). -/
def State.issueTbuild (s : State) (va : Word) (opt : BitVec 8) : Except Halt (State × Issued) := do
  let k (ds : List Word) : Nat := bits (dwAt ds 3) 31 0
  let (s, ds) ← s.descriptor va 4 fun ds => decide (getBits opt 6 2 ≠ 0) || badSet (dwAt ds 0)
    || badShapeBits (dwAt ds 2) || decide (bits (dwAt ds 3) 63 32 ≠ 0) || decide (k ds = 0)
  let w := dwAt ds 0
  let s ← s.stackRight (wordStack w) va
  let (s, bs) ← s.bankOperands (dwAt ds 1) (k ds) 1
  let x := shapeOf (dwAt ds 2)
  let slot := getBits opt 0 6
  let b := s.slotAhead (wordStack w) slot
  if !x.ok || decide (2 ^ wordLog w * x.tpb < x.groups (k ds)) || decide (b = 0) || decide (b ≠ x.b) then
    s.bankTrap .table va 0
  else
    .ok (s, ⟨wordStack w, wordLog w, wordFirst w, .tbuild slot x (k ds) bs.flatten, 4 * x.entries * x.groups (k ds)⟩)

/-- A byte of memory that resident huge pages alone serve, outside hold windows (R223, R230, R233): its physical
address and page entry. -/
def State.hugePlace (s : State) (k : AccessKind) (va : Word) : Except TrapInfo (Nat × Word) :=
  let c := s.me
  if c.isSteward then
    (resolvePhysical k va 1).bind fun p =>
      if isControl p.loc then .error (causeAt .perm va) else .ok (p.loc, stewardLeaf ||| BitVec.ofNat 64 (2 ^ 9))
  else if bits va 63 52 ≠ 0 || decide (va.toNat < 2 ^ 32) then .error (causeAt .perm va)
  else
    match (s.die c.id.die).resident va with
    | .error reason => .error { cause := .hugeabsent, addr := va, reason := reason }
    | .ok w => if leafForbids k w then .error (causeAt .perm va) else .ok (leafPa true w va, w)

/-- The kinds of a catalogue entry, from its two doublewords (R295). -/
def catEntry (a b : Word) : CatEntry :=
  ⟨bits a 63 62, bits a 61 56, bits a 55 48, bits a 47 40, bits a 39 0, bits b 47 32, bits b 31 0⟩

/-- An entry treated as a layout mismatch whatever the descriptor says (R295). -/
def badCat (b : Word) (e : CatEntry) : Bool :=
  decide (bits b 63 48 ≠ 0) || decide (e.kind = 3)
    || (decide (e.kind ≠ 1) && (decide (e.dtid ≠ 0) || decide (e.chunks ≠ 0)))
    || (decide (e.kind ≠ 2) && decide (e.cidx ≠ 0))
    || (decide (e.kind = 2) && (decide (e.offset ≠ 0) || decide (e.length ≠ 0)))
    || (decide (e.kind = 1) && decide (e.chunks = 0)) || (decide (e.kind < 2) && decide (e.length = 0))

/-- A tile's bytes cut where a bank of a bank-resident page ends: address and length. -/
def tilePieces (va : Word) (n : Nat) : Nat → List (Word × Nat)
  | 0 => []
  | fuel + 1 =>
    if n = 0 then []
    else
      let m := Nat.min n (2 ^ 26 - va.toNat % 2 ^ 26)
      (va, m) :: tilePieces (va + BitVec.ofNat 64 m) (n - m) fuel

/-- The pieces of an entry's tile; none for an elided entry (R300). -/
def entryPieces (wbase : Word) (e : CatEntry) : List (Word × Nat) :=
  if e.kind < 2 then tilePieces (wbase + BitVec.ofNat 64 e.offset) e.length 66 else []

/-- The first address cause of a tile's pieces (R223 step 1), or the huge pages they lie in. -/
def State.tilePages (s : State) : List (Word × Nat) → Except TrapInfo (List (Nat × Nat))
  | [] => .ok []
  | (va, _) :: rest => do
    let (pa, _) ← s.hugePlace .load va
    let ps ← s.tilePages rest
    .ok (tblSet (va.toNat / 2 ^ 28) (pa / 2 ^ 28 * 2 ^ 28) ps)

/-- The physical address of a tile byte or granule. -/
def pageAt (pages : List (Nat × Nat)) (va : Word) : Nat := tblGet 0 (va.toNat / 2 ^ 28) pages + va.toNat % 2 ^ 28

/-- The pages of all entries' tiles, in ascending k. DESIGN CHOICE: cr.eelem of entry k's tile in a hold window is k, as R223 has it for
its step 1, where R416 has 0 for a structure out of place (log 34). -/
def State.allTiles (s : State) (wbase : Word) (k : Nat) (pages : List (Nat × Nat)) :
    List CatEntry → Except TrapInfo (List (Nat × Nat))
  | [] => .ok pages
  | e :: rest =>
    match s.tilePages (entryPieces wbase e) with
    | .error t => .error { t with elem := elemNumber k }
    | .ok ps => s.allTiles wbase (k + 1) (ps.foldl (fun q p => tblSet p.1 p.2 q) pages) rest

/-- A layout mismatch of entry k (R223 step 2); `length` tells whether J can be formed. -/
def layoutBad (x : TableShape) (good : Bool) (kIn n layout mode k : Nat) (b : Word) (e : CatEntry) : Bool :=
  badCat b e || decide (e.layout ≠ layout) || (decide (e.kind = 1) && decide (mode = 0))
    || (decide (e.kind = 0) && decide (mode = 1))
    || (good && decide (e.kind = 0) && decide (e.length ≠ (n * x.groupsOf kIn k * x.b * x.gsz + 7) / 8))
    || (decide (e.kind = 2) && decide (x.entries ≤ e.cidx))

/-- The frames of the pages of a region as a core names it: through its die's resident table, or physically (R362). -/
def State.regionFrames (s : State) (c : Core) (va : Word) (n : Nat) : List Nat :=
  (List.range n).filterMap fun j =>
    let a := va + BitVec.ofNat 64 (j * 2 ^ 28)
    if c.isSteward then some (frameOf a.toNat)
    else
      match (s.die c.id.die).resident a with
      | .ok w => some (frameOf (leafPa true w 0))
      | .error _ => none

/-- A frame that some hart's SEALOFF is waiting to unseal; a hart stopped in that wait has withdrawn it (R234). -/
def State.unsealing (s : State) (frame : Nat) : Bool :=
  s.cores.any fun c =>
    match c.wait with
    | .seal true _ a x => !c.stopped && (s.regionFrames c (c.rg a) ((c.rg x).toNat / 2 ^ 28)).contains frame
    | _ => false

/-- A piece of bank k's tile is not sealed, not bank-resident, or not in bank b0 + k of the stack (R223 step 4, R234). -/
def State.badPiece (s : State) (d stack bank pa : Nat) : Bool :=
  let f := frameOf pa
  decide (pa / 2 ^ 47 % 2 = 1) || isMailbox pa || !(s.die d).sealt.getLsbD f || !s.frameResident d f
    || decide (stackOf pa ≠ stack) || decide (bankOf true pa ≠ bank) || s.unsealing f

/-- The byte reader of a coded tile, from a byte of it on: DRAM at the stack (R214). -/
def State.tileReader (s : State) (pages : List (Nat × Nat)) (start : Word) (byte : Nat) : Reader Unit Unit :=
  fun t o => .ok (t, (s.dramByte (pageAt pages (start + BitVec.ofNat 64 (byte + o)))).toNat)

/-- The marker of chunk `chunk` of a bank's coded tile judged (R299); `full` for a chunk to be decoded, else by the checks
of R227. -/
def State.bankMarker (s : State) (pages : List (Nat × Nat)) (start : Word) (e : CatEntry) (sk jk sym chunk byte : Nat)
    (full : Bool) : Judged Marker :=
  let extra (m : Marker) : Option Nat :=
    let stop := sym + m.count
    if 2048 < 32 * e.dtid + 2 ^ m.w then some 6
    else if sk < stop || (decide (stop = sk) != (full && decide (chunk + 1 = e.chunks)))
        || (full && decide (e.layout % 2 = 1) && decide (sym / jk ≠ (stop - 1) / jk)) then some 4
    else none
  match judgeMarker (s.tileReader pages start byte) (e.length - byte) 16384 (if e.layout / 2 % 2 = 1 then 16 else 4)
      extra () with
  | .ok (_, j) => j
  | .error _ => .bad 1 0

/-- Chunks passed over by their markers (R227): the symbol and byte after them, or the failing chunk and reason. -/
def State.skipChunks (s : State) (pages : List (Nat × Nat)) (start : Word) (e : CatEntry) (sk : Nat) (sym chunk byte : Nat) :
    Nat → Except (Nat × Nat) (Nat × Nat)
  | 0 => .ok (sym, byte)
  | n + 1 =>
    match s.bankMarker pages start e sk 1 sym chunk byte false with
    | .bad r _ => .error (chunk, r)
    | .good m => s.skipChunks pages start e sk (sym + m.count) (chunk + 1) (byte + m.size + m.plen) n

/-- The doublewords of catalogue entries, in a hold-local window or a resident huge page, at a multiple of 16 in every memory
(R222, R295, R416). -/
def State.catalogue (s : State) (cat : Word) (n : Nat) : Except Halt (State × List Word) := do
  let s ← s.trapIf <|
    if s.me.isSteward then (if bits cat 63 48 = 0 ∧ cat.toNat % 16 ≠ 0 then some (causeAt .align cat) else none)
    else if bits cat 63 52 ≠ 0 then some (causeAt .perm cat)
    else if cat.toNat % 16 ≠ 0 then some (causeAt .align cat)
    else if 2 ^ 19 ≤ cat.toNat ∧ cat.toNat < 2 ^ 32 then some (causeAt .perm cat)
    else none
  (s.loadAll ((List.range (2 * n)).map fun j => ⟨cat + BitVec.ofNat 64 (8 * j), 8, 8, elemNumber (j / 2)⟩)).map fun x =>
    (x.1, x.2.map bytesWord)

/-- The count of an LKACC: N·J, or with resume the symbols of one bank from its resume chunk on, a free value where the
markers do not tell them (R209, R227). -/
def State.lkaccCount (s : State) (x : TableShape) (kIn n : Nat) (wbase : Word) (pages : List (Nat × Nat))
    (es : List CatEntry) (resume : Option (Nat × Nat)) : State × Nat :=
  match resume with
  | none => (s, n * x.groups kIn)
  | some (rbank, rchunk) =>
    match es[rbank]? with
    | none => (s, 0)
    | some e =>
      let sk := n * x.groupsOf kIn rbank
      match s.skipChunks pages (wbase + BitVec.ofNat 64 e.offset) e sk 0 0 0 rchunk with
      | .ok (c, _) => (s, sk - c)
      | .error _ => ({ s with ticks := s.ticks + 1 }, Config.resumeCount s.ticks)

/-- LKACC (R222, R223, R227, R293). The resume bank's LAYOUT of R227 is judged after every entry's of R223, and
its BANKCMD after those of tile pieces; the LAYOUT of R293 for the descriptor itself, comp = 0 or b·g > 8, before the entries', at the
descriptor's address with element 0, none of which R223 or R293 ranks or gives (log 34). -/
def State.issueLkacc (s : State) (va : Word) (opt : BitVec 8) : Except Halt (State × Issued) := do
  let mode := getBits opt 0 2
  let (s, ds) ← s.descriptor va 8 fun ds => decide (7 < opt.toNat) || decide (mode = 3) || badSet (dwAt ds 0)
    || badShapeBits (dwAt ds 1) || decide (bits (dwAt ds 2) 63 32 ≠ 0) || decide (bits (dwAt ds 2) 31 0 = 0)
    || decide (bits (dwAt ds 3) 63 40 ≠ 0) || decide (bits (dwAt ds 3) 31 26 ≠ 0) || decide (bits (dwAt ds 3) 15 9 ≠ 0)
    || decide (bits (dwAt ds 3) 25 16 = 0) || decide (bits (dwAt ds 7) 63 48 ≠ 0) || decide (bits (dwAt ds 7) 15 9 ≠ 0)
  let w := dwAt ds 0
  let stack := wordStack w
  let slog := wordLog w
  let b0 := wordFirst w
  let s ← s.stackRight stack va
  let x := shapeOf (dwAt ds 1)
  let k := bits (dwAt ds 2) 31 0
  let layout := bits (dwAt ds 3) 39 32
  let n := bits (dwAt ds 3) 25 16
  let row0 := bits (dwAt ds 3) 8 0
  let wbase := dwAt ds 4
  let cat := dwAt ds 5
  let resume := if opt.getLsbD 2 then some (bits (dwAt ds 7) 8 0, bits (dwAt ds 7) 47 16) else none
  let good := x.ok
  let ne := if good then Nat.min (x.banks k) (2 ^ slog) else 1
  let (s, cw) ← s.catalogue cat ne
  let es := (List.range ne).map fun i => catEntry (dwAt cw (2 * i)) (dwAt cw (2 * i + 1))
  let pages ← s.orTrap (s.allTiles wbase 0 [] es)
  if layout < 128 || decide (8 < (layout / 32 % 4 + 1) * (layout / 4 % 8 + 1)) then s.bankTrap .layout va 0
  else
    match (List.range ne).find? fun i => layoutBad x good k n layout mode i (dwAt cw (2 * i + 1)) (es[i]?.getD ⟨3, 0, 0, 0, 0, 0, 0⟩) with
    | some i => s.bankTrap .layout (cat + BitVec.ofNat 64 (16 * i)) i
    | none =>
      let lost : Option Nat := resume.bind fun r => (es[r.1]?).bind fun e =>
        if e.kind ≠ 1 ∨ e.chunks ≤ r.2 then some r.1 else none
      match lost with
      | some i => s.bankTrap .layout (cat + BitVec.ofNat 64 (16 * i)) i
      | none =>
        if !good || decide (2 ^ slog * x.tpb < x.groups k) || s.badRows stack b0 slog row0 n then s.bankTrap .table va 0
        else
          match (List.range ne).findSome? fun i =>
              ((entryPieces wbase (es[i]?.getD ⟨3, 0, 0, 0, 0, 0, 0⟩)).find? fun p =>
                s.badPiece s.me.id.die stack (b0 + i) (pageAt pages p.1)).map fun p => (i, p.1) with
          | some (i, a) => s.bankTrap .bankcmd a i
          | none =>
            match resume.bind fun r => if ne ≤ r.1 then some r.1 else none with
            | some i => s.bankTrap .bankcmd va i
            | none =>
              let (s, count) := s.lkaccCount x k n wbase pages es resume
              .ok (s, ⟨stack, slog, b0, .lkacc x k n row0 layout wbase pages es (va + 0x30) resume, count⟩)

/-- The first cause of one address of a granule (R230). -/
def State.granule (s : State) (k : AccessKind) (va : Word) : Except TrapInfo (Nat × Word) :=
  let c := s.me
  if bits va 63 52 = 0 && decide (va.toNat % 1024 ≠ 0) then .error (causeAt .align va)
  else
    match s.hugePlace k va with
    | .error t => .error t
    | .ok (pa, w) =>
      if pa / 2 ^ 47 % 2 = 1 || isMailbox pa || !s.claims c (stackOf pa) then .error (causeAt .perm va)
      else if k = .store && (s.die c.id.die).sealt.getLsbD (frameOf pa) then .error (causeAt .seal va)
      else if s.notOwner c (stackOf pa) then .error (causeAt .owner va)
      else .ok (pa, w)

/-- The order of R87 among the causes of a granule. -/
def granuleOrder (t : TrapInfo) : Nat :=
  match t.cause with
  | .align => 0
  | .hugeabsent => 1
  | .perm => 2
  | .seal => 3
  | _ => 4

/-- Both addresses of a granule judged together: the earlier cause, of one cause the destination's (R230). -/
def granulePair (dst : Except TrapInfo (Nat × Word)) (src : Option (Except TrapInfo (Nat × Word))) :
    Except TrapInfo (Nat × Word × Option Nat) :=
  match dst, src with
  | .ok (p, w), none => .ok (p, w, none)
  | .ok (p, w), some (.ok (q, _)) => .ok (p, w, some q)
  | .ok _, some (.error t) => .error t
  | .error t, some (.error u) => .error (if granuleOrder u < granuleOrder t then u else t)
  | .error t, _ => .error t

/-- A stretch of granules on one pair of huge pages: the first granule, how many, and their physical starts. -/
structure Stretch where
  first : Nat
  n : Nat
  dst : Nat
  leaf : Word
  src : Option Nat
  deriving DecidableEq, Repr

/-- Granules from `va` to the end of its huge page. -/
def pageRest (va : Word) : Nat := (2 ^ 28 - va.toNat % 2 ^ 28 + 1023) / 1024

/-- The granules of an RCOPY or RFILL from granule i on, checked in ascending order (R230). Granules of one pair of
pages share their causes. -/
def State.stretches (s : State) (fill : Bool) (dst src : Word) (total i : Nat) : Nat → Except TrapInfo (List Stretch)
  | 0 => .ok []
  | fuel + 1 =>
    if total ≤ i then .ok []
    else
      let a := dst + BitVec.ofNat 64 (1024 * i)
      let b := src + BitVec.ofNat 64 (1024 * i)
      match granulePair (s.granule .store a) (if fill then none else some (s.granule .load b)) with
      | .error t => .error { t with elem := elemNumber i }
      | .ok (p, w, q) => do
        let n := Nat.min (total - i) (if fill then pageRest a else Nat.min (pageRest a) (pageRest b))
        let rest ← s.stretches fill dst src total (i + n) fuel
        .ok (⟨i, n, p, w, q⟩ :: rest)

/-- Two physical ranges share a byte. -/
def meets (a n b m : Nat) : Bool := decide (a < b + m) && decide (b < a + n)

/-- The pages of a granule range: huge page of the virtual address, physical base. -/
def stretchPages (va : Word) (xs : List (Nat × Nat)) : List (Nat × Nat) :=
  xs.foldl (fun q x => tblSet ((va + BitVec.ofNat 64 (1024 * x.1)).toNat / 2 ^ 28) (x.2 / 2 ^ 28 * 2 ^ 28) q) []

/-- The granules of an RCOPY or RFILL placed (R230): the stack whose sequencer it goes to, that of its first granule (log 34), and the
pages of its destination and source, or its first cause. -/
def State.checkRows (s : State) (fill : Bool) (va dst src : Word) (total : Nat) :
    Except TrapInfo (Nat × List (Nat × Nat) × List (Nat × Nat)) := do
  let xs ← s.stretches fill dst src total 0 300
  let refused (i : Nat) : TrapInfo := { cause := .bankcmd, addr := va, elem := elemNumber i }
  match xs.find? fun x => x.src.elim false fun q => stackOf q ≠ stackOf x.dst with
  | some x => .error (refused x.first)
  | none =>
    if xs.any fun x => xs.any fun y => y.src.elim false fun q => meets x.dst (1024 * x.n) q (1024 * y.n) then .error (refused 0)
    else
      match xs.find? fun x => bit x.leaf 8 with
      | some x => .error (refused x.first)
      | none =>
        if fill && decide (src ≠ 0) then .error (refused 0)
        else
          .ok ((xs.head?.map fun x => stackOf x.dst).getD 0, stretchPages dst (xs.map fun x => (x.first, x.dst)),
            stretchPages src (xs.filterMap fun x => x.src.map fun q => (x.first, q)))

/-- RCOPY and RFILL (R230). -/
def State.issueRows (s : State) (fill : Bool) (va : Word) (opt : BitVec 8) : Except Halt (State × Issued) := do
  let (s, ds) ← s.descriptor va 3 fun ds =>
    decide (opt ≠ 0) || decide ((dwAt ds 2).toNat % 1024 ≠ 0) || decide ((dwAt ds 2).toNat < 1024)
      || decide (2 ^ 35 < (dwAt ds 2).toNat)
  let dst := dwAt ds 0
  let src := dwAt ds 1
  let total := (dwAt ds 2).toNat / 1024
  let (stack, dpages, spages) ← s.orTrap (s.checkRows fill va dst src total)
  .ok (s, ⟨stack, 0, 0,
    if fill then .rfill dst (1024 * total) dpages else .rcopy dst src (1024 * total) dpages spages, 1024 * total⟩)

/-- The place of an LKACC's status doubleword (R222). -/
def State.statusPlace (s : State) (x : BankCmd) (va : Word) : Option Nat :=
  match x.crew with
  | none => some va.toNat
  | some r => (s.crew? r).bind fun k =>
    if va.toNat < 2 ^ 19 then s.crewPlace? k x.cellRank va.toNat 8 else none

/-- A status doubleword written at its place (R222, R226): later where its home is held (R307), and not at all in a sealed frame
(R373; log 34). -/
def State.putStatus (s : State) (at_ : Late) (l : Nat) (w : Word) : State :=
  if !isHold l && s.heldAt l then { s with late := s.late ++ [at_] }
  else if !isHold l && s.sealedAt l then s
  else (s.setLocBytes l (whole (wordBytes64 w))).holdWritten l none

/-- The status doubleword of an LKACC written. -/
def State.writeStatus (s : State) (x : BankCmd) (w : Word) : State :=
  match x.work with
  | .lkacc _ _ _ _ _ _ _ _ status _ =>
    match s.statusPlace x status with
    | some l => s.putStatus (match x.crew with
        | some r => .status ⟨r, x.cellRank, status.toNat⟩ w
        | none => .word l w) l w
    | none => s
  | _ => s

/-- A write that waited for a home, tried again (R307). -/
def State.lateOne (s : State) (x : Late) : State :=
  match x with
  | .arrival o n y => s.arrive (some o) n y
  | .status o w =>
    match (s.crew? o.crew).bind fun k => s.crewPlace? k o.cellRank o.off 8 with
    | some l => s.putStatus x l w
    | none => s
  | .word l w => s.putStatus x l w

/-- All of them. -/
def State.settleLate (s : State) : State := s.late.foldl State.lateOne { s with late := [] }

/-- A bank instruction by its operation, with its operand checks (R209). -/
def State.issueWork (s : State) (op : Nat) (va : Word) (opt : BitVec 8) : Except Halt (State × Issued) :=
  match op with
  | 0 => s.issueCbload va opt
  | 1 => s.issueTbuild va opt
  | 2 => s.issueBdtld va opt
  | 3 => s.issueLkacc va opt
  | 4 => s.issueLkrd va opt
  | 5 => s.issueLkclr va opt
  | 6 => s.issueRows false va opt
  | _ => s.issueRows true va opt

/-- A bank command enters the sequencer once that has room and no earlier stream command overlaps its status doubleword
(R210, R214); until then it waits as it was read. -/
def State.sequencerFull (s : State) (id : CoreId) (stack : Nat) (cmd : BankCmd) : Bool :=
  decide (64 ≤ (s.stack stack).seqr.length) || (s.statusRange cmd).elim false fun r => s.scoreboard id r.1 8 true

def State.enterSequencer (s : State) (stack : Nat) (cmd : BankCmd) (va : Word) (d : BitVec 5) (count : Nat) : Except Halt State :=
  let k := s.stack stack
  if s.sequencerFull s.me.id stack cmd then s.stall (.sequencer stack cmd va d count)
  else
    let cmd := { cmd with id := s.nextId }
    let s := { s with nextId := s.nextId + 1 }.setStack stack { k with seqr := k.seqr ++ [cmd] }
    .ok ((s.writeStatus cmd 0).upd fun c => (c.wg d (BitVec.ofNat 64 count)).retire)

/-- A bank command issued (R210): the checkpoint, a held fault (R226), the descriptor and the checks, the barrier object
last, and its place in the sequencer. -/
def State.issueBank (s : State) (op : Nat) (d a x : BitVec 5) (opt : BitVec 8) : Except Halt State := do
  let s ← s.checkpointAround
  let s ← s.raiseHeld false
  let (s, y) ← s.issueWork op (s.me.rg a) opt
  let o ← s.commandObject x
  let c := s.me
  s.enterSequencer y.stack ⟨0, c.id.die, c.crewRef?, c.hartRank, s.cellRank c, c.curPc, o, y.slog, y.b0, y.work, false,
    [], [], none, false, false⟩ (s.me.rg a) d y.count

/-- What a command that waited for the sequencer would trap for now: the bank state that the commands before it leave (R417), the
seals of its tiles, or a SEALOFF that waits to take them away (R223, R234). -/
def State.keptFault (s : State) (stack : Nat) (x : BankCmd) (va : Word) : Option TrapInfo :=
  match x.work with
  | .tbuild slot shape _ _ => if s.slotAhead stack slot = shape.b then none else some (causeAt .table va)
  | .lkrd n row0 _ _ _ => if s.badRows stack x.b0 x.slog row0 n then some (causeAt .table va) else none
  | .lkacc _ _ n row0 _ wbase pages es _ _ =>
    if s.badRows stack x.b0 x.slog row0 n then some (causeAt .table va)
    else
      (es.zipIdx.findSome? fun e => ((entryPieces wbase e.1).find? fun p =>
        s.badPiece x.die stack (x.b0 + e.2) (pageAt pages p.1)).map fun p => (e.2, p.1)).map fun y =>
          { cause := .bankcmd, addr := y.2, elem := elemNumber y.1 }
  | _ => none

/-- A command that waited for the sequencer checked again as its issue would check it, on the descriptor and the operands that it has
read (R210): a stack whose lockage has begun refuses it (R306), and the pages of its tiles or granules are translated anew, since it uses
no translation that a resident entry's write has ended (R369, R372). The stack it goes to and the command, or its first cause. -/
def State.keptAgain (s : State) (stack : Nat) (x : BankCmd) (va : Word) : Except TrapInfo (Nat × BankCmd) :=
  match x.work with
  | .rcopy dst src n _ _ =>
    (s.checkRows false va dst src (n / 1024)).map fun y => (y.1, { x with work := .rcopy dst src n y.2.1 y.2.2 })
  | .rfill dst n _ => (s.checkRows true va dst 0 (n / 1024)).map fun y => (y.1, { x with work := .rfill dst n y.2.1 })
  | w => do
    if s.notOwner s.me stack then .error (causeAt .owner va)
    else
      let x ← match w with
        | .lkacc g k n row0 layout wbase _ es status resume => (s.allTiles wbase 0 [] es).map fun pages =>
            { x with work := .lkacc g k n row0 layout wbase pages es status resume }
        | _ => .ok x
      match s.keptFault stack x va with
      | some t => .error t
      | none => .ok (stack, x)

/-- What such a command's gd receives (R209): a resumed LKACC whose pages have changed counts its symbols again. -/
def State.keptCount (s : State) (old new : BankCmd) (count : Nat) : State × Nat :=
  match new.work with
  | .lkacc g k n _ _ wbase pages es _ (some r) => if new = old then (s, count) else s.lkaccCount g k n wbase pages es (some r)
  | _ => (s, count)

/-- A command that waited for the sequencer goes on (R210): a fault held meanwhile is raised first (R226). -/
def State.wakeSequencer (s : State) (stack : Nat) (cmd : BankCmd) (va : Word) (d : BitVec 5) (count : Nat) :
    Except Halt State := do
  let s := s.upd fun c => { c with around := c.strips && c.frame.isNone }
  let s ← s.raiseHeld false
  let (stack, new) ← s.orTrap (s.keptAgain stack cmd va)
  let (s, count) := s.keptCount cmd new count
  s.enterSequencer stack new va d count

/-- CBLOAD (R209, R217). -/
def execCbload (d a x : BitVec 5) (opt : BitVec 8) (s : State) : Host.Outcome State Fault Refusal :=
  s.run false fun s => s.issueBank 0 d a x opt

/-- TBUILD (R209, R221). -/
def execTbuild (d a x : BitVec 5) (opt : BitVec 8) (s : State) : Host.Outcome State Fault Refusal :=
  s.run false fun s => s.issueBank 1 d a x opt

/-- BDTLD (R209, R218). -/
def execBdtld (d a x : BitVec 5) (opt : BitVec 8) (s : State) : Host.Outcome State Fault Refusal :=
  s.run false fun s => s.issueBank 2 d a x opt

/-- LKACC (R209, R223). -/
def execLkacc (d a x : BitVec 5) (opt : BitVec 8) (s : State) : Host.Outcome State Fault Refusal :=
  s.run false fun s => s.issueBank 3 d a x opt

/-- LKRD (R209, R229). -/
def execLkrd (d a x : BitVec 5) (opt : BitVec 8) (s : State) : Host.Outcome State Fault Refusal :=
  s.run false fun s => s.issueBank 4 d a x opt

/-- LKCLR (R209, R219). -/
def execLkclr (d a x : BitVec 5) (opt : BitVec 8) (s : State) : Host.Outcome State Fault Refusal :=
  s.run false fun s => s.issueBank 5 d a x opt

/-- RCOPY (R209, R230). -/
def execRcopy (d a x : BitVec 5) (opt : BitVec 8) (s : State) : Host.Outcome State Fault Refusal :=
  s.run false fun s => s.issueBank 6 d a x opt

/-- RFILL (R209, R230). -/
def execRfill (d a x : BitVec 5) (opt : BitVec 8) (s : State) : Host.Outcome State Fault Refusal :=
  s.run false fun s => s.issueBank 7 d a x opt

/-- The pages of a seal region in ascending order (R233): their frames, or the first cause. -/
def State.sealFrames (s : State) (arm : Bool) (va : Word) (i : Nat) : Nat → Except Halt (List Nat)
  | 0 => .ok []
  | n + 1 =>
    let a := va + BitVec.ofNat 64 (i * 2 ^ 28)
    match s.hugePlace .store a with
    | .error t => s.unwinding { t with elem := elemNumber i }
    | .ok (pa, w) =>
      if pa / 2 ^ 47 % 2 = 1 || isMailbox pa || (arm && !bit w 9) then s.bankTrap .perm a i
      else do
        let fs ← s.sealFrames arm va (i + 1) n
        .ok (frameOf pa :: fs)

/-- The seal bits of frames set or cleared on every die, with the number of frames that changed (R233, R234). -/
def State.putSeals (s : State) (d : Nat) (on : Bool) (fs : List Nat) : State × Nat :=
  let t := (s.die d).sealt
  let new := fs.foldl (fun t f => putBits t f 1 on.toNat) t
  let changed := (List.range (2 ^ 14)).foldl (fun n f => if t.getLsbD f != new.getLsbD f then n + 1 else n) 0
  ((List.range 128).foldl (fun s d => s.modDie d fun y =>
    { y with sealt := fs.foldl (fun t f => putBits t f 1 on.toNat) y.sealt }) s, changed)

/-- A frame's lines brought home by every die and written back to DRAM (R233). -/
def State.writeBackFrame (s : State) (f : Nat) : State :=
  let s := (List.range 128).foldl (fun s d => s.cleanLines d
    ((s.die d).nonHome.filter fun x => decide (x.dirty ≠ 0) && decide (frameOf (64 * x.line) = f))) s
  s.flushHome (f * 2 ^ 28) (2 ^ 28)

/-- The banks an LKACC performs: those that have groups, or its resume bank (R224, R227). -/
def lkaccBanks (x : TableShape) (k : Nat) (resume : Option (Nat × Nat)) : List Nat :=
  match resume with
  | some (b, _) => [b]
  | none => List.range (x.banks k)

/-- The physical addresses and lengths of the tile pieces that a bank command reads, with their relative banks. -/
def BankCmd.tiles (x : BankCmd) : List (Nat × Nat × Nat) :=
  match x.work with
  | .lkacc shape k _ _ _ wbase pages es _ resume =>
    (lkaccBanks shape k resume).flatMap fun b =>
      (es[b]?.elim [] (entryPieces wbase)).map fun p => (b, pageAt pages p.1, p.2)
  | _ => []

/-- A bank command reads a tile on a frame (R234). -/
def BankCmd.readsFrame (x : BankCmd) (f : Nat) : Bool := x.tiles.any fun p => decide (frameOf p.2.1 = f)

/-- A running bank command reads a tile on a frame: what SEALOFF waits for (R234). A side log holds an entry for the region:
what SEALARM waits for (R233). -/
def State.frameRead (s : State) (fs : List Nat) : Bool := s.stackTbl.any fun k => k.2.seqr.any fun y => fs.any y.readsFrame
def State.regionLogged (s : State) (c : Core) (va : Word) (n : Nat) : Bool :=
  let covers (a : Nat) : Bool := decide (va.toNat ≤ a) && decide (a < va.toNat + n)
  s.cells.any fun y => y.2.log.any fun e =>
    if c.isSteward then (match s.translate e.core e.va with | .ok (_, huge, w) => covers (leafPa huge w e.va) | .error _ => false)
    else covers e.va.toNat

/-- SEALARM and SEALOFF (R233, R234), which run again when their wait ends. A start with bits 63:52 set traps PERM where the
causes of its first page stand (R416). A non-zero opt is judged with gs2 (log 34). -/
def State.issueSeal (s : State) (off : Bool) (d a x : BitVec 5) (opt : BitVec 8) : Except Halt State := do
  let s ← s.checkpointAround
  let s ← s.raiseHeld false
  let va := s.me.rg a
  let n := (s.me.rg x).toNat
  if bits va 63 52 = 0 && decide (va.toNat % 2 ^ 28 ≠ 0) then s.bankTrap .align va 0
  else if opt ≠ 0 || n = 0 || n % 2 ^ 28 ≠ 0 then s.bankTrap .bankcmd va 0
  else
    let fs ← s.sealFrames (!off) va 0 (Nat.min (n / 2 ^ 28) (2 ^ 25))
    let done (s : State) (on : Bool) : Except Halt State :=
      let (s, count) := s.putSeals s.me.id.die on fs
      let s := if on then fs.foldl State.writeBackFrame s else s
      .ok (s.upd fun c => (c.wg d (BitVec.ofNat 64 count)).retire)
    if off then
      if s.stackTbl.any fun k => k.2.parked.any fun y => fs.any y.readsFrame then s.bankTrap .bankcmd va 0
      else if s.frameRead fs then s.stall (.seal true d a x)
      else done s false
    else if s.regionLogged s.me va n then s.stall (.seal false d a x)
    else done s true

/-- SEALARM (R233). -/
def execSealarm (d a x : BitVec 5) (opt : BitVec 8) (s : State) : Host.Outcome State Fault Refusal :=
  s.run false fun s => s.issueSeal false d a x opt

/-- SEALOFF (R234). -/
def execSealoff (d a x : BitVec 5) (opt : BitVec 8) (s : State) : Host.Outcome State Fault Refusal :=
  s.run false fun s => s.issueSeal true d a x opt

/-- Commands parked for `park` of STKPASS (R228): those not started, and row commands between two granules, park at once;
an LKACC parks when its banks have ended their segments; the others run to completion. -/
def BankCmd.parksNow (x : BankCmd) : Bool :=
  !x.started || (match x.work with
    | .rcopy _ _ _ _ _ | .rfill _ _ _ => true
    | _ => false)

/-- No hart of the crew will run again: every hart has halted, or the crew is gone (R228). -/
def State.crewOver (s : State) (r : CrewRef) : Bool :=
  match s.crew? r with
  | none => true
  | some k => decide (recHarts (s.recordOf r.mem) ≤ k.halted.length)

/-- Commands that leave a stack's sequencer for its parked ones (R228); those of a crew that is over are dropped at once. -/
def State.parkCmds (s : State) (stack : Nat) (goes : BankCmd → Bool) : State :=
  let k := s.stack stack
  s.setStack stack { k with
    seqr := k.seqr.filter fun y => !goes y
    parked := k.parked ++ k.seqr.filter fun y => goes y && !(y.crew.elim false s.crewOver) }

/-- A stack in lockage (R306 step 1), its commands parked or asked to park when `park` says so (R228). -/
def State.startLockage (s : State) (stack : Nat) (l : Lockage) : State :=
  let s := s.setStack stack { s.stack stack with lock := some l }
  if l.park then
    let s := s.parkCmds stack BankCmd.parksNow
    s.setStack stack { s.stack stack with seqr := (s.stack stack).seqr.map fun y => { y with parkAsked := true } }
  else s

/-- STKPASS (R237): its checks in order, then the lockage. -/
def execStkpass (d a x : BitVec 5) (opt : BitVec 8) (s : State) : Host.Outcome State Fault Refusal :=
  s.runAround false fun s => do
    let s ← s.raiseHeld false
    let w := s.me.rg a
    if w.toNat ≥ 128 || decide (1 < opt.toNat) then s.bankTrap .bankcmd 0 0
    else
      let s ← s.stackRight w.toNat 0
      let o ← s.commandObject x
      let die := s.me.id.die
      let s := s.startLockage w.toNat ⟨1, die, otherCandidate die w.toNat, opt.getLsbD 0, o, none⟩
      .ok (s.upd fun c => (c.wg d (BitVec.ofNat 64 (2 ^ 35))).retire)

/-- A count as an eight-bit field that saturates (R239). -/
def sat255 (n : Nat) : Nat := Nat.min n 255

/-- The word of STKQRY (R239). -/
def State.stackWord (s : State) (c : Core) (k : Nat) : Word :=
  let x := s.stack k
  let mineCmd (y : BankCmd) : Bool := c.crewRef?.isSome && decide (y.crew = c.crewRef?)
  let held := ((c.crewRef?.bind s.crew?).elim [] Crew.held).filter fun f => decide (f.stack = some k)
  let owner := s.owner k
  BitVec.ofNat 64 (sat255 (x.seqr.filter mineCmd).length * 2 ^ 40 + sat255 ((x.parked.filter mineCmd).length + held.length) * 2 ^ 32
    + otherCandidate owner k * 2 ^ 16 + owner * 2 ^ 8 + (!c.isSteward && s.claims c k).toNat * 4 + x.lock.isSome.toNat * 2
    + (decide (owner = c.id.die) && x.lock.isNone).toNat)

/-- STKQRY (R239). -/
def execStkqry (d a : BitVec 5) (opt : BitVec 8) (s : State) : Host.Outcome State Fault Refusal :=
  s.runAround false fun s => do
    let s ← s.raiseHeld false
    let w := s.me.rg a
    if w.toNat ≥ 128 || decide (opt ≠ 0) then s.bankTrap .bankcmd 0 0
    else .ok (s.upd fun c => (c.wg d (s.stackWord c w.toNat)).retire)

end Sys2Proof.Machine
end

