-- ==== Sys2Proof/Machine/Frames.lean ====
section
/-! DEFINITION. Repeat frames: which instructions a frame may hold, and their register fields on a replay (R81, R82). -/

namespace Sys2Proof.Machine

/-- A scalar field moved by a replay's shift; a field of 0 stays (R82). -/
def shiftG (g : Nat) (r : BitVec 5) : BitVec 5 := if r = 0 then 0 else BitVec.ofNat 5 (r.toNat + g)

/-- A vector field moved by a replay's shift (R82). -/
def shiftV (v : Nat) (r : BitVec 6) : BitVec 6 := BitVec.ofNat 6 (r.toNat + v)

/-- A capturable instruction with its register fields moved by `v` and `g`; none for one no frame may hold (R81, R82).
Mask registers, gates, immediates, chain and inv bits stay. -/
def stagger (v g : Nat) : Instr → Option Instr
  | .add d a b => some (.add (shiftG g d) (shiftG g a) (shiftG g b))
  | .sub d a b => some (.sub (shiftG g d) (shiftG g a) (shiftG g b))
  | .and d a b => some (.and (shiftG g d) (shiftG g a) (shiftG g b))
  | .or d a b => some (.or (shiftG g d) (shiftG g a) (shiftG g b))
  | .xor d a b => some (.xor (shiftG g d) (shiftG g a) (shiftG g b))
  | .sll d a b => some (.sll (shiftG g d) (shiftG g a) (shiftG g b))
  | .srl d a b => some (.srl (shiftG g d) (shiftG g a) (shiftG g b))
  | .sra d a b => some (.sra (shiftG g d) (shiftG g a) (shiftG g b))
  | .rotl d a b => some (.rotl (shiftG g d) (shiftG g a) (shiftG g b))
  | .rotr d a b => some (.rotr (shiftG g d) (shiftG g a) (shiftG g b))
  | .min d a b => some (.min (shiftG g d) (shiftG g a) (shiftG g b))
  | .max d a b => some (.max (shiftG g d) (shiftG g a) (shiftG g b))
  | .minu d a b => some (.minu (shiftG g d) (shiftG g a) (shiftG g b))
  | .maxu d a b => some (.maxu (shiftG g d) (shiftG g a) (shiftG g b))
  | .slt d a b => some (.slt (shiftG g d) (shiftG g a) (shiftG g b))
  | .sltu d a b => some (.sltu (shiftG g d) (shiftG g a) (shiftG g b))
  | .mul d a b => some (.mul (shiftG g d) (shiftG g a) (shiftG g b))
  | .mulh d a b => some (.mulh (shiftG g d) (shiftG g a) (shiftG g b))
  | .mulhu d a b => some (.mulhu (shiftG g d) (shiftG g a) (shiftG g b))
  | .div d a b => some (.div (shiftG g d) (shiftG g a) (shiftG g b))
  | .divu d a b => some (.divu (shiftG g d) (shiftG g a) (shiftG g b))
  | .rem d a b => some (.rem (shiftG g d) (shiftG g a) (shiftG g b))
  | .remu d a b => some (.remu (shiftG g d) (shiftG g a) (shiftG g b))
  | .clz d a => some (.clz (shiftG g d) (shiftG g a))
  | .ctz d a => some (.ctz (shiftG g d) (shiftG g a))
  | .cpop d a => some (.cpop (shiftG g d) (shiftG g a))
  | .addsh d a b s => some (.addsh (shiftG g d) (shiftG g a) (shiftG g b) s)
  | .slli d a h j => some (.slli (shiftG g d) (shiftG g a) h j)
  | .srli d a h j => some (.srli (shiftG g d) (shiftG g a) h j)
  | .srai d a h j => some (.srai (shiftG g d) (shiftG g a) h j)
  | .addi d a i => some (.addi (shiftG g d) (shiftG g a) i)
  | .andi d a k => some (.andi (shiftG g d) (shiftG g a) k)
  | .ori d a k => some (.ori (shiftG g d) (shiftG g a) k)
  | .xori d a k => some (.xori (shiftG g d) (shiftG g a) k)
  | .slti d a i => some (.slti (shiftG g d) (shiftG g a) i)
  | .vcvt d a t s m c r => some (.vcvt (shiftV v d) (shiftV v a) t s m c r)
  | .vmv d a m c n => some (.vmv (shiftV v d) (shiftV v a) m c n)
  | .vmvx d a c => some (.vmvx (shiftG g d) (shiftV v a) c)
  | .vbcast d s m n => some (.vbcast (shiftV v d) (shiftG g s) m n)
  | .vfsqrt d a m c n => some (.vfsqrt (shiftV v d) (shiftV v a) m c n)
  | .vfrcp d a m c n => some (.vfrcp (shiftV v d) (shiftV v a) m c n)
  | .vfrsq d a m c n => some (.vfrsq (shiftV v d) (shiftV v a) m c n)
  | .vfexp2 d a m c n => some (.vfexp2 (shiftV v d) (shiftV v a) m c n)
  | .vflog2 d a m c n => some (.vflog2 (shiftV v d) (shiftV v a) m c n)
  | .vfclass d a m c n => some (.vfclass (shiftV v d) (shiftV v a) m c n)
  | .vfkey d a m c n => some (.vfkey (shiftV v d) (shiftV v a) m c n)
  | .vredsum d a m c n => some (.vredsum (shiftV v d) (shiftV v a) m c n)
  | .vredmax d a m c n => some (.vredmax (shiftV v d) (shiftV v a) m c n)
  | .vredmin d a m c n => some (.vredmin (shiftV v d) (shiftV v a) m c n)
  | .vfredsum d a m c n => some (.vfredsum (shiftV v d) (shiftV v a) m c n)
  | .vfredmax d a m c n => some (.vfredmax (shiftV v d) (shiftV v a) m c n)
  | .vmerge d a b m c e => some (.vmerge (shiftV v d) (shiftV v a) (shiftV v b) m c e)
  | .vslideup d a s m c n => some (.vslideup (shiftV v d) (shiftV v a) (shiftG g s) m c n)
  | .vslidedn d a s m c n => some (.vslidedn (shiftV v d) (shiftV v a) (shiftG g s) m c n)
  | .vperm d a b m c e => some (.vperm (shiftV v d) (shiftV v a) (shiftV v b) m c e)
  | .vcompress d a m c n => some (.vcompress (shiftV v d) (shiftV v a) m c n)
  | .vincx d a b m c e => some (.vincx (shiftV v d) (shiftV v a) (shiftV v b) m c e)
  | .vidx d a b m n => some (.vidx (shiftV v d) (shiftG g a) (shiftG g b) m n)
  | .vaddVv d a b m c e => some (.vaddVv (shiftV v d) (shiftV v a) (shiftV v b) m c e)
  | .vsubVv d a b m c e => some (.vsubVv (shiftV v d) (shiftV v a) (shiftV v b) m c e)
  | .vmulVv d a b m c e => some (.vmulVv (shiftV v d) (shiftV v a) (shiftV v b) m c e)
  | .vmulhVv d a b m c e => some (.vmulhVv (shiftV v d) (shiftV v a) (shiftV v b) m c e)
  | .vaddVs d a s m c n => some (.vaddVs (shiftV v d) (shiftV v a) (shiftG g s) m c n)
  | .vsubVs d a s m c n => some (.vsubVs (shiftV v d) (shiftV v a) (shiftG g s) m c n)
  | .vmulVs d a s m c n => some (.vmulVs (shiftV v d) (shiftV v a) (shiftG g s) m c n)
  | .vmulhVs d a s m c n => some (.vmulhVs (shiftV v d) (shiftV v a) (shiftG g s) m c n)
  | .vaddVi d a k m c n => some (.vaddVi (shiftV v d) (shiftV v a) k m c n)
  | .vsubVi d a k m c n => some (.vsubVi (shiftV v d) (shiftV v a) k m c n)
  | .vmulVi d a k m c n => some (.vmulVi (shiftV v d) (shiftV v a) k m c n)
  | .vmulhVi d a k m c n => some (.vmulhVi (shiftV v d) (shiftV v a) k m c n)
  | .vmacVv d a b m c e => some (.vmacVv (shiftV v d) (shiftV v a) (shiftV v b) m c e)
  | .vminVv d a b m c e => some (.vminVv (shiftV v d) (shiftV v a) (shiftV v b) m c e)
  | .vmaxVv d a b m c e => some (.vmaxVv (shiftV v d) (shiftV v a) (shiftV v b) m c e)
  | .vabsdVv d a b m c e => some (.vabsdVv (shiftV v d) (shiftV v a) (shiftV v b) m c e)
  | .vmacVs d a s m c n => some (.vmacVs (shiftV v d) (shiftV v a) (shiftG g s) m c n)
  | .vminVs d a s m c n => some (.vminVs (shiftV v d) (shiftV v a) (shiftG g s) m c n)
  | .vmaxVs d a s m c n => some (.vmaxVs (shiftV v d) (shiftV v a) (shiftG g s) m c n)
  | .vabsdVs d a s m c n => some (.vabsdVs (shiftV v d) (shiftV v a) (shiftG g s) m c n)
  | .vmacVi d a k m c n => some (.vmacVi (shiftV v d) (shiftV v a) k m c n)
  | .vminVi d a k m c n => some (.vminVi (shiftV v d) (shiftV v a) k m c n)
  | .vmaxVi d a k m c n => some (.vmaxVi (shiftV v d) (shiftV v a) k m c n)
  | .vabsdVi d a k m c n => some (.vabsdVi (shiftV v d) (shiftV v a) k m c n)
  | .vandVv d a b m c e => some (.vandVv (shiftV v d) (shiftV v a) (shiftV v b) m c e)
  | .vorVv d a b m c e => some (.vorVv (shiftV v d) (shiftV v a) (shiftV v b) m c e)
  | .vxorVv d a b m c e => some (.vxorVv (shiftV v d) (shiftV v a) (shiftV v b) m c e)
  | .vsllVv d a b m c e => some (.vsllVv (shiftV v d) (shiftV v a) (shiftV v b) m c e)
  | .vandVs d a s m c n => some (.vandVs (shiftV v d) (shiftV v a) (shiftG g s) m c n)
  | .vorVs d a s m c n => some (.vorVs (shiftV v d) (shiftV v a) (shiftG g s) m c n)
  | .vxorVs d a s m c n => some (.vxorVs (shiftV v d) (shiftV v a) (shiftG g s) m c n)
  | .vsllVs d a s m c n => some (.vsllVs (shiftV v d) (shiftV v a) (shiftG g s) m c n)
  | .vandVi d a k m c n => some (.vandVi (shiftV v d) (shiftV v a) k m c n)
  | .vorVi d a k m c n => some (.vorVi (shiftV v d) (shiftV v a) k m c n)
  | .vxorVi d a k m c n => some (.vxorVi (shiftV v d) (shiftV v a) k m c n)
  | .vsllVi d a k m c n => some (.vsllVi (shiftV v d) (shiftV v a) k m c n)
  | .vsrlVv d a b m c e => some (.vsrlVv (shiftV v d) (shiftV v a) (shiftV v b) m c e)
  | .vsraVv d a b m c e => some (.vsraVv (shiftV v d) (shiftV v a) (shiftV v b) m c e)
  | .vsaddVv d a b m c e => some (.vsaddVv (shiftV v d) (shiftV v a) (shiftV v b) m c e)
  | .vssubVv d a b m c e => some (.vssubVv (shiftV v d) (shiftV v a) (shiftV v b) m c e)
  | .vsrlVs d a s m c n => some (.vsrlVs (shiftV v d) (shiftV v a) (shiftG g s) m c n)
  | .vsraVs d a s m c n => some (.vsraVs (shiftV v d) (shiftV v a) (shiftG g s) m c n)
  | .vsaddVs d a s m c n => some (.vsaddVs (shiftV v d) (shiftV v a) (shiftG g s) m c n)
  | .vssubVs d a s m c n => some (.vssubVs (shiftV v d) (shiftV v a) (shiftG g s) m c n)
  | .vsrlVi d a k m c n => some (.vsrlVi (shiftV v d) (shiftV v a) k m c n)
  | .vsraVi d a k m c n => some (.vsraVi (shiftV v d) (shiftV v a) k m c n)
  | .vsaddVi d a k m c n => some (.vsaddVi (shiftV v d) (shiftV v a) k m c n)
  | .vssubVi d a k m c n => some (.vssubVi (shiftV v d) (shiftV v a) k m c n)
  | .vwaddVv d a b m c e => some (.vwaddVv (shiftV v d) (shiftV v a) (shiftV v b) m c e)
  | .vwmulVv d a b m c e => some (.vwmulVv (shiftV v d) (shiftV v a) (shiftV v b) m c e)
  | .vnsrVv d a b m c e => some (.vnsrVv (shiftV v d) (shiftV v a) (shiftV v b) m c e)
  | .vbextVv d a b m c e => some (.vbextVv (shiftV v d) (shiftV v a) (shiftV v b) m c e)
  | .vwaddVs d a s m c n => some (.vwaddVs (shiftV v d) (shiftV v a) (shiftG g s) m c n)
  | .vwmulVs d a s m c n => some (.vwmulVs (shiftV v d) (shiftV v a) (shiftG g s) m c n)
  | .vnsrVs d a s m c n => some (.vnsrVs (shiftV v d) (shiftV v a) (shiftG g s) m c n)
  | .vbextVs d a s m c n => some (.vbextVs (shiftV v d) (shiftV v a) (shiftG g s) m c n)
  | .vwaddVi d a k m c n => some (.vwaddVi (shiftV v d) (shiftV v a) k m c n)
  | .vwmulVi d a k m c n => some (.vwmulVi (shiftV v d) (shiftV v a) k m c n)
  | .vnsrVi d a k m c n => some (.vnsrVi (shiftV v d) (shiftV v a) k m c n)
  | .vbextVi d a k m c n => some (.vbextVi (shiftV v d) (shiftV v a) k m c n)
  | .vcmpVv d a b m c e q => some (.vcmpVv d (shiftV v a) (shiftV v b) m c e q)
  | .vcmpVs d a s m c n q => some (.vcmpVs d (shiftV v a) (shiftG g s) m c n q)
  | .vcmpVi d a k m c n q => some (.vcmpVi d (shiftV v a) k m c n q)
  | .vfaddVv d a b m c e => some (.vfaddVv (shiftV v d) (shiftV v a) (shiftV v b) m c e)
  | .vfsubVv d a b m c e => some (.vfsubVv (shiftV v d) (shiftV v a) (shiftV v b) m c e)
  | .vfmulVv d a b m c e => some (.vfmulVv (shiftV v d) (shiftV v a) (shiftV v b) m c e)
  | .vfmaVv d a b m c e => some (.vfmaVv (shiftV v d) (shiftV v a) (shiftV v b) m c e)
  | .vfaddVs d a s m c n => some (.vfaddVs (shiftV v d) (shiftV v a) (shiftG g s) m c n)
  | .vfsubVs d a s m c n => some (.vfsubVs (shiftV v d) (shiftV v a) (shiftG g s) m c n)
  | .vfmulVs d a s m c n => some (.vfmulVs (shiftV v d) (shiftV v a) (shiftG g s) m c n)
  | .vfmaVs d a s m c n => some (.vfmaVs (shiftV v d) (shiftV v a) (shiftG g s) m c n)
  | .vfdivVv d a b m c e => some (.vfdivVv (shiftV v d) (shiftV v a) (shiftV v b) m c e)
  | .vfminVv d a b m c e => some (.vfminVv (shiftV v d) (shiftV v a) (shiftV v b) m c e)
  | .vfmaxVv d a b m c e => some (.vfmaxVv (shiftV v d) (shiftV v a) (shiftV v b) m c e)
  | .vfdivVs d a s m c n => some (.vfdivVs (shiftV v d) (shiftV v a) (shiftG g s) m c n)
  | .vfminVs d a s m c n => some (.vfminVs (shiftV v d) (shiftV v a) (shiftG g s) m c n)
  | .vfmaxVs d a s m c n => some (.vfmaxVs (shiftV v d) (shiftV v a) (shiftG g s) m c n)
  | .vfcmpVv d a b m c e q => some (.vfcmpVv d (shiftV v a) (shiftV v b) m c e q)
  | .vfcmpVs d a s m c n q => some (.vfcmpVs d (shiftV v a) (shiftG g s) m c n q)
  | _ => none

/-- The instruction a frame executes next, its fields staggered for the replay. -/
def Frame.instr (f : Frame) : Option Instr :=
  match decode ((f.words[f.idx]?.getD 0).toNat) with
  | .ok i => stagger (f.replay * f.vstride) (f.replay * f.gstride) i
  | .error _ => none

end Sys2Proof.Machine
end

