-- ==== Sys2Proof/Machine/Fetch.lean ====
section
/-! DEFINITION. Fetching an instruction's bytes (R105, R118). -/

namespace Sys2Proof.Machine

/-- What a fetch ends in. -/
inductive Fetched where
  | word (w : BitVec 32)
  | fault (t : TrapInfo)
  | wait (w : Wait)
  deriving DecidableEq, Repr

/-- The element number under which a core asks remote memory for an instruction word. -/
def fetchElem : Nat := 2 ^ 31

/-- The instruction word at an address, for the core whose turn it is (R105): a word of the panel's memory as the core's last
IFENCE found it, and a word of remote memory that the core has fetched since then as it was, because fetch observes no store
until an IFENCE; bytes that it stored before the IFENCE into its side log are fetched once they are replayed (R118; log 13). DESIGN CHOICE: an address
that is not a multiple of 4, to which RETT or a steward's write may bring a program counter, traps ALIGN at the fetch (log 34). -/
def State.fetchAt (s : State) (a : Word) : State × Fetched :=
  let c := s.me
  if s.walkLost .fetch a 4 then (s, .fault (causeAt .link a))
  else
  match s.walkWait .fetch a 4 with
  | some w => (s, .wait w)
  | none =>
    let s := s.walked .fetch a 4
    match s.resolve false .fetch a 4 4 with
    | .error t => (s, .fault t)
    | .ok (s, p) =>
      if s.orphaned p then (s, .fault (causeAt .link a))
      else if s.fenceCovers c.id a 4 then (s, .wait (.covered true a 4))
      else if isFar p.loc then
        match tblGet? p.loc c.fetched with
        | some w => (s, .word w)
        | none =>
          match c.answered fetchElem p.loc 4 with
          | some bs =>
            let w := BitVec.ofNat 32 (bytesNat bs)
            (s.upd fun c => { c with fetched := tblSet p.loc w c.fetched }, .word w)
          | none =>
            match s.awaitRemote (α := Unit) c.id p.loc a fetchElem [] 4 none with
            | .ok _ => (s, .wait .none)
            | .error h => (h.st, match h.why with | .wait w => .wait w | .trap t _ _ => .fault t | .stop => .wait .none)
      else
        match s.accessWait c.id.die p with
        | some w => (s, .wait w)
        | none => (s, .word (BitVec.ofNat 32 (bytesNat ((s.asOf c.code).peek c.id.die p 4))))

/-- The next instruction word. -/
def State.fetch (s : State) : State × Fetched := s.fetchAt s.me.curPc

end Sys2Proof.Machine
end

