-- ==== Sys2Proof/Machine/Lanes.lean ====
section
/-! DEFINITION. Lane threads and repeat frames: VSPLIT, VJOIN, REPF (R163 to R168, R81). -/

namespace Sys2Proof.Machine

/-- The first lanes of a hart's grant, as a set. -/
def lanesBelow (n : Nat) : BitVec 16 := BitVec.ofNat 16 (2 ^ n - 1)

/-- VSPLIT (R163): the strip closes, and lane threads 0 to cr.grant − 1 start after it. -/
def execVsplit (w : BitVec 1) (s : State) : Host.Outcome State Fault Refusal :=
  s.run false fun s => do
    let s ← s.close
    .ok (s.upd fun c => { c.ringOutside.retire with
      split := ⟨true, decide (w = 1), lanesBelow c.grant.toNat, 0, 0, 0, Vector.replicate 16 (c.pc + 4), 15⟩ })

/-- The lane thread's own bit. -/
def Core.laneBit (c : Core) : BitVec 16 := BitVec.ofNat 16 (2 ^ c.split.lane.val)

/-- The lowest lane thread at a VJOIN. -/
def Split.joiner (x : Split) : Option (Fin 16) :=
  (List.finRange 16).find? fun j => x.waiting.getLsbD j.val

/-- The hart leaves split mode once no lane thread is active: it goes on after the VJOIN of the lowest lane thread that
has not halted, where R166 puts a checkpoint (R165). Nothing changes while one is active, or when all have halted. -/
def Core.joinIfDone (c : Core) : Core :=
  if c.split.active = 0 then
    match c.split.joiner with
    | some j =>
      { c with
        split := .off
        pc := c.split.pcs.get j + 4
        stepwise := true
        laneWaits := []
        wait := .none }.putCkpt (c.split.pcs.get j + 4)
    | none => c
  else c

/-- VJOIN (R165): the lane thread waits; outside split mode it acts as NOP. -/
def execVjoin (s : State) : Host.Outcome State Fault Refusal :=
  s.run true fun s => .ok (s.upd fun c =>
    if c.split.on then
      let c := c.ringOutside
      { c.clearRemote.clearLane with split := { c.split with
        active := c.split.active &&& ~~~c.laneBit
        waiting := c.split.waiting ||| c.laneBit } }.joinIfDone
    else (c.ring c.curPc 0 0 0).retire)

/-- The words of a frame from an address on, all fetched and checked before any executes (R81): the address of the first
that is not capturable traps ILLEGAL. DESIGN CHOICE: each word is fetched and checked before the next, so that of several causes, those
of fetching included, the lowest address has its own taken, for R81 names no first one (log 34). -/
def State.frameWords (s : State) (a : Word) : Nat → Except Halt (State × List (BitVec 32))
  | 0 => .ok (s, [])
  | n + 1 =>
    match s.fetchAt a with
    | (s, .fault t) => .error ⟨s, .trap t a (decide (t.cause = .link))⟩
    | (s, .wait w) => s.stall w
    | (s, .word w) =>
      match decode w.toNat with
      | .error _ => .error ⟨s, .trap { cause := .illegal } a false⟩
      | .ok i =>
        if (stagger 0 0 i).isNone then .error ⟨s, .trap { cause := .illegal } a false⟩
        else do
          let (s, ws) ← s.frameWords (a + 4) n
          .ok (s, w :: ws)

/-- REPF (R81, R167): count 0 passes the frame, count 1 runs it as unframed code, and a greater count takes a checkpoint
around the whole frame. -/
def execRepf (n : BitVec 4) (v : BitVec 6) (g r : BitVec 5) (s : State) : Host.Outcome State Fault Refusal :=
  s.run false fun s => do
    let count := (s.me.rg r).toNat % 2 ^ 32
    let (s, ws) ← s.frameWords (s.me.pc + 4) (n.toNat + 1)
    if count = 0 then .ok (s.upd fun c => (c.ring c.pc 0 0 0).retireTo (c.pc + 4 + BitVec.ofNat 64 (4 * (n.toNat + 1))))
    else if count = 1 then .ok (s.upd fun c => (c.ring c.pc 0 0 0).retire)
    else
      let s ← s.checkpoint
      .ok (s.upd fun c => { (c.ring c.pc 0 0 0).retire with frame := some ⟨c.pc + 4, ws, 0, count, v.toNat, g.toNat, 0⟩ })

end Sys2Proof.Machine
end

