-- ==== Sys2Proof/Machine/System.lean ====
section
/-! DEFINITION. The system group, SETVL and SETVLQ, topology and energy (R22 to R24, R118 to R126, R133, R134). -/

namespace Sys2Proof.Machine

/-- SVC (R119): the hart parks with the code in the fault record; cr.ckpt is then the address after it. -/
def execSvc (n : BitVec 12) (s : State) : Host.Outcome State Fault Refusal :=
  s.runAround false fun s => s.precise (causeAt .svc (n.setWidth 64))

/-- BRK (R119). -/
def execBrk (n : BitVec 12) (s : State) : Host.Outcome State Fault Refusal :=
  s.run true fun s => s.precise (causeAt .brk (n.setWidth 64))

/-- NOP (R118). -/
def execNop (s : State) : Host.Outcome State Fault Refusal := s.run true fun s => .ok s.retire

/-- A lane thread ends; with the last one the hart ends, or leaves split mode with those that wait (R118, R165). -/
def State.haltLane (s : State) : State :=
  let s := s.upd fun c =>
    { c.clearRemote.clearLane with split := { c.split with
      active := c.split.active &&& ~~~c.laneBit
      halted := c.split.halted ||| c.laneBit } }.joinIfDone
  let c := s.me
  if c.split.on && decide (c.split.active = 0) then s.endHart c else s

/-- What a hart that ends has written in copies of its die goes home, as a line may at any time (R271): the barriers that it
counts as having reached from now on order it (R196). -/
def State.haltRelease (s : State) : Except Halt State := s.evictOwn s.me.id true true

/-- HALT (R118): closes the strip, raises a fault held for the hart (R226), and ends the hart or lane thread. -/
def execHalt (s : State) : Host.Outcome State Fault Refusal :=
  s.run true fun s => do
    if s.me.split.on then (s.haltRelease).map State.haltLane
    else
      let s ← s.checkpoint
      let s ← s.raiseHeld false
      (s.haltRelease).map fun s => s.endHart s.me

/-- YIELD (R118, R255): closes the strip; a hart asked to stop stops after it. -/
def execYield (s : State) : Host.Outcome State Fault Refusal :=
  s.run true fun s =>
    if s.me.split.on then .ok s.retire
    else do
      let s ← s.closeStrip
      let s := s.retire
      .ok (if s.me.stopAsked then s.upd Core.stopHere else s)

/-- WFE (R118): clears the event latch and goes on, or waits for it. -/
def execWfe (s : State) : Host.Outcome State Fault Refusal :=
  s.run true fun s =>
    if s.me.latch then .ok (s.upd fun c => { c with latch := false }.retire) else s.stall .wfe

/-- The side-log entries of a core marked as ones that an IFENCE has followed. -/
def State.fenceLog (s : State) (id : CoreId) : State :=
  s.modCell id.cell fun y => { y with log := y.log.map fun e => if s.ownEntry id e then { e with fenced := true } else e }

/-- IFENCE (R118): closes the strip; instructions fetched after it observe the stores made before it, those in the side log
once they are replayed, which a fetch of their bytes waits for. -/
def execIfence (s : State) : Host.Outcome State Fault Refusal :=
  s.run false fun s => do
    let s ← s.close
    .ok ((s.fenceLog s.me.id).upd fun c => { c with code := s.codeView, fetched := [] }.retire)

/-- RETT (R122): at user level ILLEGAL unless a user handler is active; on a steward core by R361 and R364. -/
def execRett (s : State) : Host.Outcome State Fault Refusal :=
  s.run true fun s =>
    let c := s.me
    if c.isSteward && decide (c.level ≠ .user) then
      .ok (s.upd fun c => { c with wait := .none, remote := [] }.stewardReturn)
    else if c.cause.active then
      .ok (s.upd fun c => { c with cause := { c.cause with active := false }, ckptKept := false }.retireTo
        (if c.cause.restart then c.ckpt else c.epc))
    else s.precise { cause := .illegal }

/-- A crew's energy account in µJ (R126). A steward core has no crew. -/
def State.account (s : State) (c : Core) : Word :=
  match c.crewRef?.bind s.crew? with
  | some k => BitVec.ofNat 64 (k.energy / 1000)
  | none => 0

/-- The share of a crew that is measured and not yet posted, added to its account (R126; log 1). -/
def State.postShare (s : State) (c : Core) : State :=
  match c.crewRef? with
  | some r =>
    { s with ticks := s.ticks + 1 }.modCrew r fun k => { k with energy := k.energy + Config.unposted s.ticks }
  | none => s

/-- Logical cells of the panel by grade (R124, R125). -/
def State.panelCells (s : State) : Nat := s.part.grade

/-- The logical number of a hart's cell (R124). -/
def State.cellNumber (s : State) (c : Core) : Nat :=
  64 * (s.logicalDie? c.id.die).getD 0 + c.id.pos

/-- A topology item (R125). -/
def State.topo (s : State) (c : Core) (i : Nat) : Option Word :=
  let full : Bool := decide (s.part.grade = 8192)
  match i with
  | 0x000 => some (BitVec.ofNat 64 s.panelCells)
  | 0x001 => some 128
  | 0x002 => some (if full then 64 else 61)
  | 0x003 => some (if full then 63 else 61)
  | 0x004 => some (if full then 128 else 32)
  | 0x005 => some (if full then 128 else 123)
  | 0x006 => some (if c.isSteward then BitVec.allOnes 64 else BitVec.ofNat 64 (s.cellNumber c))
  | 0x007 => some (BitVec.ofNat 64 c.id.die)
  | 0x008 =>
    match stacksOf c.id.die with
    | lo :: hi :: _ => some (BitVec.ofNat 64 (hi * 2 ^ 8 + lo))
    | _ => some 0
  | 0x009 => some (s.panel.setWidth 64)
  | 0x00A => some (if c.isSteward then 0 else BitVec.ofNat 64 (s.cellsOfDie c.id.die))
  | _ => none

/-- TOPO (R125). -/
def execTopo (d : BitVec 5) (i : BitVec 12) (s : State) : Host.Outcome State Fault Refusal :=
  s.run true fun s =>
    match s.topo s.me i.toNat with
    | some x => .ok (s.upd fun c => (c.wg d x).retire)
    | none => s.precise { cause := .illegal }

/-- A pending reclaim or return applied, with the lanes given up handed out (R22, R24, R253, R254). -/
def State.applyGrant (s : State) : State :=
  let c := s.me
  match c.target with
  | none => s
  | some t =>
    let s := s.upd fun c => { c with grant := t, target := none }
    if t < c.grant then s.laneReturn c.id.die c.id.pos else s

/-- The vector state a SETVL sets for a request (R22), with the strip it opens at its own address. -/
def Core.setVector (c : Core) (d : BitVec 5) (avl rows : Nat) (f : BitVec 4) (g : BitVec 2) : Core :=
  let w := fmtWidth f
  let grp := 2 ^ g.toNat
  let ill : Bool := decide (w / 2 < grp)
  let vl := if ill then 0 else Nat.min avl (grp * c.grant.toNat * 64 / w)
  let c := { c with
    ill := ill
    glog := if ill then 0 else g
    fmt := if ill then 0 else f
    vl := BitVec.ofNat 10 vl
    rc := BitVec.ofNat 4 rows
    stepwise := false }
  let c := if c.strips then c.putCkpt c.pc else c
  (c.wg d (BitVec.ofNat 64 vl)).retire

/-- SETVL (R22, R133, R252): its strip closed at its own address, and released by the gate of its cell. -/
def execSetvl (d a : BitVec 5) (r : BitVec 3) (f : BitVec 4) (g : BitVec 2) (s : State) :
    Host.Outcome State Fault Refusal :=
  s.run false fun s => do
    let s ← s.checkpoint
    let s ← s.gate 0
    let avl := (s.me.rg a).toNat
    .ok (s.applyGrant.upd fun c => c.setVector d avl (r.toNat + 1) f g)

/-- SETVLQ with its strip closed (R134, R252): it pops the head of the length queue, which its strip remembers, or waits. -/
def State.popSetvl (s : State) (d : BitVec 5) (r : BitVec 3) (f : BitVec 4) (g : BitVec 2) : Except Halt State :=
  match s.me.lq with
  | [] => s.stall (.lqPop d r f g)
  | e :: rest =>
    (s.gate 0).map fun s => s.applyGrant.upd fun c =>
      { c with lq := rest, strip := { c.strip with popped := if c.strips then some e.val else none } }.setVector d
        e.val.toNat (r.toNat + 1) f g

/-- SETVLQ (R134). -/
def execSetvlq (d : BitVec 5) (r : BitVec 3) (f : BitVec 4) (g : BitVec 2) (s : State) :
    Host.Outcome State Fault Refusal :=
  s.run false fun s => do
    let s ← s.checkpoint
    s.popSetvl d r f g

end Sys2Proof.Machine
end

