-- ==== Sys2Proof/Machine/HartEvents.lean ====
section
/-! DEFINITION. What happens to a hart between its instructions: traps of fetching and decoding, asynchronous causes, the
ends of waits, and the events that are these (R69, R87, R103, R105, R112, R117, R118, R134, R194, R196, R197, R210, R226,
R233, R234, R252). -/

namespace Sys2Proof.Machine

/-- A word that is not an instruction traps ILLEGAL precisely (R69). -/
def State.illegalTrap (s : State) : State :=
  s.takeTrap { cause := .illegal } s.me.curPc false

/-- A fetch that faults traps at the fetch address (R105), precisely but for LINK. -/
def State.fetchTrap (s : State) (t : TrapInfo) : State :=
  s.takeTrap t s.me.curPc (decide (t.cause = .link))

/-- A pending asynchronous cause taken at an instruction boundary, the first in the order ECC, LINK, ENERGY (R87). -/
def State.asyncTrap (s : State) : State :=
  let c := s.me
  match c.pending.ecc, c.pending.link with
  | some a, _ =>
    (s.upd fun c => { c with pending := { c.pending with ecc := none } }).takeTrap (causeAt .ecc a) c.curPc true
  | none, some a =>
    (s.upd fun c => { c with pending := { c.pending with link := none } }).takeTrap (causeAt .link a) c.curPc true
  | none, none =>
    if c.pending.energy then
      (s.upd fun c => { c with pending := { c.pending with energy := false } }).takeTrap (causeAt .energy 0) c.curPc true
    else s

/-- A pending asynchronous cause that an instruction boundary takes; none inside a repeat frame (R87, R167). -/
def Core.asyncDue (c : Core) : Bool :=
  c.frame.isNone && (c.pending.ecc.isSome || c.pending.link.isSome || c.pending.energy)

/-- A core whose next instruction would be fetched now: at an instruction boundary outside repeat frames, with no cause or
interrupt to be taken before it (R87, R167, R361). -/
def Core.fetches (c : Core) : Bool :=
  c.frame.isNone && decide (c.wait = .none) && c.parked.isNone && !c.stopped && !c.asyncDue
    && !(c.isSteward && c.st.mip && c.st.mie)

/-- A waiting WFE with the latch set clears it and continues (R118). -/
def State.wfeWake (s : State) : State :=
  s.upd fun c =>
    let lane := BitVec.ofNat 16 (2 ^ c.split.lane.val)
    if !c.latch then c
    else if c.split.on then
      if c.split.wfe &&& lane = 0 then c
      else { c with latch := false, split := { c.split with wfe := c.split.wfe &&& ~~~lane } }.retire
    else if c.wait = .wfe then { c with latch := false }.retire
    else c

/-- WFE goes on without an event (R118): the hart's, or the first waiting lane thread's. -/
def Core.wfeTimeout (c : Core) : Core :=
  if c.split.on then
    match (List.range 16).find? fun j => c.split.wfe.getLsbD j with
    | none => c
    | some j =>
      { c with split := { c.split with
          lane := Fin.ofNat 16 j
          wfe := c.split.wfe &&& ~~~(BitVec.ofNat 16 (2 ^ j)) } }.retire
  else if c.wait = .wfe then c.retire
  else c

/-- A wait taken up again has its checkpoint around it (R115), which the wait closed the strip for. -/
def State.takeUp (s : State) : State := s.upd fun c => { c with around := c.strips && c.frame.isNone }

/-- A hart waiting in CBAR or TBAR: a fault held for it is raised, and its count withdrawn (R226); else it leaves once the
barrier is met (R196). -/
def State.wakeBarrier (s : State) (train : Bool) (n : Nat) (panel : Bool) : Except Halt State := do
  let s := s.takeUp
  let t := s.upd fun c => if train then { c with tbars := c.tbars - 1 } else { c with cbars := c.cbars - 1 }
  if (s.heldFault s.me false).isSome then t.raiseHeld false else s.barrierWait train n panel

/-- A hart waiting in BOWAIT or BOARR: a fault held for it is raised (R226), or its phase is looked at (R194). -/
def State.wakePhase (s : State) (o : ObjRef) (va : Word) (token : Bool) (d : BitVec 5) : Except Halt State := do
  let s ← s.takeUp.raiseHeld false
  s.phaseWait o va token d

/-- The bucket of a core's cell is below its level (R252). -/
def State.gateOpen (s : State) (c : Core) : Bool := decide ((s.cell c.id.cell).bucket < (s.die c.id.die).level.toNat)

/-- The core whose turn it is goes on from its wait if the wait has ended: those that hold their instruction complete it;
the others issue theirs again. Unchanged while the condition does not hold. -/
def State.wake (s : State) : State :=
  match s.me.wait with
  | .none => s
  | .wfe => s.wfeWake
  | .phase o va token d => settle (s.wakePhase o va token d)
  | .barrier train n panel => settle (s.wakeBarrier train n panel)
  | .lqPop d r f g => settle (s.popSetvl d r f g)
  | .engine op d a b => settle (s.issueStream op d a b)
  | .sequencer stack cmd va d n => settle (s.wakeSequencer stack cmd va d n)
  | .seal off d a x => settle (s.issueSeal off d a x 0)
  | .sideLog => settle ((s.close).map fun s => s.upd fun c => { c with wait := .none })
  | .gate cost => if s.gateOpen s.me then (s.releaseGate s.me.id cost).upd fun c => { c with wait := .none } else s
  | .lqPush | .replay | .covered _ _ _ | .scoreboard _ _ _ | .lockage _ | .remote _ | .retrain _ _ => s.upd fun c => { c with wait := .none }

/-- A lane thread that is not stopped for good or by another: active, not at VJOIN, not halted, in WFE only with the latch
set, and while a lane thread's handler runs only that lane (R120, R164, R165). -/
def Core.laneMayIssue (c : Core) (j : Nat) : Bool :=
  let x := c.split
  x.active.getLsbD j && !x.waiting.getLsbD j && !x.halted.getLsbD j && (!x.wfe.getLsbD j || c.latch)
    && (!(c.cause.active && c.cause.split) || decide (c.cause.lane.toNat = j))

/-- SEALARM or SEALOFF may go on from its wait (R233, R234). -/
def State.sealReady (s : State) (c : Core) (off : Bool) (a x : BitVec 5) : Bool :=
  if off then !s.frameRead (s.regionFrames c (c.rg a) ((c.rg x).toNat / 2 ^ 28))
  else !s.regionLogged c (c.rg a) (c.rg x).toNat

/-- The wait of a core may have ended. -/
def State.wakeable (s : State) (c : Core) : Bool :=
  match c.wait with
  | .none => true
  | .wfe => c.latch
  | .phase o _ token _ => (s.heldFault c false).isSome || (match s.objLoc? o with
      | none => false
      | some l => let d1 := (s.objWords l).2; !objMagic d1 || objErr d1 || objPhase d1 != token)
  | .barrier train n _ => (s.heldFault c false).isSome || c.crew.elim true fun x => s.barrierMet x.1 train n
  | .lqPop _ _ _ _ => !c.lq.isEmpty
  | .lqPush => decide (c.lq.length + c.rcn ≤ 8)
  | .engine _ _ _ _ => decide ((s.cell c.id.cell).queue.length < 16) || (s.heldFault c true).isSome
  | .sequencer stack cmd _ _ _ => !s.sequencerFull c.id stack cmd || (s.heldFault c false).isSome || s.notOwner c stack
  | .seal off _ a x => s.sealReady c off a x || (s.heldFault c false).isSome
  | .sideLog => decide ((s.cell c.id.cell).log.length < 64)
  | .replay => !s.logged c.id
  | .covered fetch va n => !(if fetch then s.fenceCovers c.id va n else s.logCovers c.id va n)
  | .scoreboard loc n write => !s.scoreboard c.id loc n write
  | .lockage k => (s.stack k).lock.isNone
  | .remote 0 => !s.unacked c.id
  | .remote id => !s.outbound.any fun o => decide (o.id = id)
  | .gate _ => s.gateOpen c
  | .retrain k g => !(s.stack k).retrain.contains g

/-- A lane thread that can issue: none of its waits holds it back (R250, R251). -/
def State.laneReady (s : State) (c : Core) (j : Nat) : Bool :=
  c.laneMayIssue j && (tblGet? j c.laneWaits).all fun w => s.wakeable { c with wait := w }

/-- The lane that issues next: round-robin from the lane after the one that issued last (R251). -/
def State.nextLane (s : State) (c : Core) : Option (Fin 16) :=
  (List.range 16).findSome? fun k =>
    let j : Fin 16 := Fin.ofNat 16 (c.split.lane.val + 1 + k)
    if s.laneReady c j.val then some j else none

/-- An event of one core, in its own turn; `cur` stays as it was. A parked or stopped core has none. -/
def State.asCore (s : State) (id : CoreId) (f : State → State) : State :=
  match s.core? id with
  | none => s
  | some c => if c.parked.isSome || c.stopped then s else { f { s with cur := id } with cur := s.cur }

/-- An event that ends a wait which `ok` accepts. -/
def State.wakeOn (s : State) (id : CoreId) (ok : Wait → Bool) : State :=
  s.asCore id fun s => if ok s.me.wait && s.wakeable s.me then s.wake else s

/-- The next instruction of the core whose turn it is, if its word can be fetched. -/
def State.nextInstr (s : State) : State × Option Instr :=
  match s.fetch with
  | (s, .word w) =>
    match decode w.toNat with
    | .ok i => (s, some i)
    | .error _ => (s, none)
  | (s, _) => (s, none)

/-- Instructions that close the strip before they do anything else (R112, R115), whatever they address. -/
def closesStrip : Instr → Bool
  | .setvl _ _ _ _ _ | .setvlq _ _ _ _ | .vsplit _ | .fence _ _ | .yield | .halt | .ifence | .svc _ | .enrg _ => true
  | .crw _ _ _ => true
  | .crs _ a _ => decide (a ≠ 0)
  | .crc _ a _ => decide (a ≠ 0)
  | .amoadd _ _ _ _ _ _ | .amoswap _ _ _ _ _ _ | .amocas _ _ _ _ _ _ | .amomin _ _ _ _ _ _ | .amomax _ _ _ _ _ _
  | .amoand _ _ _ _ _ _ | .amoor _ _ _ _ _ _ | .amoxor _ _ _ _ _ _ | .amofadd _ _ _ _ _ | .ldacq _ _ _ _ | .strel _ _ _ _ => true
  | .boinit _ _ | .boexp _ _ _ | .boadd _ _ _ | .boarr _ _ _ | .bowait _ _ _ | .cbar | .tbar => true
  | .scopy _ _ _ | .sfill _ _ _ | .sgath _ _ _ | .sscat _ _ _ | .launch _ _ _ | .dtld _ _ => true
  | .cbload _ _ _ _ | .tbuild _ _ _ _ | .bdtld _ _ _ _ | .lkacc _ _ _ _ | .lkrd _ _ _ _ | .lkclr _ _ _ _ | .rcopy _ _ _ _
  | .rfill _ _ _ _ | .sealarm _ _ _ _ | .sealoff _ _ _ _ | .stkpass _ _ _ _ | .stkqry _ _ _ => true
  | _ => false

/-- STRIP_CLOSE (R112): the hart stands at an instruction that closes its strip, and the strip closes. -/
def execStripClose (c : CoreId) (s : State) : Host.Outcome State Fault Refusal :=
  .next (s.asCore c fun s =>
    let (s, i) := s.nextInstr
    if s.me.wait = .none && s.me.frame.isNone && i.elim false closesStrip then settle s.close else s)

/-- Causes of the unwinding class short of the asynchronous ones (R86, R117). -/
def Cause.unwinds : Cause → Bool
  | .align | .straddle | .hugeabsent | .perm | .seal | .owner | .sparse | .stream | .layout | .table | .bankcmd | .bobj
  | .launch => true
  | .illegal | .priv | .vtype | .splitmode | .brk | .svc | .page | .ecc | .link | .energy => false

/-- ELEMENT_CAUSE_TRAP (R117): an element or engine cause that the vector unit or an engine has found is taken as an
unwinding trap; the instructions of a repeat frame raise none (R167). The meanings of instructions take the causes they
find themselves in the same way. -/
def execElementCauseTrap (c : CoreId) (t : TrapInfo) (s : State) : Host.Outcome State Fault Refusal :=
  .next (s.asCore c fun s =>
    if Cause.unwinds t.cause && s.me.strips && s.me.frame.isNone then s.takeTrap t s.me.curPc true else s)

/-- ASYNC_CAUSE_TRAP (R87). -/
def execAsyncCauseTrap (c : CoreId) (s : State) : Host.Outcome State Fault Refusal :=
  .next (s.asCore c fun s => if s.me.asyncDue then s.asyncTrap else s)

/-- WFE_WAKE (R118). -/
def execWfeWake (c : CoreId) (s : State) : Host.Outcome State Fault Refusal := .next (s.asCore c State.wfeWake)

/-- WFE_TIMEOUT (R118). -/
def execWfeTimeout (c : CoreId) (s : State) : Host.Outcome State Fault Refusal :=
  .next (s.asCore c fun s => s.upd Core.wfeTimeout)

/-- BOWAIT_RETURN (R194). -/
def execBowaitReturn (c : CoreId) (s : State) : Host.Outcome State Fault Refusal :=
  .next (s.wakeOn c fun w => match w with | .phase _ _ _ _ => true | _ => false)

/-- The waits of one barrier instance (R196). -/
def sameBarrier (train : Bool) (n : Nat) : Wait → Bool
  | .barrier t k _ => t == train && decide (k = n)
  | _ => false

/-- BARRIER_RELEASE (R196): every hart that waits at the instance of a waiting hart leaves, once it is met. -/
def State.barrierRelease (s : State) (id : CoreId) : State :=
  match s.core? id with
  | none => s
  | some c =>
    match c.wait, c.crewRef? with
    | .barrier train n _, some r =>
      let rs := (s.barrierCrews r train).map Crew.ref
      let mates := s.cores.filter fun k => sameBarrier train n k.wait && (k.crewRef?.elim false fun x => rs.contains x)
      mates.foldl (fun s k => s.wakeOn k.id (sameBarrier train n)) s
    | _, _ => s

def execBarrierRelease (c : CoreId) (s : State) : Host.Outcome State Fault Refusal := .next (s.barrierRelease c)

/-- SETVLQ_POP_RESUME (R134). -/
def execSetvlqPopResume (c : CoreId) (s : State) : Host.Outcome State Fault Refusal :=
  .next (s.wakeOn c fun w => match w with | .lqPop _ _ _ _ => true | _ => false)

/-- ENGINE_QUEUE_ROOM (R197). -/
def execEngineQueueRoom (c : CoreId) (s : State) : Host.Outcome State Fault Refusal :=
  .next (s.wakeOn c fun w => match w with | .engine _ _ _ _ => true | _ => false)

/-- SEQUENCER_ROOM (R210). -/
def execSequencerRoom (c : CoreId) (s : State) : Host.Outcome State Fault Refusal :=
  .next (s.wakeOn c fun w => match w with | .sequencer _ _ _ _ _ => true | _ => false)

/-- SIDE_LOG_ROOM (R103). -/
def execSideLogRoom (c : CoreId) (s : State) : Host.Outcome State Fault Refusal :=
  .next (s.wakeOn c fun w => decide (w = .sideLog))

/-- SEAL_WAIT_DONE (R233, R234). -/
def execSealWaitDone (c : CoreId) (s : State) : Host.Outcome State Fault Refusal :=
  .next (s.wakeOn c fun w => match w with | .seal _ _ _ _ => true | _ => false)

/-- Of the ready harts of a cell, the one ready longest; on a tie the lowest slot after the slot that issued last
(R250). -/
def earlier (last : Nat) (a b : Core) : Core :=
  let key (c : Core) : Nat := (c.id.slot + 3 - last % 4) % 4
  if b.readySince < a.readySince || (decide (b.readySince = a.readySince) && decide (key b < key a)) then b else a

/-- A wait at the dispatch gate. -/
def Wait.atGate : Wait → Bool
  | .gate _ => true
  | _ => false

/-- GATE_RELEASE (R252): the bucket has drained below its level, and the held instruction is charged; the held harts of a
cell in the order of R250. -/
def State.gateRelease (s : State) (id : CoreId) : State :=
  let held := s.cores.filter fun c => !c.isSteward && decide (c.id.cell = id.cell) && c.wait.atGate && c.parked.isNone && !c.stopped
  match held with
  | [] => s
  | c :: cs => if (cs.foldl (earlier (s.cell id.cell).lastSlot) c).id = id then s.wakeOn id Wait.atGate else s

def execGateRelease (c : CoreId) (s : State) : Host.Outcome State Fault Refusal := .next (s.gateRelease c)

/-- STREAM_CMD_PERFORM (R199). -/
def execStreamCmdPerform (die p id n : Nat) (s : State) : Host.Outcome State Fault Refusal :=
  .next (s.streamPerform die p id n)

/-- ILLEGAL_INSTRUCTION (R69): the core whose turn it is fetches a word that is no instruction. -/
def State.illegalFetched (s : State) (w : BitVec 32) : State :=
  match s.core? s.cur with
  | none => s
  | some c =>
    if !c.fetches then s
    else
      match s.fetch with
      | (t, .word x) => if x = w && (match decode w.toNat with | .ok _ => false | .error _ => true) then t.illegalTrap else s
      | _ => s

def execIllegalInstruction (w : BitVec 32) (s : State) : Host.Outcome State Fault Refusal := .next (s.illegalFetched w)

/-- FETCH_FAULT (R105): the core whose turn it is cannot fetch. -/
def State.fetchFaulted (s : State) (t : TrapInfo) : State :=
  match s.core? s.cur with
  | none => s
  | some c =>
    if !c.fetches then s
    else
      match s.fetch with
      | (u, .fault x) => if x = t then u.fetchTrap t else s
      | _ => s

def execFetchFault (t : TrapInfo) (s : State) : Host.Outcome State Fault Refusal := .next (s.fetchFaulted t)

end Sys2Proof.Machine
end

