-- ==== Sys2Proof/Machine/BankEvents.lean ====
section
/-! DEFINITION. What base dies do on their own: bank commands performed, parked and rejoined, segments committed, rows
copied, and the steps of a lockage (R213, R215, R217 to R219, R221, R224 to R232, R236, R238, R271, R306, R307, R410, R417). -/

namespace Sys2Proof.Machine

/-- A command in a stack's sequencer. -/
def State.bankCmd? (s : State) (stack id : Nat) : Option BankCmd := (s.stack stack).seqr.find? fun x => decide (x.id = id)

/-- A command of the sequencer replaced. -/
def State.putCmd (s : State) (stack : Nat) (x : BankCmd) : State :=
  let k := s.stack stack
  s.setStack stack { k with seqr := k.seqr.map fun y => if y.id = x.id then x else y }

/-- A command that has left the sequencer. -/
def State.endCmd (s : State) (stack id : Nat) : State :=
  let k := s.stack stack
  s.setStack stack { k with seqr := k.seqr.filter fun y => !decide (y.id = id) }

/-- A command moved from the sequencer to the parked ones (R228). -/
def State.parkCmd (s : State) (stack : Nat) (x : BankCmd) : State :=
  (s.putCmd stack x).parkCmds stack fun y => decide (y.id = x.id)

/-- The banks of a physical range of 1 KiB granules (R231, R367). -/
def rangeUses (resident : Bool) (lo n bank : Nat) : Bool :=
  if resident then decide (bankOf true lo ≤ bank) && decide (bank ≤ bankOf true (lo + n - 1))
  else decide (2 ^ 19 ≤ n) || decide ((bank + 512 - bankOf false lo) % 512 < n / 1024)

/-- The part of a virtual range on one of its pages: physical start and bytes. -/
def pagePart (va : Word) (n : Nat) (p : Nat × Nat) : Nat × Nat :=
  let lo := Nat.max va.toNat (p.1 * 2 ^ 28)
  (p.2 + lo % 2 ^ 28, Nat.min (va.toNat + n) ((p.1 + 1) * 2 ^ 28) - lo)

/-- A range of rows uses a bank. -/
def State.rowsUse (s : State) (die : Nat) (va : Word) (n : Nat) (pages : List (Nat × Nat)) (bank : Nat) : Bool :=
  pages.any fun p =>
    let (lo, m) := pagePart va n p
    decide (m ≠ 0) && rangeUses (s.frameResident die (frameOf lo)) lo m bank

/-- A command uses a bank (R213). -/
def State.usesBank (s : State) (x : BankCmd) (bank : Nat) : Bool :=
  match x.work with
  | .cbload _ _ _ => false
  | .bdtld _ _ | .lkclr _ | .tbuild _ _ _ _ | .lkacc _ _ _ _ _ _ _ _ _ _ | .lkrd _ _ _ _ _ =>
    decide (x.b0 ≤ bank) && decide (bank < x.b0 + 2 ^ x.slog)
  | .rcopy dst src n dp sp => s.rowsUse x.die dst n dp bank || s.rowsUse x.die src n sp bank
  | .rfill dst n dp => s.rowsUse x.die dst n dp bank

/-- The codebook slot a command uses (R213). -/
def BankCmd.slot? (x : BankCmd) : Option Nat :=
  match x.work with
  | .cbload slot _ _ => some slot
  | .tbuild slot _ _ _ => some slot
  | _ => none

/-- Two commands share a resource (R213). -/
def State.shares (s : State) (x y : BankCmd) : Bool :=
  (x.slot?.isSome && decide (x.slot? = y.slot?)) || (List.range 512).any fun b => s.usesBank x b && s.usesBank y b

/-- A command's banks do no access now: a group of them is in retraining (R410), or the panel is in HEAT (R350). -/
def State.retraining (s : State) (stack : Nat) (x : BankCmd) : Bool :=
  s.inHeat || (s.stack stack).retrain.any fun g => (List.range 8).any fun i => s.usesBank x (8 * g + i)

/-- A bank of a stack in retraining (R410), or in HEAT (R350). -/
def State.bankRetrains (s : State) (stack bank : Nat) : Bool := s.inHeat || (s.stack stack).retrain.contains (bank / 8)

/-- A bank's state, and a bank changed. -/
def State.bank (s : State) (stack b : Nat) : Bank := tblGet Bank.reset b (s.stack stack).bank.banks
def State.modBank (s : State) (stack b : Nat) (f : Bank → Bank) : State :=
  let k := s.stack stack
  s.setStack stack { k with bank := { k.bank with banks := tblSet b (f (s.bank stack b)) k.bank.banks } }

/-- The banks of a command's set changed. -/
def State.modSet (s : State) (stack : Nat) (x : BankCmd) (f : Bank → Bank) : State :=
  (List.range (2 ^ x.slog)).foldl (fun s i => s.modBank stack (x.b0 + i) f) s

/-- A command has performed `n` symbols or bytes, which count towards its crew's share of the stack's energy (R402), and
arrives with them (R215); `wrote` are the device bytes it has written. -/
def State.performed (s : State) (stack : Nat) (x : BankCmd) (n : Nat) (wrote : List (Nat × Nat)) : State :=
  let k := s.stack stack
  (s.setStack stack { k with performed := k.performed ++ [(x.crew, n)] }).arrive x.obj n ⟨false, wrote⟩

/-- A command that is done: it arrives and leaves (R215). -/
def State.finishCmd (s : State) (stack : Nat) (x : BankCmd) (count : Nat) : State :=
  (s.performed stack x count []).endCmd stack x.id

/-- The first fault of an LKACC is written to its status doubleword (R226). -/
def State.bankFault (s : State) (x : BankCmd) (bank chunk reason : Nat) : State × BankCmd :=
  match x.faulted with
  | some _ => (s, x)
  | none =>
    (s.writeStatus x (BitVec.ofNat 64 (2 ^ 63 + reason * 2 ^ 48 + bank * 2 ^ 32 + chunk)), { x with faulted := some (bank, chunk) })

/-- An LKACC whose every bank has stopped leaves (R226, R228): parked when a bank is, faulted when none is and one
faulted, else done. -/
def State.settleLkacc (s : State) (stack : Nat) (x : BankCmd) : State :=
  if x.banks.all fun b => b.2.done || b.2.fault || b.2.parked then
    if x.banks.any fun b => b.2.parked then s.parkCmd stack x
    else
      let s := s.endCmd stack x.id
      match x.faulted, x.crew with
      | some (bank, chunk), some r =>
        s.holdFault r ⟨x.hart, x.id, { cause := .stream, addr := BitVec.ofNat 64 chunk, elem := elemNumber bank }, some stack⟩
      | _, _ => s
  else s.putCmd stack x

/-- The progress of a bank that an LKACC starts on: its first symbol, or the chunk it resumes at, whose earlier markers
may stop it (R227). -/
def startBank (sx : State × BankCmd) (bank : Nat) : State × BankCmd :=
  let (t, x) := sx
  let put (p : BankProg) : BankCmd := { x with banks := tblSet bank p x.banks }
  match x.work with
  | .lkacc shape k n _ _ wbase pages es _ (some (_, chunk)) =>
    match es[bank]? with
    | none => (t, put ⟨0, 0, 0, false, false, true, false⟩)
    | some e =>
      match t.skipChunks pages (wbase + BitVec.ofNat 64 e.offset) e (n * shape.groupsOf k bank) 0 0 0 chunk with
      | .ok (sym, byte) => (t, put ⟨sym, chunk, byte, false, false, false, false⟩)
      | .error (bad, reason) => t.bankFault (put ⟨0, bad, 0, false, false, false, true⟩) bank bad reason
  | _ => (t, put ⟨0, 0, 0, false, false, false, false⟩)

/-- BANK_CMD_START (R213): a command starts when no earlier one of its sequencer shares a resource with it. -/
def State.bankStart (s : State) (stack id : Nat) : State :=
  match s.bankCmd? stack id with
  | none => s
  | some x =>
    let before := (s.stack stack).seqr.takeWhile fun y => !decide (y.id = id)
    if x.started || before.any (s.shares x) || s.retraining stack x then s
    else
      match x.work with
      | .lkacc shape k _ _ _ _ _ _ _ resume =>
        let x := { x with started := true }
        let (s, x) := if x.banks.isEmpty then (lkaccBanks shape k resume).foldl startBank (s, x)
          else (s, { x with banks := x.banks.map fun b => (b.1, { b.2 with parked := false }) })
        s.settleLkacc stack x
      | _ => s.putCmd stack { x with started := true }

/-- BANK_CMD_START (R213). -/
def execBankCmdStart (stack id : Nat) (s : State) : Host.Outcome State Fault Refusal := .next (s.bankStart stack id)

/-- A started command that no retraining stalls, performed by `f`. -/
def State.perform1 (s : State) (stack id : Nat) (f : State → BankCmd → State) : State :=
  match s.bankCmd? stack id with
  | some x => if x.started && !s.retraining stack x then f s x else s
  | none => s

/-- CBLOAD_DONE (R217). -/
def State.cbloadDone (s : State) (stack id : Nat) : State :=
  s.perform1 stack id fun s x =>
    match x.work with
    | .cbload slot b entries =>
      let k := s.stack stack
      (s.setStack stack { k with bank := { k.bank with slots := tblSet slot ⟨b, entries⟩ k.bank.slots } }).finishCmd stack x (2 ^ b)
    | _ => s

def execCbloadDone (stack id : Nat) (s : State) : Host.Outcome State Fault Refusal := .next (s.cbloadDone stack id)

/-- BDTLD_DONE (R218). -/
def State.bdtldDone (s : State) (stack id : Nat) : State :=
  s.perform1 stack id fun s x =>
    match x.work with
    | .bdtld first es =>
      (s.modSet stack x fun b => { b with dec := putEntries first es b.dec }).finishCmd stack x (4 * es.length * 2 ^ x.slog)
    | _ => s

def execBdtldDone (stack id : Nat) (s : State) : Host.Outcome State Fault Refusal := .next (s.bdtldDone stack id)

/-- LKCLR_DONE (R219). -/
def State.lkclrDone (s : State) (stack id : Nat) : State :=
  s.perform1 stack id fun s x =>
    match x.work with
    | .lkclr narrow =>
      (s.modSet stack x fun b => { b with narrow := narrow, acc := [], pacc := [] }).finishCmd stack x (1024 * 2 ^ x.slog)
    | _ => s

def execLkclrDone (stack id : Nat) (s : State) : Host.Outcome State Fault Refusal := .next (s.lkclrDone stack id)

/-- Entry i of the table of group j (R61, R221): the last group padded with zeros. -/
def tableEntry (x : TableShape) (k : Nat) (codes act : List (BitVec 8)) (j i : Nat) : BitVec 32 :=
  BitVec.ofInt 32 ((List.range x.gsz).foldl (fun v q =>
    let a : Int := if j * x.gsz + q < k then (act[j * x.gsz + q]?.getD 0).toInt else 0
    v + (codes[i / 2 ^ (q * x.b) % 2 ^ x.b]?.getD 0).toInt * a) 0)

/-- TBUILD_TABLE_DONE (R215, R221): the next table of the command, in the codebook slot as it stands; a slot of another b
leaves the table open (R417). -/
def State.tbuildTable (s : State) (stack id : Nat) : State :=
  s.perform1 stack id fun s x =>
    match x.work with
    | .tbuild slot shape k act =>
      let j := x.done.length
      let e := shape.entries
      let c := tblGet ⟨0, []⟩ slot (s.stack stack).bank.slots
      let ticks := s.ticks
      let word (i : Nat) : BitVec 32 := if c.b = shape.b then tableEntry shape k c.entries act j i else Config.openWord ticks i
      let s := if c.b = shape.b then s else { s with ticks := ticks + 1 }
      let base := (shape.t0 + j % shape.tpb) * e
      let s := s.modBank stack (x.b0 + j / shape.tpb) fun b =>
        { b with table := (List.range e).foldl (fun t i => tblSet (base + i) (word i) t) b.table }
      let s := s.performed stack x (4 * e) []
      if shape.groups k ≤ j + 1 then s.endCmd stack id else s.putCmd stack { x with done := x.done ++ [j] }
    | _ => s

def execTbuildTableDone (stack id : Nat) (s : State) : Host.Outcome State Fault Refusal := .next (s.tbuildTable stack id)

/-- A lookup added to an accumulator (R62). -/
def accAdd (narrow : Bool) (a : Acc) (e : BitVec 32) : Acc :=
  let top : Int := if narrow then 32767 else 2147483647
  let y := a.val + (e.setWidth 24).toInt
  if top < y then ⟨top, true⟩ else if y < -top - 1 then ⟨-top - 1, true⟩ else ⟨y, a.sticky⟩

/-- The lookups of index symbols from symbol `sym` on, into accumulators (R224). -/
def lookups (b : Bank) (x : TableShape) (row0 jk : Nat) : Nat → List Nat → Tbl Acc → Tbl Acc
  | _, [], acc => acc
  | sym, i :: is, acc =>
    let n := row0 + sym / jk
    let a := tblGet ⟨0, false⟩ n acc
    lookups b x row0 jk (sym + 1) is
      (tblSet n (accAdd b.narrow a (tblGet 0 ((x.t0 + sym % jk) * x.entries + i) b.table)) acc)

/-- A raw tile's symbol (R296). -/
def State.rawSymbol (s : State) (pages : List (Nat × Nat)) (start : Word) (w sym : Nat) : Nat :=
  (List.range w).foldl (fun v q =>
    let p := sym * w + q
    let byte := (s.dramByte (pageAt pages (start + BitVec.ofNat 64 (p / 8)))).toNat
    v + byte / 2 ^ (p % 8) % 2 * 2 ^ q) 0

/-- The next commit segment of a bank (R224, R298, R300): its symbols with the bytes it takes, or the reason it fails. -/
def State.segment (s : State) (stack bank : Nat) (shape : TableShape) (pages : List (Nat × Nat)) (wbase : Word) (e : CatEntry)
    (sk jk : Nat) (p : BankProg) : Except Nat (List Nat × Nat) :=
  let start := wbase + BitVec.ofNat 64 e.offset
  let rest := jk - p.sym % jk
  match e.kind with
  | 0 => .ok ((List.range rest).map fun i => s.rawSymbol pages start (shape.b * shape.gsz) (p.sym + i), 0)
  | 1 =>
    match s.bankMarker pages start e sk jk p.sym p.chunk p.byte true with
    | .bad r _ => .error r
    | .good m =>
      let dec := (s.bank stack bank).dec
      match decodeChunk (s.tileReader pages start p.byte) (fun i => tblGet 0 (32 * e.dtid + i) dec) shape.entries m () with
      | .ok (_, .good xs) => .ok (xs, m.size + m.plen)
      | .ok (_, .bad r _) => .error r
      | .error _ => .error 1
  | _ => .ok (List.replicate rest e.cidx, 0)

/-- The symbols that the segment a bank stands at delivers, whether or not it verifies (R224, R225): a chunk stops at the
symbol that fails, and delivers none past a bad marker. -/
def State.deliveredSymbols (s : State) (stack bank : Nat) (shape : TableShape) (pages : List (Nat × Nat)) (wbase : Word)
    (e : CatEntry) (sk jk : Nat) (p : BankProg) : List Nat :=
  match s.segment stack bank shape pages wbase e sk jk p with
  | .ok (xs, _) => xs
  | .error _ =>
    let rd := s.tileReader pages (wbase + BitVec.ofNat 64 e.offset) p.byte
    let table (i : Nat) : BitVec 32 := tblGet 0 (32 * e.dtid + i) (s.bank stack bank).dec
    match s.bankMarker pages (wbase + BitVec.ofNat 64 e.offset) e sk jk p.sym p.chunk p.byte true with
    | .bad _ _ => []
    | .good m =>
      match decodeChunk rd table shape.entries m () with
      | .ok (_, .bad _ n) => chunkSymbols rd table m () m.states 0 0 n
      | _ => []

/-- Pending accumulators after the lookups of a segment (R224); open where the bank's shape is not the one the issue checked
(R417). -/
def State.pend (s : State) (stack bank : Nat) (shape : TableShape) (row0 n jk sym : Nat) (xs : List Nat) : State :=
  let b := s.bank stack bank
  if (if b.narrow then 512 else 256) < row0 + n then
    let ticks := s.ticks
    let acc := (List.range n).foldl (fun t i => tblSet (row0 + i) ⟨(Config.openWord ticks (2 * i)).toInt,
      (Config.openWord ticks (2 * i + 1)).getLsbD 0⟩ t) b.acc
    { s with ticks := ticks + 1 }.modBank stack bank fun b => { b with pacc := acc }
  else s.modBank stack bank fun b => { b with pacc := lookups b shape row0 jk sym xs b.acc }

/-- The pending accumulators become the committed ones, in one step; or they are discarded (R224, R225). -/
def Bank.commit (b : Bank) : Bank := { b with acc := b.pacc }
def Bank.discard (b : Bank) : Bank := { b with pacc := b.acc }

/-- A bank of an LKACC that is Active (R225). -/
def BankProg.active (p : BankProg) : Bool := !p.parked && !p.done && !p.fault

/-- An Active bank delivers its segment's symbols to the pending accumulators (R224, R225). -/
def State.deliver (s : State) (stack : Nat) (x : BankCmd) (bank : Nat) : State × BankCmd :=
  match x.work, tblGet? bank x.banks with
  | .lkacc shape k n row0 _ wbase pages es _ _, some p =>
    match es[bank]? with
    | none => (s, x)
    | some e =>
      if !x.started || !p.active || p.delivered || s.bankRetrains stack (x.b0 + bank) then (s, x)
      else
        let jk := shape.groupsOf k bank
        let xs := s.deliveredSymbols stack (x.b0 + bank) shape pages wbase e (n * jk) jk p
        (s.pend stack (x.b0 + bank) shape row0 n jk p.sym xs,
          { x with banks := tblSet bank { p with delivered := true } x.banks })
  | _, _ => (s, x)

/-- Every Active bank of the running LKACCs delivers its segment. -/
def State.deliverAll (s : State) : State :=
  s.stackTbl.foldl (fun s k => k.2.seqr.foldl (fun s x =>
    if x.banks.isEmpty then s
    else
      let (s, x) := x.banks.foldl (fun sx b => sx.1.deliver k.1 sx.2 b.1) (s, x)
      s.putCmd k.1 x) s) s

/-- LKACC_SEGMENT_END (R224 to R226): the segment of relative bank k verifies, commits and arrives, or the bank discards it
and faults. A bank asked to park does so at this commit (R228). A running segment completes before a retraining of its bank,
which only the next one waits for (R410); in HEAT none goes on (R350). -/
def State.segmentEnd (s : State) (stack id bank : Nat) : State :=
  match if s.inHeat then none else s.bankCmd? stack id with
  | none => s
  | some x =>
    let (s, x) := s.deliver stack x bank
    match x.work, tblGet? bank x.banks with
    | .lkacc shape k n _ _ wbase pages es _ _, some p =>
      match es[bank]? with
      | none => s
      | some e =>
        if !x.started || !p.active || !p.delivered then s
        else
          let jk := shape.groupsOf k bank
          let sk := n * jk
          match s.segment stack (x.b0 + bank) shape pages wbase e sk jk p with
          | .error r =>
            let s := s.modBank stack (x.b0 + bank) Bank.discard
            let (s, x) := s.bankFault { x with banks := tblSet bank { p with fault := true } x.banks } bank p.chunk r
            s.settleLkacc stack x
          | .ok (xs, bytes) =>
            let s := s.modBank stack (x.b0 + bank) Bank.commit
            let s := s.performed stack x xs.length []
            let sym := p.sym + xs.length
            let done := decide (sk ≤ sym)
            let p : BankProg := ⟨sym, p.chunk + 1, p.byte + bytes, false, !done && x.parkAsked, done, false⟩
            s.settleLkacc stack { x with banks := tblSet bank p x.banks }
    | _, _ => s

def execLkaccSegmentEnd (stack id bank : Nat) (s : State) : Host.Outcome State Fault Refusal :=
  .next (s.segmentEnd stack id bank)

/-- comb of R63: a saturating 32-bit sum. -/
def accComb (a b : Acc) : Acc :=
  let x := accAdd false ⟨a.val + b.val, false⟩ 0
  ⟨x.val, a.sticky || b.sticky || x.sticky⟩

/-- Neighbours combined (R54, R63). -/
def combPairs : List Acc → List Acc
  | a :: b :: rest => accComb a b :: combPairs rest
  | xs => xs

/-- The tree over 2^slog leaves (R54, R63). -/
def accTree : Nat → List Acc → Acc
  | 0, xs => xs.head?.getD ⟨0, false⟩
  | n + 1, xs => accTree n (combPairs xs)

/-- The mailbox entry of row n (R229), open where the set's shapes are not those the issue checked (R417). -/
def State.mailEntry (s : State) (stack : Nat) (x : BankCmd) (row0 n i : Nat) : Word :=
  let narrow := (s.bank stack x.b0).narrow
  let same := (List.range (2 ^ x.slog)).all fun k => (s.bank stack (x.b0 + k)).narrow == narrow
  if same && decide (row0 + n ≤ if narrow then 512 else 256) then
    let a := accTree x.slog ((List.range (2 ^ x.slog)).map fun k => tblGet ⟨0, false⟩ (row0 + i) (s.bank stack (x.b0 + k)).acc)
    (BitVec.ofInt 32 a.val).setWidth 64 ||| BitVec.ofNat 64 (a.sticky.toNat * 2 ^ 32)
  else (Config.openWord s.ticks (2 * i)).setWidth 64 ||| BitVec.ofNat 64 ((Config.openWord s.ticks (2 * i + 1)).toNat % 2 * 2 ^ 32)

/-- LKRD_DONE (R229): the entries, the clearing of what was read, and the arrival. -/
def State.lkrdDone (s : State) (stack id : Nat) : State :=
  s.perform1 stack id fun s x =>
    match x.work with
    | .lkrd n row0 mrow mbank clear =>
      let es := (List.range n).flatMap fun i => wordBytes64 (s.mailEntry stack x row0 n i)
      let s := { s with
        mailbox := memWrites (stack * 2 ^ 22 + mbank * 2 ^ 13 + 1024 * mrow) es s.mailbox
        ticks := s.ticks + 1 }
      let wipe (t : Tbl Acc) : Tbl Acc := t.filter fun e => !(decide (row0 ≤ e.1) && decide (e.1 < row0 + n))
      let s := if clear then s.modSet stack x fun b => { b with acc := wipe b.acc, pacc := wipe b.pacc } else s
      s.finishCmd stack x (8 * n)
    | _ => s

def execLkrdDone (stack id : Nat) (s : State) : Host.Outcome State Fault Refusal := .next (s.lkrdDone stack id)

/-- Granule i performed at its destination, or refused by a seal, which stops the command (R231, R236). -/
def State.granuleDone (s : State) (stack : Nat) (x : BankCmd) (i total : Nat) (dst : Word) (pages : List (Nat × Nat))
    (bs : State → State × List Byte) : State :=
  let va := dst + BitVec.ofNat 64 (1024 * i)
  let pa := pageAt pages va
  if total ≤ i || x.done.contains i then s
  else if (s.die x.die).sealt.getLsbD (frameOf pa) then
    let s := s.endCmd stack x.id
    match x.crew with
    | some r => s.holdFault r ⟨x.hart, x.id, { cause := .seal, addr := va, elem := elemNumber i }, some stack⟩
    | none => s
  else
    let (s, bs) := bs s
    let s := (s.setDram pa bs).discardHome pa 1024
    let s := s.performed stack x 1024 [(pa, 1024)]
    let x := { x with done := i :: x.done }
    if total ≤ x.done.length then s.endCmd stack x.id else s.putCmd stack x

/-- RCOPY_GRANULE (R231): the source granule is written back, then read. -/
def State.rcopyGranule (s : State) (stack id i : Nat) : State :=
  s.perform1 stack id fun s x =>
    match x.work with
    | .rcopy dst src n dp sp =>
      let from_ := pageAt sp (src + BitVec.ofNat 64 (1024 * i))
      s.granuleDone stack x i (n / 1024) dst dp fun s =>
        let s := s.flushHome from_ 1024
        (s, (List.range 1024).map fun j => s.dramByte (from_ + j))
    | _ => s

def execRcopyGranule (stack id i : Nat) (s : State) : Host.Outcome State Fault Refusal := .next (s.rcopyGranule stack id i)

/-- RFILL_GRANULE (R231). -/
def State.rfillGranule (s : State) (stack id i : Nat) : State :=
  s.perform1 stack id fun s x =>
    match x.work with
    | .rfill dst n dp => s.granuleDone stack x i (n / 1024) dst dp fun s => (s, List.replicate 1024 0)
    | _ => s

def execRfillGranule (stack id i : Nat) (s : State) : Host.Outcome State Fault Refusal := .next (s.rfillGranule stack id i)

/-- A command stops between two commits: the Active banks of an LKACC discard their pending accumulators (R225, R228,
R302). -/
def State.stopBanks (s : State) (stack : Nat) (x : BankCmd) : State :=
  x.banks.foldl (fun s b => if b.2.active then s.modBank stack (x.b0 + b.1) Bank.discard else s) s

/-- Commands of a crew that is pre-empted (R228): those not started, row commands, and LKACCs, whose banks stop at once,
park; the others run to completion. -/
def State.parkCrew (s : State) (r : CrewRef) : State :=
  let goes (x : BankCmd) : Bool := decide (x.crew = some r) && (x.parksNow || (match x.work with
    | .lkacc _ _ _ _ _ _ _ _ _ _ => true
    | _ => false))
  s.stackTbl.foldl (fun s k =>
    let xs := k.2.seqr.filter goes
    let s := xs.foldl (fun s x => s.stopBanks k.1 x) s
    let s := xs.foldl (fun s x =>
      s.putCmd k.1 { x with banks := x.banks.map fun b => (b.1, { b.2 with delivered := false }) }) s
    s.parkCmds k.1 goes) s

/-- An uncorrectable error in the tile bytes of an LKACC (R302): its banks discard what is pending, and it is dropped with
no further arrival. -/
def State.dropTile (s : State) (stack id : Nat) (pa : Nat) : State :=
  match s.bankCmd? stack id with
  | none => s
  | some x =>
    if x.tiles.any (fun p => decide (p.2.1 ≤ pa) && decide (pa < p.2.1 + p.2.2)) then (s.stopBanks stack x).endCmd stack id
    else s

/-- A hart of the command's crew runs on the stack's owner die; a steward core's commands are its die's (R228). -/
def State.crewOn (s : State) (x : BankCmd) (die : Nat) : Bool :=
  match x.crew with
  | none => decide (x.die = die)
  | some r => (s.hartsOf r).any fun c => decide (c.id.die = die)

/-- PARKED_CMD_REJOIN (R228, R417): at the tail of the sequencer, once its conditions hold and no parked command of its
crew reached the sequencer before it. -/
def State.rejoin (s : State) (stack id : Nat) : State :=
  let k := s.stack stack
  match k.parked.find? fun x => decide (x.id = id) with
  | none => s
  | some x =>
    let die := s.owner stack
    if k.lock.isSome || !s.crewOn x die || decide (64 ≤ k.seqr.length)
        || k.parked.any fun y => decide (y.crew = x.crew) && decide (y.id < id) then s
    else
      s.setStack stack { k with
        parked := k.parked.filter fun y => !decide (y.id = id)
        seqr := k.seqr ++ [{ x with die := die, started := false, parkAsked := false }] }

def execParkedCmdRejoin (stack id : Nat) (s : State) : Host.Outcome State Fault Refusal := .next (s.rejoin stack id)

/-- A step of a lockage taken when it stands at `at_` and `ok` holds. -/
def State.lockStep (s : State) (stack at_ : Nat) (f : State → Lockage → State) : State :=
  match (s.stack stack).lock with
  | some l => if l.step = at_ then f s l else s
  | none => s

/-- A lockage moved on to a step. -/
def State.lockTo (s : State) (stack : Nat) (l : Lockage) (step : Nat) : State :=
  s.setStack stack { s.stack stack with lock := some { l with step := step } }

/-- LOCKAGE_CMDS_DRAINED (R306 step 2): no command from the old owner is left in the sequencer. -/
def State.cmdsDrained (s : State) (stack : Nat) : State :=
  s.lockStep stack 1 fun s l =>
    if (s.stack stack).seqr.any fun x => decide (x.die = l.old) then s else s.lockTo stack l 3

def execLockageCmdsDrained (stack : Nat) (s : State) : Host.Outcome State Fault Refusal := .next (s.cmdsDrained stack)

/-- LOCKAGE_WRITES_DRAINED (R306 step 3). -/
def State.writesDrained (s : State) (stack : Nat) : State := s.lockStep stack 3 fun s l => s.lockTo stack l 4

def execLockageWritesDrained (stack : Nat) (s : State) : Host.Outcome State Fault Refusal := .next (s.writesDrained stack)

/-- LOCKAGE_RECALL_DONE (R306 steps 4 and 5): the new owner's copies of the stack's lines are merged and dropped, and the
old owner's lines written back; not in HEAT (R350). -/
def State.recallDone (s : State) (stack : Nat) : State :=
  s.lockStep stack 4 fun s l =>
    if s.inHeat then s
    else
    let s := s.dropLines l.new ((s.die l.new).nonHome.filter fun x => decide (stackOf (64 * x.line) = stack))
    (s.flushHome (stack * 2 ^ 35) (2 ^ 35)).lockTo stack l 6

def execLockageRecallDone (stack : Nat) (s : State) : Host.Outcome State Fault Refusal := .next (s.recallDone stack)

/-- The budget of a die by its stacks (R400). -/
def State.budgetOf (s : State) (d : Nat) : Nat :=
  (75000 + 55000 * ((stacksOf d).filter fun k => decide (s.owner k = d)).length) * (s.budget - 600) / 16640

/-- Every die's budget computed anew, once firmware has applied a panel budget (R400). -/
def State.rebudget (s : State) : State :=
  if s.budget = 0 then s
  else (List.range 128).foldl (fun s d => s.modDie d fun x => { x with dbudget := BitVec.ofNat 32 (s.budgetOf d) }) s

/-- LOCKAGE_BROADCAST_DONE (R306 steps 6 to 8): the owner port switches, and the new owner arrives with 2^35. -/
def State.broadcastDone (s : State) (stack : Nat) : State :=
  s.lockStep stack 6 fun s l =>
    let s := s.setStack stack { s.stack stack with second := decide ((candidates stack).2 = l.new), lock := none }
    (s.arrive l.obj (2 ^ 35) ⟨false, []⟩).rebudget

def execLockageBroadcastDone (stack : Nat) (s : State) : Host.Outcome State Fault Refusal := .next (s.broadcastDone stack)

/-- REDIRECT_RETRY (R307): a core held at a stack in lockage issues its access again once the lockage has ended. -/
def State.redirectRetry (s : State) (id : CoreId) : State :=
  s.modCore id fun c =>
    match c.wait with
    | .lockage k => if (s.stack k).lock.isSome then c else { c with wait := .none }
    | _ => c

def execRedirectRetry (c : CoreId) (s : State) : Host.Outcome State Fault Refusal := .next (s.redirectRetry c)

/-- NONHOME_EVICTION (R271): a copy is dropped, its dirty bytes merged home; they wait for a stack in lockage (R308). -/
def State.nonHomeEvict (s : State) (die line : Nat) : State :=
  match s.nonHome? die line with
  | none => s
  | some x => if x.dirty ≠ 0 && (s.homeWait die (64 * line)).isSome then s else s.dropNonHome die line

def execNonhomeEviction (die line : Nat) (s : State) : Host.Outcome State Fault Refusal := .next (s.nonHomeEvict die line)

end Sys2Proof.Machine
end

