-- ==== Sys2Proof/Machine/ControlRegs.lean ====
section
/-! DEFINITION. Control registers: their numbers, levels and fields, and CRR, CRW, CRS, CRC (R28 to R33, R110, R111,
R361, R364). -/

namespace Sys2Proof.Machine

/-- The layout of cr.cause (R31). -/
def CauseReg.word (x : CauseReg) : Word :=
  BitVec.ofNat 64 (x.code.toNat + x.split.toNat * 2 ^ 16 + x.lane.toNat * 2 ^ 20 + x.restart.toNat * 2 ^ 24
    + x.active.toNat * 2 ^ 31)

/-- A word read in the layout of cr.cause; reserved bits are ignored (R31). -/
def causeOf (w : Word) : CauseReg := ⟨BitVec.ofNat 8 w.toNat, bit w 16, BitVec.ofNat 4 (bits w 23 20), bit w 24, bit w 31⟩

/-- cr.vtype (R30). -/
def Core.vtypeWord (c : Core) : Word :=
  BitVec.ofNat 64 (c.ill.toNat * 2 ^ 15 + c.glog.toNat * 2 ^ 8 + c.fmt.toNat)

/-- cr.lq (R32). -/
def Core.lqWord (c : Core) : Word :=
  BitVec.ofNat 64 ((match c.lq with | e :: _ => e.val.toNat | [] => 0) * 2 ^ 16 + c.lq.length)

/-- cr.split (R32). -/
def Core.splitWord (c : Core) : Word :=
  BitVec.ofNat 64 (c.split.active.toNat * 2 ^ 16 + c.split.window.toNat * 2 + c.split.on.toNat)

/-- cr.hstate of a resident hart (R263): parked over split over reclaimed. -/
def Core.hstate (c : Core) : Nat :=
  if c.parked.isSome then 2
  else if c.split.on then 1
  else if c.grant < c.request || (match c.target with | some t => decide (t < c.grant) | none => false) then 3
  else 0

/-- cr.sstatus of a steward core (R364). -/
def State.sstatus (s : State) (c : Core) : Word :=
  BitVec.ofNat 64 (c.st.spp.toNat * 2 ^ 8 + (decide ((s.die c.id.die).fqhead ≠ (s.die c.id.die).fqtail)).toNat)

/-- cr.mstatus (R361). -/
def State.mstatus (s : State) (c : Core) : Word :=
  BitVec.ofNat 64 (s.boot.acause.toNat * 2 ^ 44 + s.boot.alarm.toNat * 2 ^ 43 + s.boot.idkey.isSome.toNat * 2 ^ 42
    + s.boot.stage % 256 * 2 ^ 32 + c.st.mpp.toNat * 2 ^ 6 + c.st.mie.toNat)

/-- The value of a control register; none for an unassigned number (R29). A steward core reads its own copy of a hart's
registers (log 5). -/
def State.crRead (s : State) (c : Core) (n : Nat) : Option Word :=
  match n with
  | 0x000 => some (c.frm.setWidth 64)
  | 0x001 => some (c.fflags.setWidth 64)
  | 0x002 => some c.tvec
  | 0x003 => some c.epc
  | 0x004 => some c.cause.word
  | 0x005 => some c.eaddr
  | 0x006 => some (c.eelem.setWidth 64)
  | 0x007 => some (c.moved.setWidth 64)
  | 0x008 => some c.scratch
  | 0x400 => some (c.vl.setWidth 64)
  | 0x401 => some (c.rc.setWidth 64)
  | 0x402 => some c.vtypeWord
  | 0x403 => some c.lqWord
  | 0x404 => some c.ckpt
  | 0x405 => some (c.grant.setWidth 64)
  | 0x406 => some c.splitWord
  | 0x410 => some c.crewReg
  | 0x411 => some c.rank
  | 0x418 => some c.holdsize
  | 0x420 => some s.timeWord
  | 0x421 => some c.energy
  | 0x800 => some (c.holdbase.setWidth 64 <<< 16)
  | 0x801 => some (c.cellphys.setWidth 64)
  | 0x802 => some (BitVec.ofNat 64 c.hstate)
  | 0x880 => some (s.sstatus c)
  | 0x881 => some c.st.svec
  | 0x882 => some c.st.sepc
  | 0x883 => some c.st.scause.word
  | 0x884 => some c.st.sscratch
  | 0x885 => some (c.st.hsel.setWidth 64)
  | 0xC00 => some (s.mstatus c)
  | 0xC01 => some c.st.mvec
  | 0xC02 => some c.st.mepc
  | 0xC03 => some c.st.mcause.word
  | 0xC04 => some c.st.mscratch
  | _ => none

/-- A length queue as a write of cr.lq leaves it (R28, R32): the count, the head, and behind it the entries it has. -/
def lqWrite (q : List LqEntry) (x : Word) : List LqEntry :=
  (List.range (min 8 (bits x 3 0))).map fun i => if i = 0 then ⟨BitVec.ofNat 13 (bits x 28 16), false⟩ else q[i]?.getD ⟨0, false⟩

/-- The control register with a value written: reserved and read-only fields ignore it (R28). A user's write reaches
none of the numbers from 0x400 on (log 9 names those that a supervisor's write does not change). -/
def Core.crWrite (c : Core) (n : Nat) (x : Word) : Core :=
  match n with
  | 0x000 => { c with frm := x.setWidth 2 }
  | 0x001 => { c with fflags := x.setWidth 5 }
  | 0x002 => { c with tvec := x &&& ~~~(3 : Word) }
  | 0x003 => { c with epc := x }
  | 0x004 => { c with cause := causeOf x }
  | 0x005 => { c with eaddr := x }
  | 0x006 => { c with eelem := x.setWidth 19 }
  | 0x008 => { c with scratch := x }
  | 0x400 => { c with vl := x.setWidth 10 }
  | 0x401 => { c with rc := x.setWidth 4 }
  | 0x402 => { c with ill := bit x 15, glog := BitVec.ofNat 2 (bits x 9 8), fmt := x.setWidth 4 }
  | 0x403 => { c with lq := lqWrite c.lq x }
  | 0x404 => { c with ckpt := x }
  | 0x405 => { c with grant := x.setWidth 5 }
  | 0x406 => { c with split := { c.split with on := bit x 0, window := bit x 1, active := BitVec.ofNat 16 (bits x 31 16) } }
  | 0x410 => { c with crewReg := BitVec.ofNat 64 (bits x 39 32 * 2 ^ 32 + bits x 22 16 * 2 ^ 16 + bits x 8 0) }
  | 0x411 => { c with rank := BitVec.ofNat 64 (bits x 30 24 * 2 ^ 24 + bits x 17 16 * 2 ^ 16 + bits x 13 8 * 2 ^ 8 + bits x 7 0) }
  | 0x418 => { c with holdsize := x }
  | 0x800 => { c with holdbase := BitVec.ofNat 3 (bits x 18 16) }
  | 0x880 => { c with st := { c.st with spp := bit x 8 } }
  | 0x881 => { c with st := { c.st with svec := x } }
  | 0x882 => { c with st := { c.st with sepc := x } }
  | 0x883 => { c with st := { c.st with scause := causeOf x } }
  | 0x884 => { c with st := { c.st with sscratch := x } }
  | 0x885 => { c with st := { c.st with hsel := x.setWidth 8 } }
  | 0xC00 => { c with st := { c.st with mie := bit x 0, mpp := if bits x 7 6 = 3 then 1 else BitVec.ofNat 2 (bits x 7 6) } }
  | 0xC01 => { c with st := { c.st with mvec := x } }
  | 0xC02 => { c with st := { c.st with mepc := x } }
  | 0xC03 => { c with st := { c.st with mcause := causeOf x } }
  | 0xC04 => { c with st := { c.st with mscratch := x } }
  | _ => c

/-- Whether a level may use a control register (R28): bits [11:10] of its number give its class. -/
def crAllows (l : Level) (n : Nat) (write : Bool) : Bool :=
  match n / 1024, l with
  | 0, _ => true
  | 1, .user => !write
  | 1, _ => true
  | 2, .user => false
  | 2, _ => true
  | _, .machine => true
  | _, _ => false

/-- What a CRW, CRS or CRC does to a register. -/
inductive CrOp where
  | read | write | set | clear
  deriving DecidableEq, Repr

/-- The core with the operation done: cr.moved clears the ones of gs1 under CRW and CRS and keeps them under CRC
(R111). -/
def Core.crApply (c : Core) (op : CrOp) (n : Nat) (old x : Word) : Core :=
  if n = 0x007 then
    match op with
    | .write | .set => { c with moved := c.moved &&& ~~~(x.setWidth 2) }
    | .read | .clear => c
  else
    match op with
    | .read => c
    | .write => c.crWrite n x
    | .set => c.crWrite n (old ||| x)
    | .clear => c.crWrite n (old &&& ~~~x)

/-- CRR, CRW, CRS and CRC (R110): ILLEGAL for an unassigned number, PRIV beyond the level, and a checkpoint around a
write (R115). A write that turns split mode on or off counts at once (log 9). -/
def State.crAccess (s : State) (op : CrOp) (d a : BitVec 5) (n : BitVec 12) : Host.Outcome State Fault Refusal :=
  s.run true fun s =>
    let c := s.me
    match s.crRead c n.toNat with
    | none => s.precise { cause := .illegal }
    | some old =>
      if !crAllows c.level n.toNat (op ≠ .read) then s.precise { cause := .priv }
      else do
        let s ← if op = .read then .ok s else s.checkpointAround
        .ok (s.upd fun c => ((c.crApply op n.toNat old (c.rg a)).wg d old).retire)

/-- CRR (R110). -/
def execCrr (d : BitVec 5) (n : BitVec 12) (s : State) := s.crAccess .read d 0 n

/-- CRW (R110). -/
def execCrw (d a : BitVec 5) (n : BitVec 12) (s : State) := s.crAccess .write d a n

/-- CRS (R110): a read with gs1 = g0. -/
def execCrs (d a : BitVec 5) (n : BitVec 12) (s : State) := s.crAccess (if a = 0 then .read else .set) d a n

/-- CRC (R110): a read with gs1 = g0. -/
def execCrc (d a : BitVec 5) (n : BitVec 12) (s : State) := s.crAccess (if a = 0 then .read else .clear) d a n

end Sys2Proof.Machine
end

