-- ==== Sys2Proof/Machine/Steward.lean ====
section
/-! DEFINITION. Translation and stewards: page walks, shoot-downs, resident entries, side-log replay, the HART window,
HCTL and die-control space (R121, R362 to R377, R380, R382, R384, R386, R387, R396, R397, R399, R404, R411). -/

namespace Sys2Proof.Machine

/-- A page walk completes (R365, R370): the entry fills the TLBs. A walk that fails raises PAGE at the access that asked
for it, which walks again when its core issues it; one whose table's home is held waits (R307). -/
def State.pageWalk (s : State) (die p : Nat) (va : Word) : State :=
  if (s.walkHeld die va).isSome then s
  else
    match s.translate (.hart die p 0) va with
    | .ok (s, _, _) => s
    | .error _ => s

/-- PAGE_WALK (R365). -/
def execPageWalk (die p : Nat) (va : BitVec 64) (s : State) : Host.Outcome State Fault Refusal := .next (s.pageWalk die p va)

/-- A TLB entry overlaps the range of a shoot-down (R371). -/
def TlbEntry.within (e : TlbEntry) (from_ : Word) (units : Nat) : Bool :=
  let size := if e.huge then 2 ^ 28 else 2 ^ 16
  decide (units = 0) || (decide (from_.toNat < (e.vpn + 1) * size) && decide (e.vpn * size < from_.toNat + units * 2 ^ 16))

/-- The die whose translation a request to remote memory went through; none for one of a core that has gone. -/
def State.outDie (s : State) (o : Outbound) : Option Nat :=
  match o.core, o.stream with
  | some c, _ => some c.die
  | none, some x =>
    ((s.cells.flatMap fun (y : Nat × Cell) => y.2.queue).find? fun z => decide (z.id = x)).bind fun z => (s.crew? z.crew).map Crew.die
  | none, none => none

/-- An access from a virtual to a physical address may have been translated by an entry that overlaps a range (R371): a huge one can
only have given a physical address with the same place in its page. -/
def byEntryIn (from_ : Word) (units : Nat) (va : Word) (pa : Nat) : Bool :=
  let huge : Bool := decide (va.toNat % 2 ^ 28 = pa % 2 ^ 28)
  TlbEntry.within ⟨huge, if huge then bits va 51 28 else bits va 51 16, 0⟩ from_ units

/-- Accesses translated but not performed by an entry that overlaps a range (R369, R371), on one die or on any: stores of open strips,
and requests under way to remote memory. -/
def State.storesIn (s : State) (die : Option Nat) (from_ : Word) (units : Nat) : Bool :=
  s.cores.any (fun c => (die.isNone || decide (die = some c.id.die)) &&
    c.strip.buf.any fun e => e.leaf.isSome && byEntryIn from_ units e.va e.loc)
  || s.outbound.any fun o => !(match o.core with | some (.steward _) => true | _ => false) && decide (2 ^ 32 ≤ o.va.toNat)
    && (die.isNone || (s.outDie o).isNone || decide (die = s.outDie o)) && byEntryIn from_ units o.va o.pa

/-- A write to TLBCMD (R371): a shoot-down of the range from TLBVA starts. While one is in progress the write waits. -/
def State.tlbCommand (s : State) (die : Nat) (v : Word) : Option State :=
  if (s.die die).tlbBusy then none
  else some (s.modDie die fun x => { x with tlbBusy := true, tlbFrom := x.tlbva, tlbCount := bits v 31 0 })

/-- TLBCMD_WRITE (R371). -/
def execTlbcmdWrite (die : Nat) (v : BitVec 64) (s : State) : Host.Outcome State Fault Refusal :=
  .next ((s.tlbCommand die v).getD s)

/-- A shoot-down ends (R371): every TLB has dropped the entries in its range, once no access translated by one is left,
and the steward is signalled (R364). -/
def State.shootdownDone (s : State) (die : Nat) : State :=
  let x := s.die die
  if !x.tlbBusy || s.storesIn none x.tlbFrom x.tlbCount then s
  else
    let keep (t : List TlbEntry) : List TlbEntry := t.filter fun e => !e.within x.tlbFrom x.tlbCount
    let s := { s with
      cells := s.cells.map fun (y : Nat × Cell) => (y.1, { y.2 with tlb := keep y.2.tlb })
      dies := s.dies.map fun (y : Nat × Die) => (y.1, { y.2 with tlb := keep y.2.tlb }) }
    (s.modDie die fun x => { x with tlbBusy := false }).signal (.steward die)

/-- SHOOTDOWN_DONE (R371). -/
def execShootdownDone (die : Nat) (s : State) : Host.Outcome State Fault Refusal := .next (s.shootdownDone die)

/-- A resident entry i, tag and leaf, with the sealed bit of its frame (R368, R369). DESIGN CHOICE: of an address that
names no frame, with PA[47] = 1 or in the mailbox rows, the bit shows SEALT bit PA[41:28] (log 22). -/
def Die.rtWord (x : Die) (i : Nat) (high : Bool) : Word :=
  let e := tblGet (0, 0) i x.rt
  if high then e.2 &&& ~~~(BitVec.ofNat 64 (2 ^ 13)) ||| BitVec.ofNat 64 ((x.sealt.getLsbD (bits e.2 41 28)).toNat * 2 ^ 13) else e.1

/-- The write of one doubleword of a resident entry on one die (R369): it waits for stores translated by the old entry. -/
def State.rtWrite (s : State) (die i : Nat) (high : Bool) (v : Word) : Option State :=
  let e := tblGet (0, 0) i (s.die die).rt
  let narrower : Bool := bit e.2 0 && (!high || !bit v 0 || decide (bits v 47 28 ≠ bits e.2 47 28)
    || decide (bits (e.2 &&& ~~~v) 4 1 ≠ 0))
  if narrower && s.storesIn (some die) (e.1 &&& BitVec.ofNat 64 (2 ^ 52 - 2 ^ 28)) 4096 then none
  else
    let e := if high then (e.1, v &&& ~~~(BitVec.ofNat 64 (2 ^ 13))) else (v &&& BitVec.ofNat 64 (2 ^ 52 - 2 ^ 28), e.2)
    some (s.modDie die fun x => { x with rt := if e = (0, 0) then tblErase i x.rt else tblSet i e x.rt })

/-- The dies a store to die-control space reaches (R362). -/
def receivers (die : Nat) (bcast : Bool) : List Nat := if bcast then List.range 128 else [die]

/-- A write to each of some dies, all or none. -/
def State.onDies (s : State) (f : State → Nat → Option State) : List Nat → Option State
  | [] => some s
  | d :: ds => (f s d).bind fun s => s.onDies f ds

/-- A broadcast that has completed sets the event latch of the steward that started it (R364). -/
def State.broadcastEnds (s : State) (die : Nat) (bcast : Bool) : State := if bcast then s.signal (.steward die) else s

/-- RT_ENTRY_WRITE (R369): it completes once every receiver has. -/
def execRtEntryWrite (die : Nat) (bcast : Bool) (i : Nat) (high : Bool) (v : BitVec 64) (s : State) :
    Host.Outcome State Fault Refusal :=
  .next (((s.onDies (fun s d => s.rtWrite d i high v) (receivers die bcast)).map fun s => s.broadcastEnds die bcast).getD s)

/-- Where a side-log entry goes when it is replayed (R377): its place, or the cause that refuses it, that of R185 among
them; none while its page has no translation. -/
def State.replayPlace (s : State) (e : LogEntry) : Option (State × Except Cause Place) :=
  match s.translate e.core e.va with
  | .error _ => none
  | .ok (s, huge, w) =>
    match finish .store huge w e.va with
    | .error t => some (s, .error t.cause)
    | .ok p =>
      if isRemote p.loc && e.atomic.any fun a => !amoCarried a.op a.size a.scope then some (s, .error .perm)
      else some (s, if s.orphaned p then .error .link else if s.sealed e.core.die p then .error .seal else .ok p)

/-- The place of cr.fflags in a saved hart's context (R382). -/
def Crew.savedFlags (k : Crew) (hr : Nat) : Nat := k.save + saveContext hr + 0x6D60

/-- Flags raised in the hart of a side-log entry (R47, R187): in its core, or in its saved context (R257). -/
def State.raiseLogged (s : State) (e : LogEntry) (f : Flags) : State :=
  match e.crew.bind fun x => (s.crew? x.1).map fun k => (k, x.2) with
  | none => s
  | some (k, hr) =>
    if k.resident then { s with cores := s.cores.map fun c => if c.crew = e.crew then c.raise f else c }
    else s.writeWord (k.savedFlags hr) (s.readWord (k.savedFlags hr) ||| f.setWidth 64)

/-- The hart of an entry stands where it stood when the entry was made: it is neither saved nor ended. -/
def State.hartThere (s : State) (e : LogEntry) : Bool := (s.core? e.core).any fun c => decide (c.crew = e.crew)

/-- A replayed store or atomic to remote memory sent out for its hart, wherever that is (R257). A store of parts of bytes first
asks for the bytes to merge them into (R273). -/
def State.replayFar (s : State) (e : LogEntry) (pa : Nat) (atomic : Option (Nat × Word × Word)) : State :=
  let full : Bool := e.data.all fun x => decide (x.2 = 0xFF)
  let core := if s.hartThere e then some e.core else none
  let o := s.makeOut (s.nextId + 1) core 0 none false pa e.va 0
    (if full && atomic.isNone then e.data.map Prod.fst else []) (if full || atomic.isSome then 0 else e.data.length) atomic
  { s with
    nextId := s.nextId + 1
    outbound := s.outbound ++ [{ o with owner := e.crew, merge := if full || atomic.isSome then [] else e.data }] }

/-- What the replay of an entry writes. That of a hart that is saved or has ended is written home at once, since no release of
the hart itself finds it in the die (R196, R257, R271). -/
def State.replayWrite (s : State) (e : LogEntry) (p : Place) : State × Flags :=
  match e.atomic with
  | none =>
    (if isFar p.loc then s.replayFar e p.loc none
      else if p.strong || !s.hartThere e then s.writeHome e.core.die (if s.hartThere e then some e.core else none) p e.data
      else s.writeDie e.core p e.data, 0)
  | some a =>
    if isRemote p.loc then (s.replayFar e p.loc (some (if a.op = 0 then (0, a.operand, 0) else (1, 0, a.operand))), 0)
    else
      let (s, _, f) := s.amoAt e.core p a.op a.size (a.operand.toNat % 2 ^ (8 * amoBytes a.size)) 0 (modeOfFrm a.frm)
      (s, f)

/-- What the replay of an entry that an IFENCE has followed writes is seen by its hart's fetches (R118). -/
def State.replayFetched (s : State) (e : LogEntry) (p : Place) : State :=
  if e.fenced && s.hartThere e then
    s.modCore e.core fun c =>
      { c with
        code := if isFar p.loc then c.code else ((s.asOf c.code).replayWrite e p).1.codeView
        fetched := c.fetched.filter fun x => !decide (p.loc < x.1 + 4 ∧ x.1 < p.loc + e.data.length) }
  else s

/-- A replayed entry performed as a store or atomic of its hart (R288, R377), with the rounding mode of its issue (R33). -/
def State.replayOne (s : State) (e : LogEntry) (p : Place) : State :=
  let (s, f) := (s.replayFetched e p).replayWrite e p
  match e.atomic with
  | none => s
  | some a =>
    if isRemote p.loc then s
    else
      let s := s.raiseLogged e f
      if a.acq && s.hartThere e then
        match s.acquire e.core (Scope.of a.scope) true false with
        | .ok s => s
        | .error h => h.st
      else s

/-- The replay of an entry waits for a home (R307, R410): of its place, of what its acquire drops, or of its hart's saved
flags. -/
def State.replayHeld (s : State) (e : LogEntry) (p : Place) : Bool :=
  (s.accessWait e.core.die p (e.atomic.isSome || !s.hartThere e)).isSome ||
    e.atomic.any fun a =>
      (a.acq && s.hartThere e && (s.acquireWait e.core (Scope.of a.scope) true false).isSome) ||
        (e.crew.bind fun x => (s.crew? x.1).map fun k => (k, x.2)).any fun k =>
          !k.1.resident && (s.homeWait k.1.die (k.1.savedFlags k.2)).isSome

/-- The translation of an entry waits for the home of a page table (R306, R307). -/
def State.replayWalkHeld (s : State) (e : LogEntry) : Bool := s.walks e.core e.va && (s.walkHeld e.core.die e.va).isSome

/-- The hart that an entry is of, and its page. -/
def LogEntry.line (e : LogEntry) : CoreId × Option (CrewRef × Nat) × Nat := (e.core, e.crew, bits e.va 63 16)

/-- What is left of a list of entries after those asked for are replayed in order (R377). `stuck` names the harts and pages
of which an entry stays, and whether it waits for a home only, which leaves the entries behind it asked for. Refusals are
recorded with logged = 1. -/
def State.replayList (s : State) (stuck : List ((CoreId × Option (CrewRef × Nat) × Nat) × Bool)) :
    List LogEntry → State × List LogEntry
  | [] => (s, [])
  | e :: rest =>
    let keep (s : State) (e : LogEntry) (stuck : List ((CoreId × Option (CrewRef × Nat) × Nat) × Bool)) : State × List LogEntry :=
      let (s, xs) := s.replayList stuck rest
      (s, e :: xs)
    if !e.asked then keep s e stuck
    else
      match stuck.find? fun x => decide (x.1 = e.line) with
      | some (_, held) => keep s { e with asked := held } stuck
      | none =>
        if s.replayWalkHeld e then keep s e ((e.line, true) :: stuck)
        else
        match s.replayPlace e with
        | none => keep s { e with asked := false } ((e.line, false) :: stuck)
        | some (s, .error cause) =>
          let member := match e.crew with | some (r, _) => memberWord r.mem | none => 0
          keep (s.faultTo e.core.die (faultRecord cause.code false true 0 0 e.core.hartNumber 0 false e.va 0 e.pc e.pc member
            s.timeWord)) { e with asked := false, refused := true } ((e.line, false) :: stuck)
        | some (s, .ok p) =>
          if s.replayHeld e p then keep s e ((e.line, true) :: stuck) else (s.replayOne e p).replayList stuck rest

/-- The log of a cell replayed, and that of a saved crew (R257, R377). -/
def State.replayCell (s : State) (key : Nat) : State :=
  let (s, xs) := s.replayList [] (s.cell key).log
  s.modCell key fun y => { y with log := xs }
def State.replayCrew (s : State) (k : Crew) : State :=
  let (s, xs) := s.replayList [] k.log
  s.modCrew k.ref fun k => { k with log := xs }

/-- Every entry that SLREPLAY has asked for and that waited is replayed, once it need not wait. -/
def State.replayAsked (s : State) : State :=
  let asked (xs : List LogEntry) : Bool := xs.any LogEntry.asked
  let s := (s.cells.filter fun y => asked y.2.log).foldl (fun s y => s.replayCell y.1) s
  (((s.members.flatMap Member.crews).filter fun k => asked k.log)).foldl State.replayCrew s

/-- The entries of a log for a page asked for. -/
def askLog (page : Nat) (xs : List LogEntry) : List LogEntry :=
  xs.map fun e => if bits e.va 63 16 = page then { e with asked := true } else e

/-- Those of a crew saved from a die. -/
def Crew.askLog (die page : Nat) (k : Crew) : Crew :=
  if k.resident || k.die ≠ die then k else { k with log := Sys2Proof.Machine.askLog page k.log }

/-- A write to SLREPLAY (R377): the entries for a page in the logs of the die's cells, and in the save areas of crews saved
from the die. -/
def State.sideReplay (s : State) (die : Nat) (v : Word) : State :=
  let page := bits v 51 16
  State.replayAsked { s with
    cells := s.cells.map fun (y : Nat × Cell) => if y.1 / 64 = die then (y.1, { y.2 with log := askLog page y.2.log }) else y
    members := s.members.map fun m => { m with crews := m.crews.map (Crew.askLog die page) } }

/-- SLREPLAY_WRITE (R377). -/
def execSlreplayWrite (die : Nat) (v : BitVec 64) (s : State) : Host.Outcome State Fault Refusal := .next (s.sideReplay die v)

/-- The hart that the steward of a die has selected with cr.hsel (R29), if it is parked (R376). -/
def State.selected (s : State) (die : Nat) : Option (Core × Parked) :=
  ((s.core? (.steward die)).bind fun c => s.core? (.hart die (c.st.hsel.toNat / 4) (c.st.hsel.toNat % 4))).bind fun c =>
    c.parked.map fun p => (c, p)

/-- The fault record of a parked hart waits for room in the ring, and the hart stays parked till then (R376). -/
def State.recordWaits (s : State) (c : Core) : Bool :=
  (s.die c.id.die).faultWait.any fun r => !bit (dwAt r 0) 9 && decide (bits (dwAt r 0) 39 32 = c.id.hartNumber)
    && decide (dwAt r 5 = c.memberWord)

/-- HCTL 1: the parked hart resumes at its resume PC (R121, R376). The steward signals it (R118). -/
def State.hctlResume (s : State) (die : Nat) : State :=
  match s.selected die with
  | some (c, p) =>
    if s.recordWaits c then s else s.modCore c.id fun c => { c with parked := none, latch := true }.setPc p.rpc
  | none => s

/-- HCTL_RESUME (R376). -/
def execHctlResume (die : Nat) (s : State) : Host.Outcome State Fault Refusal := .next (s.hctlResume die)

/-- HCTL 2: the parked hart enters its user handler as if the trap had been taken directly (R120, R121, R376). -/
def State.hctlForward (s : State) (die : Nat) : State :=
  match s.selected die with
  | some (c, p) =>
    if c.cause.active || decide (c.tvec &&& ~~~(3 : Word) = 0) || s.recordWaits c then s
    else s.modCore c.id fun c => { c with parked := none, latch := true }.userEntry p.info p.tpc p.unwind
  | none => s

/-- HCTL_FORWARD (R376). -/
def execHctlForward (die : Nat) (s : State) : Host.Outcome State Fault Refusal := .next (s.hctlForward die)

/-- HCTL 3: the parked hart's crew moves to Killed, and its member with it (R266, R376). -/
def State.hctlEnd (s : State) (die : Nat) : State :=
  match s.selected die with
  | some (c, p) =>
    match c.crewRef? with
    | some r => s.killMember r.mem p.info.cause.code p.info.addr
    | none => s
  | none => s

/-- HCTL_END_CREW (R376). -/
def execHctlEndCrew (die : Nat) (s : State) : Host.Outcome State Fault Refusal := .next (s.hctlEnd die)

/-- A halfword of the length queue in a context: valid bit and value (R382). -/
def lqHalf (lq : List LqEntry) (j : Nat) : Nat :=
  match lq[j]? with
  | some e => 2 ^ 15 + e.val.toNat
  | none => 0

/-- The doubleword at an offset of a hart's context (R382), with its resume PC and its last item as given. -/
def Core.ctxWord (c : Core) (pc last : Word) (off : Nat) : Word :=
  let field {n : Nat} (x : BitVec n) (o : Nat) : Word := BitVec.ofNat 64 (getBits x (8 * o) 64)
  if off < 0xF8 then c.g[off / 8 + 1]?.getD 0
  else if off < 0x100 then pc
  else if off < 0x2100 then field (c.vreg ((off - 0x100) / 128)) ((off - 0x100) % 128)
  else if off < 0x2CC0 then field (c.mreg ((off - 0x2100) / 64 + 1)) ((off - 0x2100) % 64)
  else if off < 0x4CC0 then field (c.yreg ((off - 0x2CC0) / 1024)) ((off - 0x2CC0) % 1024)
  else if off < 0x6CC0 then
    let i := (off - 0x4CC0) / 4
    (tblGet 0 (i + 1) c.dtab ++ tblGet 0 i c.dtab : BitVec 64)
  else if off < 0x6CD0 then
    let j := (off - 0x6CC0) / 2
    BitVec.ofNat 64 ((List.range 4).foldl (fun x k => x + lqHalf c.lq (j + k) * 2 ^ (16 * k)) 0)
  else if off < 0x6D50 then c.split.pcs[(off - 0x6CD0) / 8]?.getD 0
  else match off with
    | 0x6D50 => c.splitWord
    | 0x6D58 => c.frm.setWidth 64
    | 0x6D60 => c.fflags.setWidth 64
    | 0x6D68 => c.tvec
    | 0x6D70 => c.epc
    | 0x6D78 => c.cause.word
    | 0x6D80 => c.eaddr
    | 0x6D88 => c.eelem.setWidth 64
    | 0x6D90 => c.scratch
    | 0x6D98 => c.vl.setWidth 64
    | 0x6DA0 => c.rc.setWidth 64
    | 0x6DA8 => c.vtypeWord
    | 0x6DB0 => c.ckpt
    | 0x6FF0 => last
    | _ => 0

/-- A length queue with four of its halfwords replaced (R382). -/
def putLq (lq : List LqEntry) (j : Nat) (x : Word) : List LqEntry :=
  let half (k : Nat) : Nat := if j ≤ k ∧ k < j + 4 then bits x (16 * (k - j) + 15) (16 * (k - j)) else lqHalf lq k
  ((List.range 8).map fun k => (k, half k)).filterMap fun k =>
    if k.2 < 2 ^ 15 then none else some ⟨BitVec.ofNat 13 k.2, (lq[k.1]?.elim false LqEntry.tentative)⟩

/-- A hart with a doubleword of its context written, but for its PC and its last item (R382). -/
def Core.setCtx (c : Core) (off : Nat) (x : Word) : Core :=
  if h : off / 8 + 1 < 32 then { c with g := c.g.set (off / 8 + 1) x h }
  else if off < 0x100 then c
  else if off < 0x2100 then
    let k := (off - 0x100) / 128
    c.setV k (putBits (c.vreg k) (8 * ((off - 0x100) % 128)) 64 x.toNat)
  else if off < 0x2CC0 then
    let k := (off - 0x2100) / 64 + 1
    c.setM k (putBits (c.mreg k) (8 * ((off - 0x2100) % 64)) 64 x.toNat)
  else if off < 0x4CC0 then
    let k := (off - 0x2CC0) / 1024
    c.setY k (putBits (c.yreg k) (8 * ((off - 0x2CC0) % 1024)) 64 x.toNat)
  else if off < 0x6CC0 then
    let i := (off - 0x4CC0) / 4
    { c with dtab := putEntry (i + 1) (BitVec.ofNat 32 (bits x 63 32)) (putEntry i (BitVec.ofNat 32 (bits x 31 0)) c.dtab) }
  else if off < 0x6CD0 then { c with lq := putLq c.lq ((off - 0x6CC0) / 2) x }
  else if off < 0x6D50 then
    let j := (off - 0x6CD0) / 8
    if h : j < 16 then { c with split := { c.split with pcs := c.split.pcs.set j x h } } else c
  else match off with
    | 0x6D50 => { c with split := { c.split with on := bit x 0, window := bit x 1, active := BitVec.ofNat 16 (bits x 31 16) } }
    | 0x6D58 => c.crWrite 0x000 x
    | 0x6D60 => c.crWrite 0x001 x
    | 0x6D68 => c.crWrite 0x002 x
    | 0x6D70 => c.crWrite 0x003 x
    | 0x6D78 => c.crWrite 0x004 x
    | 0x6D80 => c.crWrite 0x005 x
    | 0x6D88 => c.crWrite 0x006 x
    | 0x6D90 => c.crWrite 0x008 x
    | 0x6D98 => c.crWrite 0x400 x
    | 0x6DA0 => c.crWrite 0x401 x
    | 0x6DA8 => c.crWrite 0x402 x
    | 0x6DB0 => c.crWrite 0x404 x
    | _ => c

/-- The last item of a context: state and grant (R264, R382). -/
def Core.ctxLast (c : Core) : Word := BitVec.ofNat 64 (c.grant.toNat * 2 ^ 8 + c.hstate)

/-- The HART window read (R376, R382): zero while the selected hart is not parked. -/
def State.hartWord (s : State) (die off : Nat) : Word :=
  match s.selected die with
  | some (c, p) => c.ctxWord p.rpc c.ctxLast off
  | none => 0

/-- The HART window written (R376, R382). -/
def State.hartWrite (s : State) (die off : Nat) (v : Word) : State :=
  match s.selected die with
  | some (c, p) =>
    if off = 0xF8 then s.modCore c.id fun c => { c with parked := some { p with rpc := v } }.setPc v
    else s.modCore c.id fun c => c.setCtx off v
  | none => s

/-- HART_CONTEXT_WRITE (R382). -/
def execHartContextWrite (die off : Nat) (v : BitVec 64) (s : State) : Host.Outcome State Fault Refusal :=
  .next (s.hartWrite die off v)

/-- A write to FQTAIL (R376): the records that waited for room are written. -/
def State.fqtailWrite (s : State) (die : Nat) (v : Word) : State :=
  let s := s.modDie die fun x => { x with fqtail := v.setWidth 32 }
  s.writeFaults die (s.die die).faultWait

/-- FQTAIL_WRITE (R376). -/
def execFqtailWrite (die : Nat) (v : BitVec 64) (s : State) : Host.Outcome State Fault Refusal := .next (s.fqtailWrite die v)

/-- A save area lies in a range (R380). -/
def State.savesIn (s : State) (base size : Word) : Bool :=
  s.saves.any fun y => decide (base.toNat ≤ y.1) && decide (y.1 < base.toNat + size.toNat)

/-- A doubleword of a register of four, read and written. -/
def Quad.get (x : Quad) (j : Nat) : Word := match j with | 0 => x.d0 | 1 => x.d1 | 2 => x.d2 | _ => x.d3
def Quad.put (x : Quad) (j : Nat) (v : Word) : Quad :=
  match j with
  | 0 => { x with d0 := v }
  | 1 => { x with d1 := v }
  | 2 => { x with d2 := v }
  | _ => { x with d3 := v }

/-- A field kept of a word: bits [hi:lo]. -/
def fieldOf (v : Word) (hi lo : Nat) : Word := BitVec.ofNat 64 (bits v hi lo * 2 ^ lo)

/-- The fields of a region, window, queue or event-ring register (R384, R386, R387, R396); other bits read as zero. -/
def regionMask (j : Nat) (v : Word) : Word :=
  match j with
  | 0 => fieldOf v 63 60 ||| fieldOf v 31 8
  | 1 => fieldOf v 51 16
  | _ => fieldOf v 47 16
def windowMask (j : Nat) (v : Word) : Word :=
  match j with
  | 0 => fieldOf v 63 63 ||| fieldOf v 29 0
  | 1 => v
  | 2 => fieldOf v 31 0
  | _ => 0
def queueMask (j : Nat) (v : Word) : Word :=
  match j with
  | 0 => fieldOf v 63 62 ||| fieldOf v 58 56 ||| fieldOf v 51 48 ||| fieldOf v 31 0
  | 1 => fieldOf v 47 7
  | _ => 0
def ringMask (j : Nat) (v : Word) : Word :=
  match j with
  | 0 => fieldOf v 63 63 ||| fieldOf v 3 0
  | 1 => v
  | _ => 0

/-- A launch-queue register written (R387): while the queue is enabled a write with en = 1 does nothing, and clearing en
leaves the other fields as written. -/
def State.queuePut (s : State) (q j : Nat) (v : Word) : State :=
  let x := quadAt q s.queues
  if bit x.d0 63 && (decide (j ≠ 0) || bit v 63) then s
  else { s with queues := tblSet q (x.put j (queueMask j v)) s.queues }

/-- QUEUE_ENABLE (R387): takes effect on a disabled queue. -/
def State.queueEnable (s : State) (q : Nat) (d0 d1 : Word) : State :=
  if bit (quadAt q s.queues).d0 63 || !bit d0 63 then s
  else { s with queues := tblSet q ⟨queueMask 0 d0, queueMask 1 d1, 0, 0⟩ s.queues }

def execQueueEnable (q : Nat) (d0 d1 : BitVec 64) (s : State) : Host.Outcome State Fault Refusal := .next (s.queueEnable q d0 d1)

/-- QUEUE_DISABLE (R387): admission from the queue stops; its members run on. -/
def State.queueDisable (s : State) (q : Nat) : State :=
  let x := quadAt q s.queues
  { s with queues := tblSet q { x with d0 := x.d0 &&& ~~~(BitVec.ofNat 64 (2 ^ 63)) } s.queues }

def execQueueDisable (q : Nat) (s : State) : Host.Outcome State Fault Refusal := .next (s.queueDisable q)

/-- The error counters (R411). -/
def Die.errcnt (x : Die) : Word := (x.dce ++ x.cce ++ x.lrt ++ x.ue : BitVec 64)

/-- Counters cleared by writing ones to a field (R411). -/
def Die.clearErr (x : Die) (v : Word) : Die :=
  { x with
    dce := x.dce &&& ~~~(BitVec.ofNat 16 (bits v 63 48))
    cce := x.cce &&& ~~~(BitVec.ofNat 16 (bits v 47 32))
    lrt := x.lrt &&& ~~~(BitVec.ofNat 16 (bits v 31 16))
    ue := x.ue &&& ~~~(BitVec.ofNat 16 (bits v 15 0)) }

/-- The debug ring of the hart slot in cr.hsel, and its count (R397): of the hart there, else of the last one. -/
def State.debugRing (s : State) (die : Nat) : List DbgEntry × Nat :=
  match s.core? (.steward die) with
  | none => ([], 0)
  | some c =>
    let h := c.st.hsel.toNat
    match s.core? (.hart die (h / 4) (h % 4)) with
    | some k => (k.dbg, k.dbgCount)
    | none => tblGet ([], 0) (h % 4) (s.cell (cellKey die (h / 4))).rings

/-- A doubleword of the debug ring's registers (R397): entry j is entry DBGIX − 64 + j. -/
def State.debugWord (s : State) (die off : Nat) : Word :=
  let (ring, count) := s.debugRing die
  if off < 0x100 then (if off = 0 then BitVec.ofNat 64 (count % 2 ^ 32) else 0)
  else
    let j := (off - 0x100) / 32
    let n := ring.length
    if 64 ≤ j || j + n < 64 then 0
    else
      match ring[j + n - 64]? with
      | none => 0
      | some e => match (off - 0x100) % 32 / 8 with | 0 => e.d0 | 1 => e.pc | 2 => e.first | _ => e.last

/-- A doubleword of die-control space of a die (R363, R397, R399), its I/O registers included (R384, R386, R387, R396).
What no register fills reads zero; so do the write-only ones. -/
def State.controlRead (s : State) (die off : Nat) : Word :=
  let x := s.die die
  if off < 0x10000 then
    match off with
    | 0x00 => x.ptroot
    | 0x08 => x.fqbase
    | 0x10 => x.fqhead.setWidth 64
    | 0x18 => x.fqtail.setWidth 64
    | 0x20 => x.tlbva
    | 0x30 => if x.tlbBusy then 1 else 0
    | 0x48 => x.spbase
    | 0x50 => x.spsize
    | _ => 0
  else if off < 0x50000 then x.rtWord ((off - 0x10000) / 16) (decide (off % 16 = 8))
  else if off < 0x54000 then bytesWord ((List.range 8).map fun i => tblGet 0 (off - 0x50000 + i) x.fmap)
  else if off < 0x60000 then 0
  else if off < 0x60800 then BitVec.ofNat 64 (getBits x.sealt (8 * (off - 0x60000)) 64)
  else if off < 0x70000 then 0
  else if off < 0x72000 then
    let r := tblGet ⟨0, 0, 0, 0⟩ ((off - 0x70000) / 32) x.rset
    match off % 32 / 8 with | 0 => r.d0 | 1 => r.d1 | 2 => r.d2 | _ => r.d3
  else if off < 0x80000 then 0
  else if off < 0x87000 then s.hartWord die (off - 0x80000)
  else if off < 0x90000 then 0
  else if off < 0xA0000 then s.debugWord die (off - 0x90000)
  else if off < 0x100000 then
    match off with
    | 0xA0000 => BitVec.ofNat 64 (x.denergy / 1000)
    | 0xA0008 => x.dpower.setWidth 64
    | 0xA0010 => x.dbudget.setWidth 64
    | 0xA0018 => x.pcell.setWidth 64
    | 0xA0020 => (x.level ++ x.drain : BitVec 64)
    | 0xA0028 => x.vfsel.setWidth 64
    | 0xA0030 => x.thot.setWidth 64
    | 0xA0038 => x.stretch
    | 0xA0040 => x.errcnt
    | 0xA0048 => x.retire
    | _ => 0
  else if off < 0x102000 then (quadAt ((off - 0x100000) / 32) s.regions).get (off % 32 / 8)
  else if off < 0x103000 then (quadAt ((off - 0x102000) / 32) s.windows).get (off % 32 / 8)
  else if off < 0x104000 then 0
  else if off < 0x104800 then (quadAt ((off - 0x104000) / 32) s.queues).get (off % 32 / 8)
  else if off < 0x106000 then 0
  else if off < 0x106020 then s.eventRing.get (off % 32 / 8)
  else 0

/-- A frame's lines brought out of every cache: what its DRAM cells hold is its contents (R367). -/
def State.clearFrame (s : State) (f : Nat) : State :=
  let mine (line : Nat) : Bool := decide (frameOf (64 * line) = f)
  let s := (List.range 128).foldl (fun s d => s.dropLines d ((s.die d).nonHome.filter fun x => mine x.line)) s
  { s with cells := s.cells.map fun (y : Nat × Cell) => (y.1, { y.2 with sdc := y.2.sdc.filter fun x => !mine x.line }) }.flushHome
    (f * 2 ^ 28) (2 ^ 28)

/-- FMAP bytes of a die written (R367): bits [7:1] are zero. A frame whose place the owner's map changes leaves the caches; none
while its home, where its lines are merged, is held (R307, R410). -/
def State.fmapWrite (s : State) (die i : Nat) : List Byte → Option State
  | [] => some s
  | b :: bs =>
    let moves : Bool := decide (b.getLsbD 0 ≠ s.frameResident die i) && decide (s.owner (i / 2 ^ 7) = die)
    if moves && s.rangeHeld (i * 2 ^ 28) (2 ^ 28) then none
    else
      let s := if moves then s.clearFrame i else s
      (s.modDie die fun x => { x with fmap := if b.getLsbD 0 then tblSet i 1 x.fmap else tblErase i x.fmap }).fmapWrite die (i + 1) bs

/-- A replica-set doubleword written: valid and frame (R375). -/
def ReplicaSet.put (r : ReplicaSet) (j : Nat) (v : Word) : ReplicaSet :=
  let v := fieldOf v 63 63 ||| fieldOf v 13 0
  match j with
  | 0 => { r with d0 := v }
  | 1 => { r with d1 := v }
  | 2 => { r with d2 := v }
  | _ => { r with d3 := v }

/-- A doubleword store to the replica sets (R375). -/
def putSet (off : Nat) (v : Word) (sets : Tbl ReplicaSet) : Tbl ReplicaSet :=
  let k := (off - 0x70000) / 32
  tblSet k ((tblGet ⟨0, 0, 0, 0⟩ k sets).put (off % 32 / 8) v) sets

/-- A doubleword store to a die's own registers (R363, R399); none while it must wait. -/
def State.controlPut (s : State) (die off : Nat) (v : Word) : Option State :=
  if off < 0x10000 then
    match off with
    | 0x00 => some (s.modDie die fun x => { x with ptroot := fieldOf v 47 15 })
    | 0x08 => some (s.modDie die fun x => { x with fqbase := fieldOf v 47 14 })
    | 0x18 => some (s.fqtailWrite die v)
    | 0x20 => some (s.modDie die fun x => { x with tlbva := fieldOf v 51 16 })
    | 0x28 => s.tlbCommand die v
    | 0x38 => some (match bits v 1 0 with
        | 1 => s.hctlResume die
        | 2 => s.hctlForward die
        | 3 => s.hctlEnd die
        | _ => s)
    | 0x40 => some (s.sideReplay die v)
    | 0x48 => some (if s.savesIn (s.die die).spbase (s.die die).spsize then s
        else s.modDie die fun x => { x with spbase := fieldOf v 47 16 })
    | 0x50 => some (if s.savesIn (s.die die).spbase (s.die die).spsize then s
        else s.modDie die fun x => { x with spsize := fieldOf v 47 16 })
    | _ => some s
  else if off < 0x50000 then s.rtWrite die ((off - 0x10000) / 16) (decide (off % 16 = 8)) v
  else if off < 0x54000 then s.fmapWrite die (off - 0x50000) (wordBytes64 v)
  else if off < 0x70000 then some s
  else if off < 0x72000 then
    some (s.modDie die fun x => { x with rset := putSet off v x.rset })
  else if off < 0x80000 then some s
  else if off < 0x87000 then some (s.hartWrite die (off - 0x80000) v)
  else
    some (s.modDie die fun x =>
      match off with
      | 0xA0010 => { x with dbudget := v.setWidth 32 }
      | 0xA0018 => { x with pcell := v.setWidth 16 }
      | 0xA0020 => { x with level := BitVec.ofNat 32 (bits v 63 32), drain := BitVec.ofNat 32 (bits v 31 0) }
      | 0xA0028 => { x with vfsel := v.setWidth 3 }
      | 0xA0030 => { x with thot := v.setWidth 8 }
      | 0xA0040 => x.clearErr v
      | 0xA0048 => { x with retire := v }
      | _ => x)

/-- A region's new value takes something from the requests accepted under the old one (R384): it is no longer valid, names another
place, another key or another range, or has fewer rights. -/
def regionNarrows (old new : Quad) : Bool :=
  bit old.d0 63 && (!bit new.d0 63 || decide (bits (old.d0 &&& ~~~new.d0) 62 60 ≠ 0) || decide (bits old.d0 31 8 ≠ bits new.d0 31 8)
    || decide (old.d1 ≠ new.d1) || decide (old.d2 ≠ new.d2) || decide (old.d3 ≠ new.d3))

/-- A region written; none while a request accepted under a value that it narrows is not performed (R384). -/
def State.regionPut (s : State) (i : Nat) (new : Quad) : Option State :=
  if regionNarrows (quadAt i s.regions) new && s.qps.any fun y => y.2.held.any fun x => decide (x.head.rkey.toNat % 256 = i) then none
  else some { s with regions := tblSet i new s.regions }

/-- A doubleword store to an I/O register, which the broadcast alias alone reaches (R379, R384, R386, R387, R396); none while it
must wait. -/
def State.ioPut (s : State) (off : Nat) (v : Word) : Option State :=
  let j := off % 32 / 8
  if off < 0x102000 then
    let i := (off - 0x100000) / 32
    s.regionPut i ((quadAt i s.regions).put j (regionMask j v))
  else if off < 0x103000 then
    let i := (off - 0x102000) / 32
    some { s with windows := tblSet i ((quadAt i s.windows).put j (windowMask j v)) s.windows }
  else if off < 0x104000 then some s
  else if off < 0x104800 then some (s.queuePut ((off - 0x104000) / 32) j v)
  else if off < 0x106000 then some s
  else if off < 0x106020 then some { s with eventRing := s.eventRing.put j (ringMask j v) }
  else some s

/-- What of a store through the broadcast alias reaches the I/O dies below offset 0x10_0000: the replica sets (R375). -/
def State.ioSetPut (s : State) (bcast : Bool) (off : Nat) (v : Word) : State :=
  if bcast && decide (0x70000 ≤ off) && decide (off < 0x72000) then { s with ioSets := putSet off v s.ioSets } else s

/-- A store to die-control space (R362, R363): on the steward's own die, or on every die. TLBCMD through the broadcast alias
is a single write on the own die, and SLREPLAY acts on the writing die only. -/
def State.controlWrite (s : State) (die : Nat) (bcast : Bool) (off : Nat) (v : Word) : Option State :=
  if 0x100000 ≤ off then (if bcast then s.ioPut off v else some s).map fun s => s.broadcastEnds die bcast
  else if off = 0x28 || off = 0x40 then s.controlPut die off v
  else (s.onDies (fun s d => s.controlPut d off v) (receivers die bcast)).map fun s =>
    (s.ioSetPut bcast off v).broadcastEnds die bcast

/-- REG_WRITE (R363). -/
def execRegWrite (die : Nat) (bcast : Bool) (off : Nat) (v : BitVec 64) (s : State) : Host.Outcome State Fault Refusal :=
  .next ((s.controlWrite die bcast (off / 8 * 8) v).getD s)

/-- Its offset from the start of the space, without the alias bit. -/
def controlOff (va : Word) : Nat := bits va 44 0

/-- Bytes of die-control space as loads give them (R362). -/
def State.controlBytes (s : State) (die off n : Nat) : List Byte :=
  (List.range n).map fun i => (wordBytes64 (s.controlRead die ((off + i) / 8 * 8)))[(off + i) % 8]?.getD 0

/-- A steward's load from die-control space (R362): `n` bytes of a doubleword, naturally aligned. -/
def State.controlLoad (s : State) (va : Word) (n : Nat) : Except Halt (State × List Byte) :=
  if va.toNat % n ≠ 0 then s.precise (causeAt .align va)
  else .ok (s, s.controlBytes s.me.id.die (controlOff va) n)

/-- Registers whose bytes that a narrow store does not name count as zero: those that a read does not give back. -/
def writeOnly (off : Nat) : Bool := off = 0x28 || off = 0x38 || off = 0x40 || off = 0xA0040

/-- Bytes stored into one doubleword of die-control space (R362, R363): of FMAP, each byte is a register; elsewhere the
register's other bytes are written with what they read as. -/
def State.controlPart (s : State) (die : Nat) (bcast : Bool) (off : Nat) (bs : List Byte) : Option State :=
  if 0x50000 ≤ off ∧ off < 0x54000 then
    (s.onDies (fun s d => s.fmapWrite d (off - 0x50000) bs) (receivers die bcast)).map fun s => s.broadcastEnds die bcast
  else
    let at_ := off / 8 * 8
    let old := if writeOnly at_ then List.replicate 8 0 else wordBytes64 (s.controlRead die at_)
    s.controlWrite die bcast at_ (bytesWord (old.take (off % 8) ++ bs ++ old.drop (off % 8 + bs.length)))

/-- Bytes stored into die-control space, doubleword by doubleword; none while one of the stores must wait. -/
def State.controlPuts (s : State) (die : Nat) (bcast : Bool) (off : Nat) (bs : List Byte) : Nat → Option State
  | 0 => some s
  | n + 1 =>
    if bs.isEmpty then some s
    else
      let m := 8 - off % 8
      (s.controlPart die bcast off (bs.take m)).bind fun s => s.controlPuts die bcast (off + m) (bs.drop m) n

/-- A steward's store to die-control space (R362). -/
def State.controlStore (s : State) (va : Word) (bs : List Byte) : Except Halt State :=
  if va.toNat % bs.length ≠ 0 then s.precise (causeAt .align va)
  else
    match s.controlPuts s.me.id.die (bit va 45) (controlOff va) bs (bs.length + 1) with
    | some s => .ok s
    | none => s.stall .none

/-- A request of a core to die-control space performed and answered (R362); a store that must wait leaves it. -/
def State.serveRequest (s : State) (o : Outbound) : State :=
  match o.core with
  | none => s.endOut o.id
  | some c =>
    let pa : Word := BitVec.ofNat 64 o.pa
    if o.write.isEmpty then s.answerCore o (s.controlBytes c.die (controlOff pa) o.answerBytes)
    else
      match s.controlPuts c.die (bit pa 45) (controlOff pa) o.write (o.write.length + 1) with
      | some s => s.answerCore o []
      | none => s

/-- Every request to die-control space. -/
def State.serveControl (s : State) : State := (s.outbound.filter fun o => isControl o.pa).foldl State.serveRequest s

/-- Fault records that wait are written once they can be (R376). -/
def State.settleFaults (s : State) : State :=
  (s.dies.filter fun y => !y.2.faultWait.isEmpty).foldl (fun s y => s.writeFaults y.1 (s.die y.1).faultWait) s

end Sys2Proof.Machine
end

