-- ==== Sys2Proof/Machine/Placing.lean ====
section
/-! DEFINITION. Where crews can stand: free cells, slots, blocks and lanes, claims, energy headroom, save areas, and the
start of a hart (R32, R245 to R249, R258, R262, R264, R321, R380, R391, R392, R401, R412). -/

namespace Sys2Proof.Machine

/-- The harts of cell rank r (R245). -/
def recRankHarts (x : List Word) (r : Nat) : List Nat := (List.range (recHarts x)).filter fun hr => decide (hr % recCells x = r)

/-- The free hart slots of a logical cell. -/
def State.freeSlots (s : State) (d p : Nat) : List Nat :=
  (List.range 4).filter fun k => !s.cores.any fun c => decide (c.id = .hart d p k)

/-- The hold blocks of a logical cell that resident crews have (R248). -/
def State.takenBlocks (s : State) (d p : Nat) : List Nat :=
  s.members.flatMap fun m => m.crews.flatMap fun k =>
    if k.resident && decide (k.die = d) then
      (k.cells.filter fun y => decide (y.1 = p)).flatMap fun y =>
        (List.range (recBlocks (s.recordOf m.id))).map fun i => y.2 + i
    else []

/-- Consecutive blocks are free from block b on. -/
def blocksFree (taken : List Nat) (b n : Nat) : Bool :=
  decide (b + n ≤ 8) && (List.range n).all fun i => !taken.contains (b + i)

/-- The lowest run of free blocks (R391). -/
def State.freeRun (s : State) (d p n : Nat) : Option Nat :=
  let taken := s.takenBlocks d p
  (List.range 8).find? fun b => blocksFree taken b n

/-- No crew is resident on a logical cell (R391). -/
def State.cellFree (s : State) (d p : Nat) : Bool :=
  !s.members.any fun m => m.crews.any fun k => k.resident && decide (k.die = d) && k.cells.any fun y => decide (y.1 = p)

/-- The logical cells of a die that may be used (R412). -/
def State.usableCells (s : State) (d : Nat) : List Nat :=
  if (s.die d).dead then [] else (List.range (s.cellsOfDie d)).filter fun p => !(s.die d).retire.getLsbD p

/-- The free cells of a die (R391). -/
def State.freeCells (s : State) (d : Nat) : Nat := ((s.usableCells d).filter (s.cellFree d)).length

/-- What a crew of a record asks of each cell: its blocks, and for each cell rank the lanes of its harts. -/
structure Need where
  blocks : Nat
  ranks : List (List Nat)
  deriving DecidableEq, Repr

/-- The need of a first placement (R245, R249). -/
def recNeed (x : List Word) : Need :=
  ⟨recBlocks x, (List.range (recCells x)).map fun r => (recRankHarts x r).map fun _ => recLanes x⟩

/-- A cell rank's place on a cell that can hold it (R391): its first block and slots. -/
def State.cellPlace (s : State) (d p blocks : Nat) (lanes : List Nat) : Option (Nat × Nat × List Nat) :=
  let slots := s.freeSlots d p
  if slots.length < lanes.length || decide (s.freeLanes (cellKey d p) < lanes.foldl (· + ·) 0) then none
  else (s.freeRun d p blocks).map fun b => (p, b, slots.take lanes.length)

/-- Cell ranks placed in ascending order, each on the lowest cell that can hold it and is not used yet; those that find
none are left out (R391). -/
def State.placeRanks (s : State) (d blocks : Nat) (used : List Nat) : List (List Nat) → List (Nat × Nat × List Nat)
  | [] => []
  | lanes :: rest =>
    match (s.usableCells d).findSome? fun p => if used.contains p then none else s.cellPlace d p blocks lanes with
    | some y => y :: s.placeRanks d blocks (y.1 :: used) rest
    | none => s.placeRanks d blocks used rest

/-- Energy headroom for a crew of n cells (R401). -/
def State.headroom (s : State) (d n : Nat) : Bool :=
  let x := s.die d
  decide (x.dpower.toNat + n * x.pcell.toNat ≤ x.dbudget.toNat)

/-- The place of a whole crew on a die, if it has room. -/
def State.dieRoom (s : State) (d : Nat) (n : Need) : Option CrewPlace :=
  let ys := s.placeRanks d n.blocks [] n.ranks
  if decide (ys.length = n.ranks.length) && s.headroom d n.ranks.length then some ⟨d, ys⟩ else none

/-- A crew of another launch that claims a stack has a place (R262, R395). -/
def State.claimedByOther (s : State) (k : Nat) (m : MemberId) : Bool :=
  s.members.any fun x => !(decide (x.id.queue = m.queue) && decide (x.id.seq = m.seq)) &&
    x.crews.any fun y => y.resident && (s.crewClaims y.ref).contains k

/-- The bank state of a stack may belong to a member's launch: no crew of another launch that claims the stack has a place,
and no command of another launch is queued or running there (R262), be it of a member that was killed (R266). -/
def State.bankFree (s : State) (k : Nat) (m : MemberId) : Bool :=
  !s.claimedByOther k m && !(s.stack k).seqr.any fun y =>
    y.crew.elim false fun r => !(decide (r.mem.queue = m.queue) && decide (r.mem.seq = m.seq))

/-- The lowest room for a save area in a die's pool (R380). -/
def State.saveRoom (s : State) (d n : Nat) : Option Nat :=
  let lo := (s.die d).spbase.toNat
  let hi := lo + (s.die d).spsize.toNat
  let used := s.saves
  (sortBy (fun a b => decide (a ≤ b)) (lo :: used.map fun y => y.1 + y.2)).find? fun a =>
    decide (lo ≤ a) && decide (a + n ≤ hi) && used.all fun y => decide (a + n ≤ y.1) || decide (y.1 + y.2 ≤ a)

/-- The dies a crew rank with claims may be placed on at admission (R247, R321): for each claimed stack its owner, or, when
a lower rank claims it too, the other candidate. -/
def State.claimDies (s : State) (b : Batch) (rank : Nat) : List Nat :=
  (List.range 128).filter fun d => (b.claimsOf rank).all fun k =>
    if (List.range rank).any fun r => (b.claimsOf r).contains k then isCandidate d k && decide (s.owner k ≠ d)
    else decide (s.owner k = d)

/-- The claimed stacks of a crew rank can be used by its member: no lockage, and the bank state is free (R262). -/
def State.claimsFree (s : State) (b : Batch) (m : MemberId) (rank : Nat) : Bool :=
  (b.claimsOf rank).all fun k => (s.stack k).lock.isNone && !(s.stack k).orphan && s.bankFree k m

/-- A queue's run bound (R387). -/
def State.queueBound (s : State) (q : Nat) : Nat := bits (quadAt q s.queues).d0 31 0

/-- When a member became Ready (R391). -/
def State.readyOf (s : State) (m : MemberId) : Nat :=
  match s.member? m with
  | some x => x.readyAt
  | none => (s.batch? m).elim 0 Batch.readyAt

/-- The order of R391: by queue priority, then the time Ready, then queue, sequence and member index (log 10). -/
def State.memberBefore (s : State) (a b : MemberId) : Bool :=
  let key (m : MemberId) : List Nat := [7 - s.queuePri m.queue, s.readyOf m, m.queue, m.seq, m.index]
  decide (key a < key b)

/-- Reserving members hold a die against a member (R265, R392): those of a higher priority unless its queue has a bound,
and those of its own priority before it in the order of R391. -/
def State.heldAgainst (s : State) (m : MemberId) (d : Nat) : Bool :=
  (s.reserving d).any fun x => !decide (x.id = m) &&
    ((decide (s.queuePri m.queue < s.queuePri x.id.queue) && decide (s.queueBound m.queue = 0))
      || (decide (s.queuePri m.queue = s.queuePri x.id.queue) && s.memberBefore x.id m))

/-- A die lies in the part of the panel a member would back-fill (R392). -/
def State.backfills (s : State) (m : MemberId) (d : Nat) : Bool :=
  (s.reserving d).any fun x => !decide (x.id = m) && decide (s.queuePri m.queue < s.queuePri x.id.queue)

/-- A crew's place on a die at its admission: room, a save area, and no reservation against it. -/
def State.admitOn (s : State) (m : MemberId) (x : List Word) (d : Nat) : Option CrewPlace :=
  if s.heldAgainst m d || (s.saveRoom d (saveSize x)).isNone then none else s.dieRoom d (recNeed x)

/-- Free cells left on a die after a crew is placed (R391). -/
def State.leftCells (s : State) (y : CrewPlace) : Nat :=
  s.freeCells y.die - (y.cells.filter fun z => s.cellFree y.die z.1).length

/-- Of places on several dies, the one left with the fewest free cells, then of the lowest die (R391). -/
def State.tighter (s : State) (a b : CrewPlace) : Bool :=
  let x := s.leftCells a
  let y := s.leftCells b
  decide (x < y) || (decide (x = y) && decide (a.die ≤ b.die))

/-- The places of the crews of a train (R321, R391, R394): those with claims first, each on a die of its own; the others on
the tightest dies left, in ascending die number. -/
def State.placeTrain (s : State) (b : Batch) (m : MemberId) : Option (List CrewPlace) :=
  let ranks := List.range (recCrews b.dw)
  let claiming := ranks.filter fun r => !(b.claimsOf r).isEmpty
  let fixed := claiming.foldl (fun (acc : Option (List (Nat × CrewPlace))) r =>
    acc.bind fun ys =>
      if s.claimsFree b m r then
        ((s.claimDies b r).filter fun d => !ys.any fun y => decide (y.2.die = d)).findSome? fun d =>
          (s.admitOn m b.dw d).map fun y => ys ++ [(r, y)]
      else none) (some [])
  fixed.bind fun ys =>
    let rest := ranks.filter fun r => (b.claimsOf r).isEmpty
    let free := (List.range 128).filterMap fun d => if ys.any fun y => decide (y.2.die = d) then none else s.admitOn m b.dw d
    let best := sortBy (fun a c => decide (a.die ≤ c.die)) ((sortBy s.tighter free).take rest.length)
    if best.length = rest.length then
      some ((sortBy (fun a c => decide (a.1 ≤ c.1)) (ys ++ rest.zip best)).map fun y => y.2)
    else none

/-- The places of the crews of a candidate, if it can be placed (R391, R394). -/
def State.placement (s : State) (m : MemberId) : Option (List CrewPlace) :=
  match s.batch? m with
  | none => none
  | some b =>
    if recTrain b.dw then s.placeTrain b m
    else if s.claimsFree b m 0 then
      let dies := if (b.claimsOf 0).isEmpty then List.range 128 else s.claimDies b 0
      ((sortBy s.tighter (dies.filterMap fun d => s.admitOn m b.dw d)).head?).map fun y => [y]
    else none

/-- A hart of a crew at its place, stopped until its crew starts (R11, R29, R32, R249). -/
def State.newHart (s : State) (x : List Word) (r : CrewRef) (d p block slot cellRank hr : Nat) : Core :=
  { Core.start (.hart d p slot) (some (r, hr)) .user (dwAt x 0) (dwAt x 1) (BitVec.ofNat 5 (recLanes x)) with
    crewReg := BitVec.ofNat 64 (recCrews x * 2 ^ 32 + recCells x * 2 ^ 16 + recHarts x)
    rank := BitVec.ofNat 64 (r.rank * 2 ^ 24 + hr / recCells x * 2 ^ 16 + cellRank * 2 ^ 8 + hr)
    holdsize := BitVec.ofNat 64 (recBlocks x * 2 ^ 16)
    holdbase := BitVec.ofNat 3 block
    cellphys := BitVec.ofNat 15 (d * 2 ^ 8 + s.physCell d p)
    stopped := true
    readySince := s.turn }

/-- The harts `hrs` of a cell rank at the place of their cell. -/
def State.rankHarts (s : State) (x : List Word) (r : CrewRef) (d cellRank : Nat) (y : Nat × Nat × List Nat) (hrs : List Nat) :
    List Core :=
  (hrs.zip y.2.2).map fun z => s.newHart x r d y.1 y.2.1 z.2 cellRank z.1

/-- A member placed (R265 Placing): its crews get cells, blocks, slots and save areas, and its harts are bound but do not
run yet; lanes that it held while Reserving and does not take are handed out (R254). -/
def State.place (s : State) (id : MemberId) (ps : List CrewPlace) : State :=
  match s.batch? id with
  | none => s
  | some b =>
    let x := b.dw
    let crew (y : CrewPlace × Nat) : Crew :=
      { ref := ⟨id, y.2⟩, die := y.1.die, cells := y.1.cells.map fun z => (z.1, z.2.1), resident := true, placedAt := s.time,
        movedAt := s.time, stoodAt := s.time, save := (s.saveRoom y.1.die (saveSize x)).getD 0, energy := 0, log := [], streams := [], held := [],
        stops := [], phys := [], halted := [] }
    let harts (y : CrewPlace × Nat) : List Core := y.1.cells.zipIdx.flatMap fun z =>
      s.rankHarts x ⟨id, y.2⟩ y.1.die z.2 z.1 (recRankHarts x z.2)
    let waiting : Bool := (s.member? id).isSome
    let m : Member :=
      { id := id, state := .placing, crews := ps.zipIdx.map crew, readyAt := b.readyAt, energyHeld := false, moves := [],
        ceiling := recCeiling x, reserved := [], areas := [], kcause := 0, backfill := ps.any fun y => s.backfills id y.die }
    let held := (s.member? id).elim [] Member.reserved
    let s := { s with
      members := s.members.filter (fun y => !decide (y.id = id)) ++ [m]
      cores := s.cores ++ ps.zipIdx.flatMap harts
      batches := if waiting then s.batches
        else s.batches.map fun (y : Batch) => if y.queue = b.queue ∧ y.seq = b.seq then { y with next := y.next + 1 } else y }
    held.foldl State.laneReturnDie s

end Sys2Proof.Machine
end

