-- ==== Sys2Proof/Machine/Preempt.lean ====
section
/-! DEFINITION. Lane reclaims, stop requests, saving a gang and resuming it (R253 to R264, R202, R228, R380 to R382). -/

namespace Sys2Proof.Machine

/-- A reclaim marked pending on a hart: its new grant, from 1 to below what it has, and its event latch (R253). -/
def State.reclaim (s : State) (v : CoreId × Nat) : State :=
  s.modCore v.1 fun c =>
    if !c.isSteward && decide (1 ≤ v.2) && decide (v.2 < c.dueGrant) then
      { c with target := some (BitVec.ofNat 5 v.2), latch := true }
    else c

/-- The crews of a member. -/
def State.crewRefs (s : State) (m : MemberId) : List CrewRef := (s.member? m).elim [] fun x => x.crews.map fun k => k.ref

/-- A resident member is asked to stop, every hart of it (R255). -/
def State.preempt (s : State) (m : MemberId) : State :=
  match s.member? m with
  | none => s
  | some x =>
    if x.state = .resident then
      let rs := s.crewRefs m
      let s := s.modMember m fun x => { x with state := .stopping }
      { s with cores := s.cores.map fun c =>
          if c.crewRef?.elim false fun r => rs.contains r then { c with stopAsked := true, latch := true } else c }
    else s

/-- RECLAIM_TIMEOUT (R253): a hart that has not taken its reclaim has its whole crew pre-empted. -/
def State.reclaimTimeout (s : State) (id : CoreId) : State :=
  match s.core? id with
  | none => s
  | some c =>
    match c.crewRef? with
    | some r => if c.target.isSome && decide (c.dueGrant < c.grant.toNat) then s.preempt r.mem else s
    | none => s

def execReclaimTimeout (c : CoreId) (s : State) : Host.Outcome State Fault Refusal := .next (s.reclaimTimeout c)

/-- The waits that are natural stop points (R255). -/
def Wait.natural : Wait → Bool
  | .wfe | .phase _ _ _ _ | .barrier _ _ _ | .lqPop _ _ _ _ | .engine _ _ _ _ | .sequencer _ _ _ _ _ | .seal _ _ _ _ => true
  | .none | .lqPush | .sideLog | .replay | .covered _ _ _ | .scoreboard _ _ _ | .lockage _ | .remote _ | .gate _ | .retrain _ _ => false

/-- A hart whose next instruction follows a checkpoint: its strip is empty and cr.ckpt is the instruction's address. -/
def Core.atCheckpoint (c : Core) : Bool := decide (c.strip = .empty) && decide (c.ckpt = c.pc) && c.frame.isNone

/-- An instruction that has sent a request to remote memory has issued. -/
def Core.asksRemote (c : Core) : Bool := !c.remote.isEmpty || (match c.wait with | .remote _ => true | _ => false)

/-- Whether a hart asked to stop is at a natural stop point before its next instruction (R255): split, parked, waiting
in one of the named waits, or just past a checkpoint. -/
def Core.atStop (c : Core) : Bool :=
  c.parked.isSome || c.split.on || c.wait.natural || (c.atCheckpoint && !c.asksRemote)

/-- The hart stops where it stands once its strip closes (R255); none while that must wait. The resume PC and cr.ckpt of a parked
hart stay as they are, and so do those of a hart with no open strip that is at no natural stop point. A cause met by a store of the
closing strip is taken as ever. -/
def State.tryStop (s : State) : Option State :=
  let kept : Bool := s.me.parked.isSome || (s.me.noStrip && !s.me.atStop)
  match s.closeStrip with
  | .ok s => some (s.upd fun c => if kept then { c with stopped := true, frame := none } else c.stopHere)
  | .error h => match h.why with
    | .trap _ _ _ => some h.next
    | .wait _ | .stop => none

/-- A hart stopped by force (R123, R256): outside split mode its strip is unwound, and it resumes at cr.ckpt; where that is
from before the handler of a precise trap that it runs, the handler is entered anew (log 35). One at its checkpoint already keeps what
remote memory has answered it. -/
def Core.forceStop (c : Core) : Core :=
  if c.split.on || c.atCheckpoint then { c with stopped := true }
  else
    { c.unwind.endWait with
      stopped := true
      cause := if c.ckptKept then { c.cause with active := false } else c.cause
      ckptKept := false }

/-- FORCED_STOP (R256): of a hart asked to stop that has not. At a natural stop point it stops there (R255) if its strip can
close; a parked one, and one with no open strip, of which nothing is unwound (R255, R348), stop only once it can; one in a repeat
frame of two or more is let finish it (R167). -/
def State.forcedStop (s : State) (id : CoreId) : State :=
  match s.core? id with
  | none => s
  | some c =>
    if !c.stopAsked || c.stopped || (c.frame.elim false fun f => decide (2 ≤ f.count)) then s
    else
      let t := { s with cur := id }
      let t := (if c.atStop || c.noStrip then t.tryStop else none).getD
        (if c.parked.isSome || c.noStrip then t else (if c.atCheckpoint then t else t.dropOut id).modCore id Core.forceStop)
      { t with cur := s.cur }

def execForcedStop (c : CoreId) (s : State) : Host.Outcome State Fault Refusal := .next (s.forcedStop c)

/-- The offsets of a context's doublewords (R382). -/
def ctxOffsets : List Nat := (List.range 0xE00).map fun i => 8 * i

/-- A hart's context (R382), and what the crew records keep of it besides (R257). -/
def Core.ctxBytes (c : Core) : List Byte := ctxOffsets.flatMap fun off => wordBytes64 (c.ctxWord c.pc c.ctxLast off)

def Core.savedHart (c : Core) : SavedHart :=
  ⟨c.hartRank, c.grant, c.request, c.target, c.cbars, c.tbars, c.wait, c.parked, c.moved, c.split.waiting, c.split.halted,
    c.split.wfe, c.stepwise, c.ckptKept, c.pending, c.remote⟩

/-- The crew header (R381). -/
def State.crewHeader (s : State) (k : Crew) (saved : Nat) : List Byte :=
  ([memberWord k.ref.mem, dwAt (s.recordOf k.ref.mem) 2, BitVec.ofNat 64 (k.die + saved * 2 ^ 8), s.timeWord,
    BitVec.ofNat 64 (k.energy / 1000), 0, 0, 0] : List Word).flatMap wordBytes64

/-- The release side for harts at the scope of the panel, all kinds, whatever their side logs hold (R257); none while a
stack it writes to cannot take it. A hart with lines of a stack whose two candidates are dead takes LINK when it goes on, its
lines being lost (R413; log 34). -/
def State.releaseAll (s : State) : List CoreId → Option State
  | [] => some s
  | id :: rest =>
    let xs := s.ownDirty id true true
    if xs.any fun x => (s.homeWait id.die (64 * x.line)).isSome then none
    else
      let t :=
        if s.linesLost xs then (s.modCore id (Core.pendLink 0)).modDie id.die fun y =>
          { y with nonHome := y.nonHome.filter fun x => !(xs.contains x && s.lineLost x) }
        else s
      (t.cleanLines id.die (xs.filter fun x => !s.lineLost x)).releaseAll rest

/-- Something done for each of some cores in turn; none while one of them must wait. -/
def State.eachCore (s : State) (f : State → CoreId → Except Halt State) : List CoreId → Option State
  | [] => some s
  | id :: rest =>
    match f s id with
    | .ok s => s.eachCore f rest
    | .error _ => none

/-- The acquire side for harts at the scope of the panel, all kinds (R257). -/
def State.acquireAll (s : State) (ids : List CoreId) : Option State := s.eachCore (fun s id => s.acquire id .panel true true) ids

/-- A crew's stream commands and side-log entries taken from the cells (R257). -/
def State.takeCrew (s : State) (r : CrewRef) : State :=
  let mineQ (x : StreamCmd) : Bool := decide (x.crew = r)
  let mineL (e : LogEntry) : Bool := decide (e.crew.map Prod.fst = some r)
  let qs := s.cells.flatMap fun (y : Nat × Cell) => y.2.queue.filter mineQ
  let ls := s.cells.flatMap fun (y : Nat × Cell) => y.2.log.filter mineL
  let s := { s with cells := s.cells.map fun (y : Nat × Cell) =>
    (y.1, { y.2 with queue := y.2.queue.filter fun x => !mineQ x, log := y.2.log.filter fun e => !mineL e }) }
  s.modCrew r fun k => { k with streams := qs, log := ls }

/-- A crew saved (R257, R258, R381), of its holds the bytes below the record's discard (R418): its bank commands park, its streams and side-log entries go to its records, its header,
contexts and hold to its save area, and its harts leave. -/
def State.saveCrew (s : State) (k : Crew) : State :=
  let x := s.recordOf k.ref.mem
  let cs := s.hartsOf k.ref
  let s := (s.parkCrew k.ref).takeCrew k.ref
  let s := s.putUnsealed k.save (s.crewHeader k cs.length)
  let s := cs.foldl (fun s c => s.putUnsealed (k.save + saveContext c.hartRank) c.ctxBytes) s
  let s := k.cells.zipIdx.foldl (fun s y =>
    s.putUnsealed (k.save + saveHold x y.2) (s.locBytes (holdLoc k.die y.1.1 (y.1.2 * 2 ^ 16)) (recDiscard x))) s
  let s := s.modCrew k.ref fun k => { k with
    resident := false
    stops := cs.map Core.savedHart
    phys := k.cells.map fun y => s.physCell k.die y.1 }
  (s.removeHarts [k.ref]).laneReturns k.die (k.cells.map Prod.fst)

/-- The stacks of crews that a member has moved for heat handed to their target dies by lockage with park (R406). -/
def State.handStacks (s : State) (m : Member) : State :=
  m.moves.foldl (fun s z => (s.crewClaims ⟨m.id, z.1⟩).foldl (fun s k =>
    if (s.stack k).lock.isSome || decide (s.owner k = z.2) then s
    else s.startLockage k ⟨1, s.owner k, z.2, true, none, some m.id⟩) s) s

/-- The home of some save area of a member's crews may be held, which delays saving and restoring (R378). -/
def State.areaHeld (s : State) (x : Member) : Bool :=
  x.crews.any fun k => s.rangeHeld k.save (saveSize (s.recordOf x.id))

/-- GANG_SAVE_DONE (R256 to R258): every hart of a Stopping member has stopped, no request of its is under
way, and the release side has been performed. -/
def State.gangSave (s : State) (m : MemberId) : State :=
  match s.member? m with
  | none => s
  | some x =>
    let cs := x.crews.flatMap fun k => s.hartsOf k.ref
    let busy : Bool := (s.cells.any fun (y : Nat × Cell) =>
      y.2.queue.any fun z => z.waiting && x.crews.any fun k => decide (k.ref = z.crew))
        || s.outbound.any fun o => cs.any fun c => decide (o.core = some c.id)
    if decide (x.state ≠ .stopping) || cs.isEmpty || busy || s.areaHeld x || !cs.all Core.stopped then s
    else
      match s.releaseAll (cs.map Core.id) with
      | none => s
      | some s => ((x.crews.foldl State.saveCrew s).handStacks x).modMember m fun x => { x with state := .saved }

def execGangSaveDone (m : MemberId) (s : State) : Host.Outcome State Fault Refusal := .next (s.gangSave m)

/-- The saved harts of a cell rank, in ascending hart rank. -/
def Crew.rankStops (k : Crew) (cells r : Nat) : List SavedHart :=
  sortBy (fun a b => decide (a.rank ≤ b.rank)) (k.stops.filter fun x => decide (x.rank % cells = r))

/-- A Reserving member of another launch, of the same priority or a higher one, claims a stack: it holds what was freed
for it, the use of the stack's bank state with the rest (R262, R393). -/
def State.claimHeld (s : State) (m : MemberId) (stack : Nat) : Bool :=
  s.members.any fun x => decide (x.state = .reserving) && !(decide (x.id.queue = m.queue) && decide (x.id.seq = m.seq))
    && decide (s.queuePri m.queue ≤ s.queuePri x.id.queue)
    && (s.batch? x.id).elim false fun b => (List.range (recCrews b.dw)).any fun r => (b.claimsOf r).contains stack

/-- Resources a saved crew finds at a place (R247, R248, R259, R262, R401). -/
def State.resumeFits (s : State) (m : Member) (k : Crew) (y : CrewPlace) : Bool :=
  let x := s.recordOf m.id
  decide (y.cells.length = recCells x) && s.headroom y.die (recCells x) && !s.heldAgainst m.id y.die
    && (m.moves.all fun z => !decide (z.1 = k.ref.rank) || decide (z.2 = y.die))
    && (s.crewClaims k.ref).all (fun st => isCandidate y.die st && s.bankFree st m.id && !s.claimHeld m.id st && (m.moves.isEmpty || (s.stack st).lock.isNone))
    && decide ((y.cells.map fun z => z.1).Nodup)
    && y.cells.zipIdx.all fun z =>
      let stops := k.rankStops (recCells x) z.2
      let free := s.freeSlots y.die z.1.1
      (s.usableCells y.die).contains z.1.1 && blocksFree (s.takenBlocks y.die z.1.1) z.1.2.1 (recBlocks x)
        && decide (z.1.2.2.length = stops.length) && decide (z.1.2.2.Nodup) && z.1.2.2.all free.contains
        && decide ((stops.foldl (fun n h => n + h.grant.toNat) 0) ≤ s.freeLanes (cellKey y.die z.1.1))

/-- The wait a saved hart takes up: a bank command that waited for the sequencer is issued anew, and so is a seal instruction, each
from its start (R234, R255). -/
def Wait.resumed : Wait → Wait
  | .sequencer _ _ _ _ _ | .seal _ _ _ _ => .none
  | w => w

/-- A hart restored from its context and the crew's records (R259 to R261), a reclaim that was pending with it (R264). The lane
thread that trapped in one still parked is the one that its steward resumes or sends to its handler (R121). -/
def State.restoreHart (s : State) (c : Core) (k : Crew) (h : SavedHart) (moved : BitVec 2) : Core :=
  let word (off : Nat) : Word := s.readWord (k.save + saveContext h.rank + off)
  let c := ctxOffsets.foldl (fun c off => c.setCtx off (word off)) c
  { c with
    pc := word 0xF8
    grant := h.grant
    request := h.request
    cbars := h.cbars
    tbars := h.tbars
    target := h.target.filter fun t => decide (t < h.grant)
    wait := h.wait.resumed
    remote := h.remote
    parked := h.parked
    moved := h.moved ||| moved
    split := { c.split with
      waiting := h.waiting
      halted := h.halted
      wfe := h.wfe
      lane := h.parked.elim c.split.lane fun p => Fin.ofNat 16 p.lane }
    stepwise := h.stepwise
    ckptKept := h.ckptKept
    pending := h.pending
    energy := BitVec.ofNat 64 (k.energy / 1000)
    latch := true
    stopped := false }

/-- Bytes of a bank-context area (R262). -/
def areaSize : Nat := 25 * 2 ^ 20

/-- A bank-context area pinned in a stack for a launch that has none there (R262, R378), at a free place. No rule gives the size of a
stack's pool, so the model never finds it full, and areas, and an area and a save area, may overlap (log 23). -/
def State.pinArea (s : State) (k : Nat) (l : Nat × Nat) : State :=
  let x := s.stack k
  if x.areas.any fun y => decide (y.1 = l) then s
  else
    let base := k * 2 ^ 35 + Config.contextPlace s.ticks % ((2 ^ 35 - areaSize) / 2 ^ 16 + 1) * 2 ^ 16
    { s with ticks := s.ticks + 1 }.setStack k { x with areas := x.areas ++ [(l, base)] }

/-- A bank state written to its launch's area, at home (R262, R378), but for bytes in a sealed frame (R373; log 34). -/
def State.fillArea (s : State) (k : Nat) (l : Nat × Nat) : State :=
  match (s.stack k).areas.find? fun y => decide (y.1 = l) with
  | none => s
  | some (_, base) =>
    let open_ (o : Nat) : Bool := !s.sealedAt (base + o)
    let xs := (Config.contextBytes s.ticks).filter fun y => decide (y.1 < areaSize) && open_ y.1
    let key (o : Nat) : Nat := s.dramKey (base + o)
    let rows := (List.range (areaSize / 2 ^ 10)).filter fun i => open_ (2 ^ 10 * i)
    let clear := s.dram.filter fun e => !rows.any fun i =>
      decide (key (2 ^ 10 * i) ≤ e.1) && decide (e.1 < key (2 ^ 10 * i) + 2 ^ 10)
    { s with
      ticks := s.ticks + 1
      dram := xs.foldl (fun m y => memWrite (key y.1) y.2 m) clear
      homeCache := s.homeCache.filter fun e => !(decide (base ≤ e.1) && decide (e.1 < base + areaSize) && open_ (e.1 - base)) }

/-- The bank state of a stack switched to a member's launch (R262): the outgoing launch's is written to its area while any of its
members remains, the incoming one's is loaded, or reset values for a launch new to the stack, whose area is pinned. What a saved
state holds is kept as such, since no rule lays it out in the area's bytes (log 23). -/
def State.switchBanks (s : State) (m : MemberId) (k : Nat) : State :=
  let x := s.stack k
  let l := (m.queue, m.seq)
  if x.launch = some l then s
  else
    let lo := k * 2 ^ 22
    let rows := s.mailbox.filter fun e => decide (lo ≤ e.1) && decide (e.1 < lo + 2 ^ 22)
    let lives (j : Nat × Nat) : Bool := s.batches.any fun b => decide (b.queue = j.1) && decide (b.seq = j.2) && !b.finished
    let kept := (x.saved ++ (match x.launch with | some j => [(j, { x.bank with rows := rows })] | none => [])).filter fun y =>
      lives y.1
    let s := match x.launch with | some j => if lives j then s.fillArea k j else s | none => s
    let bank := match kept.find? fun y => decide (y.1 = l) with
      | some y => y.2
      | none => .reset
    let s := { s with mailbox := bank.rows.foldl (fun t (e : Nat × Byte) => memWrite e.1 e.2 t) (memClear lo (2 ^ 22) s.mailbox) }
    (s.setStack k { x with
      launch := some l
      bank := { bank with rows := [] }
      saved := kept.filter fun y => !decide (y.1 = l) }).pinArea k l

/-- A switch of bank states that a member needs waits for the home of an area it writes or reads (R307, R378). -/
def State.switchHeld (s : State) (m : Member) : Bool :=
  let l := (m.id.queue, m.id.seq)
  m.crews.any fun k => (s.crewClaims k.ref).any fun st =>
    let x := s.stack st
    decide (x.launch ≠ some l) && (x.launch.isSome || x.saved.any fun y => decide (y.1 = l)) && (x.lock.isSome || !x.retrain.isEmpty)

/-- The bank states of a member's claimed stacks switched (R262). -/
def State.switchAll (s : State) (m : Member) : State :=
  m.crews.foldl (fun s k => (s.crewClaims k.ref).foldl (fun s st => s.switchBanks m.id st) s) s

/-- A hold window of n bytes from a place on: `bs`, then zeros (R248, R261); at placement the hold image, or zeros (R418). -/
def State.fillHold (s : State) (d p block n : Nat) (bs : List Byte) : State :=
  let at_ := cellKey d p * 2 ^ 19 + block * 2 ^ 16
  { s with hold := memWrites at_ bs (memClear at_ n s.hold) }

/-- A crew resumed at a place (R259 to R261), with its side-log entries in the logs of its new cells, those of harts that had
halted among them (R257, R377). The bytes below the record's discard are as they were saved (R418). -/
def State.resumeCrew (s : State) (k : Crew) (y : CrewPlace) : State :=
  let x := s.recordOf k.ref.mem
  let phys := y.cells.map fun z => s.physCell y.die z.1
  let moved : BitVec 2 := if y.die ≠ k.die then 3 else if phys ≠ k.phys then 1 else 0
  let harts := y.cells.zipIdx.flatMap fun z =>
    let stops := k.rankStops (recCells x) z.2
    (stops.zip (s.rankHarts x k.ref y.die z.2 z.1 (stops.map fun h => h.rank))).map fun w => s.restoreHart w.2 k w.1 moved
  let s := y.cells.zipIdx.foldl (fun s z =>
    s.fillHold y.die z.1.1 z.1.2.1 (recBlocks x * 2 ^ 16) (s.locBytes (k.save + saveHold x z.2) (recDiscard x))) s
  let s := y.cells.zipIdx.foldl (fun s z => s.modCell (cellKey y.die z.1.1) fun c => { c with
    queue := c.queue ++ k.streams.filter fun q => decide (q.cellRank = z.2)
    log := c.log ++ k.log.filterMap fun e =>
      e.crew.bind fun y' => if y'.2 % recCells x = z.2 then
        some { e with core := (harts.find? fun h => decide (h.crew = e.crew)).elim (.hart y.die z.1.1 e.core.slot) Core.id }
      else none }) s
  let s := { s with cores := s.cores ++ harts }
  (s.modCrew k.ref fun k => { k with
    die := y.die, cells := y.cells.map fun z => (z.1, z.2.1), resident := true, movedAt := s.time
    stoodAt := if y.die = k.die then k.stoodAt else s.time
    stops := [], streams := [], log := [] }).laneReturns y.die (y.cells.map fun z => z.1)

/-- The harts of a member see, in what they fetch, memory as it is when they start or resume (R105; log 13). -/
def State.freshCode (s : State) (m : MemberId) : State :=
  { s with cores := s.cores.map fun c => if c.crewRef?.any fun r => decide (r.mem = m) then { c with code := s.codeView } else c }

/-- Of a member with migrate = 1, the claimed stacks that the dies of its crews do not own are handed to them by lockage with
park (R247; log 10). Of two crews of a train that claim one stack, the first by rank whose die does not own it gets it, be it that the
die of the other does (R321 leaves it open; log 10). -/
def State.bringStacks (s : State) (m : MemberId) : State :=
  if !recMigrate (s.recordOf m) then s
  else
    ((s.member? m).elim [] Member.crews).foldl (fun s k => (s.crewClaims k.ref).foldl (fun s st =>
      if (s.stack st).lock.isSome || (s.stack st).orphan || decide (s.owner st = k.die) || s.claimedByOther st m then s
      else s.startLockage st ⟨1, s.owner st, k.die, true, none, none⟩) s) s

/-- A saved member resumed (R259): every crew at once, on distinct dies (R246), with the acquire side performed (R257). None is once
120 °C has been reached (R408). -/
def State.resume (s : State) (m : MemberId) (ps : List CrewPlace) : State :=
  match s.member? m with
  | none => s
  | some x =>
    if x.state = .saved && !x.energyHeld && !s.boot.overheated && !s.areaHeld x && !s.switchHeld x && decide (ps.length = x.crews.length)
        && decide ((ps.map fun y => y.die).Nodup) && (x.crews.zip ps).all fun y => s.resumeFits x y.1 y.2 then
      let t := (x.crews.zip ps).foldl (fun s y => s.resumeCrew y.1 y.2) (s.switchAll x)
      let t := t.modMember m fun x => { x with
        state := .resident, moves := [], backfill := ps.any fun y => s.backfills m y.die }
      ((t.acquireAll ((x.crews.flatMap fun k => t.hartsOf k.ref).map Core.id)).map fun t =>
        (t.freshCode m).bringStacks m).getD s
    else s

/-- Places at which a saved member can resume, chosen for each crew as R391 chooses a first placement, a die that owns the
claimed stacks before one that does not (R247). -/
def State.resumePlaces (s : State) (m : Member) : Option (List CrewPlace) :=
  let x := s.recordOf m.id
  m.crews.foldl (fun (acc : Option (List CrewPlace)) k => acc.bind fun ys =>
    let need : Need := ⟨recBlocks x, (List.range (recCells x)).map fun r => (k.rankStops (recCells x) r).map fun h => h.grant.toNat⟩
    let opts := (List.range 128).filterMap fun d =>
      if ys.any fun y => decide (y.die = d) then none
      else (s.dieRoom d need).bind fun y => if s.resumeFits m k y then some y else none
    let owns (y : CrewPlace) : Bool := (s.crewClaims k.ref).all fun st => decide (s.owner st = y.die)
    let order (a b : CrewPlace) : Bool := if owns a == owns b then s.tighter a b else owns a
    (sortBy order opts).head?.map fun y => ys ++ [y]) (some [])

/-- The saved members in the order of R391: by priority, then Ready time. -/
def State.savedInOrder (s : State) : List Member :=
  let le (a b : Member) : Bool :=
    let pa := s.queuePri a.id.queue
    let pb := s.queuePri b.id.queue
    decide (pb < pa) || (decide (pa = pb) && decide (a.readyAt ≤ b.readyAt))
  sortBy le (s.members.filter fun m => decide (m.state = .saved))

/-- The first saved member that has room resumes. -/
def State.resumeNext (s : State) : State :=
  (s.savedInOrder.findSome? fun m => (s.resumePlaces m).map fun ps => s.resume m.id ps).getD s

/-- CREW_RESUME (R259). -/
def execCrewResume (m : MemberId) (ps : List CrewPlace) (s : State) : Host.Outcome State Fault Refusal := .next (s.resume m ps)

end Sys2Proof.Machine
end

