-- ==== Sys2Proof/Machine/Admission.lean ====
section
/-! DEFINITION. Launch queues as the schedulers read them, the order of admission, what makes room for a candidate,
placing, and the end of a member (R207, R253, R265, R387 to R396). -/

namespace Sys2Proof.Machine

/-- Every member of a record has been admitted, or the record skipped (R388). -/
def State.admitted (s : State) (b : Batch) : Bool :=
  b.finished || (decide (recCount b.dw ≤ b.next) &&
    !s.members.any fun m => decide (m.id.queue = b.queue) && decide (m.id.seq = b.seq) && decide (m.state = .reserving))

/-- The head of a queue's control block moved past records whose members have all been admitted (R388).
`n` bounds the records passed. -/
def State.advanceHead (s : State) (q : Nat) : Nat → State
  | 0 => s
  | n + 1 =>
    let h := (s.readWord (s.controlBlock q + 0x10)).toNat
    match s.batches.find? fun b => decide (b.queue = q) && decide (b.seq = h) with
    | none => s
    | some b =>
      if s.admitted b then
        (s.writeWord (s.controlBlock q + 0x10) (BitVec.ofNat 64 (h + 1))).advanceHead q n
      else s

/-- The same with finished records below the head forgotten. -/
def State.advance (s : State) (q : Nat) : State :=
  let s := s.advanceHead q s.batches.length
  let h := (s.readWord (s.controlBlock q + 0x10)).toNat
  { s with batches := s.batches.filter fun y => !(y.finished && decide (y.queue = q) && decide (y.seq < h)) }

/-- The place of a virtual address as the schedulers and placing reach it, through a die's page tables, at home; none where it
does not translate or is not in device memory (R205, R390). -/
def State.tablePlace (s : State) (d : Nat) (va : Word) : Option Nat :=
  if va.toNat < 2 ^ 32 || decide (bits va 63 52 ≠ 0) then none
  else
    let leaf : Option (Bool × Word) :=
      match (s.die d).resident va with
      | .ok w => some (true, w)
      | .error _ => match s.walk d va with
        | .ok y => some y
        | .error _ => none
    match leaf with
    | none => none
    | some (huge, w) =>
      match finish .load huge w va with
      | .ok p => if isRemote p.loc then none else some (s.homePlace d p)
      | .error _ => none

/-- `n` bytes so read. -/
def State.tableBytes (s : State) (d : Nat) (va : Word) (n : Nat) : Option (List Byte) :=
  (List.range n).mapM fun i => (s.tablePlace d (va + BitVec.ofNat 64 i)).map s.locByte

/-- The home of some of them, or of a page table on the way to them, is held, so that the read waits (R307). -/
def State.tableHeld (s : State) (d : Nat) (va : Word) (n : Nat) : Bool :=
  (List.range n).any fun i =>
    let a := va + BitVec.ofNat 64 i
    (s.walkHeld d a).isSome || (s.tablePlace d a).any s.heldAt

/-- The die whose page tables the schedulers use: the lowest live one (the manual names none). -/
def State.schedulerDie (s : State) : Nat := ((List.range 128).find? fun d => !(s.die d).dead).getD 0

/-- A claim table read once with its record; none when it is bad (R390). -/
def State.readClaims (s : State) (x : List Word) : Option (List Word) :=
  if recTable x then
    if (dwAt x 5).toNat % 8 ≠ 0 then none
    else
      ((s.tableBytes s.schedulerDie (dwAt x 5) (8 * recCrews x)).map fun bs =>
        (List.range (recCrews x)).map fun k => bytesWord ((bs.drop (8 * k)).take 8)).bind fun ws =>
          if ws.any badEntry then none else some ws
  else some []

/-- The candidate dies of a crew rank's claims on an idle panel (R247). -/
def Batch.idleDies (b : Batch) (fits : List Nat) (rank : Nat) : List Nat :=
  fits.filter fun d => (b.claimsOf rank).all fun k => isCandidate d k

/-- One more crew rank matched to a die of its own, moving others along an augmenting path; `fuel` bounds the path. -/
def augment (dies : Nat → List Nat) : Nat → List Nat → List (Nat × Nat) → Nat → Option (List (Nat × Nat))
  | 0, _, _, _ => none
  | fuel + 1, seen, asg, rank =>
    (dies rank).findSome? fun d =>
      if seen.contains d then none
      else
        match asg.find? fun y => decide (y.2 = d) with
        | none => some ((rank, d) :: asg)
        | some (other, _) =>
          (augment dies fuel (d :: seen) (asg.filter fun y => !decide (y.2 = d)) other).map fun asg =>
            if asg.any fun y => decide (y.2 = d) then asg else (rank, d) :: asg

/-- An idle panel could hold a train (R394). -/
def State.trainFits (s : State) (b : Batch) : Bool :=
  let fits := if 16 < needLanes b.dw then [] else (List.range 128).filter fun d => decide (recCells b.dw ≤ (s.usableCells d).length)
  let ranks := (List.range (recCrews b.dw)).filter fun r => !(b.claimsOf r).isEmpty
  decide (recCrews b.dw ≤ fits.length) &&
    (ranks.foldl (fun (asg : Option (List (Nat × Nat))) r => asg.bind fun asg => augment (b.idleDies fits) 129 [] asg r)
      (some [])).isSome

/-- The records of a queue that have been published and not read, the first (R389). -/
def State.nextSlot (s : State) (q : Nat) : Option Nat :=
  let cb := s.controlBlock q
  let tail := s.readWord cb
  let head := s.readWord (cb + 0x10)
  ((List.range (tail - head).toNat).map fun i => (head + BitVec.ofNat 64 i).toNat).find? fun n =>
    !s.batches.any fun b => decide (b.queue = q) && decide (b.seq = n)

/-- A record checked as it is read (R390): done and the dependences are those that LAUNCH bound, and zero in a host's. -/
def badRecord (x : List Word) (host : Bool) : Bool :=
  (List.range 16).any (badDword x) || (host && (decide (dwAt x 7 ≠ 0) || decide (recDeps x ≠ 0)))

/-- A bad record skipped (R390): bad record and the first such sequence in the status, done and head, an event record. -/
def State.badRecordRead (s : State) (q n : Nat) (x : List Word) : State :=
  let cb := s.controlBlock q
  let status := s.readWord (cb + 0x20)
  let s := if bit status 62 then s
    else s.writeWord (cb + 0x20) (putBits (status ||| BitVec.ofNat 64 (2 ^ 62)) 0 32 n)
  let s := { s with batches := s.batches ++ [(⟨q, n, x, [], none, [], 0, 0, 0, 0, s.time, true⟩ : Batch)] }
  ((s.countDone q).eventRecord 2 0 (memberWord ⟨q, n, 0⟩) (BitVec.ofNat 64 q)).advance q

/-- A good record taken (R207, R390, R394): its batch waits for its dependences, or, a train that no panel could hold, is
killed whole. -/
def State.takeRecord (s : State) (b : Batch) : State :=
  let s := { s with
    members := s.members.filter fun m => !(decide (m.id.queue = b.queue) && decide (m.id.seq = b.seq)) }
  let s :=
    if recTrain b.dw && !s.trainFits b && decide (recCount b.dw ≠ 0) then
      let b := { b with deps := [], next := recCount b.dw, killed := recCount b.dw, kcause := 0x31 }
      { s with batches := s.batches ++ [b] }.eventRecord 6 0x31 (memberWord ⟨b.queue, b.seq, 0⟩) 0
    else { s with batches := s.batches ++ [b] }
  (s.settleDeps.settleBatches).advance b.queue

/-- The schedulers run once the panel is released (R349), and use a queue that is enabled, has not overflowed, and whose
control block's home is not held (R387, R389). -/
def State.queueAdmits (s : State) (q : Nat) : Bool :=
  decide (s.boot.stage = 9) && bit (quadAt q s.queues).d0 63 && !s.heldAt (s.controlBlock q)
    && !bit (s.readWord (s.controlBlock q + 0x20)) 63

/-- A queue whose tail exceeds head + 2^slog overflows: the schedulers admit nothing more from it (R389). -/
def State.checkOverflow (s : State) (q : Nat) : State :=
  let cb := s.controlBlock q
  if s.queueAdmits q && decide (s.ringSlots q < (s.readWord cb - s.readWord (cb + 0x10)).toNat) then
    (s.writeWord (cb + 0x20) (s.readWord (cb + 0x20) ||| BitVec.ofNat 64 (2 ^ 63))).eventRecord 1 0 0 (BitVec.ofNat 64 q)
  else s

/-- SLOT_READ (R389, R390): overflow stops the queue; else the next published record is read. -/
def State.slotRead (s : State) (q : Nat) : State :=
  let s := if q < 64 then s.checkOverflow q else s
  if 64 ≤ q || !s.queueAdmits q then s
  else
    match s.nextSlot q with
    | none => s
    | some n =>
      let x := (List.range 16).map fun i => s.readWord (s.slotPlace q n + 8 * i)
      if s.heldAt (s.slotPlace q n) || (recTable x && s.tableHeld s.schedulerDie (dwAt x 5) (8 * recCrews x)) then s
      else
      let bind := s.binds.find? fun y => decide (y.1 = (q, n))
      let s := { s with binds := s.binds.filter fun y => !decide (y.1 = (q, n)) }
      if badRecord x bind.isNone then s.badRecordRead q n x
      else
        match s.readClaims x with
        | none => s.badRecordRead q n x
        | some ws =>
          s.takeRecord ⟨q, n, x, ws, bind.bind fun y => y.2.1, bind.elim [] fun y => y.2.2, 0, 0, 0, 0, s.time, false⟩

def execSlotRead (q : Nat) (s : State) : Host.Outcome State Fault Refusal := .next (s.slotRead q)

/-- Ascending sequence, then member index (R391). -/
def memberOrder (a b : MemberId) : Bool := decide (a.seq < b.seq) || (decide (a.seq = b.seq) && decide (a.index ≤ b.index))

/-- A queue's next candidate besides those tried: a Reserving member, or the first Ready one of a batch (R391). -/
def State.queueNext (s : State) (tried : List MemberId) (q : Nat) : Option MemberId :=
  let rs := (s.members.filter fun m => decide (m.state = .reserving) && decide (m.id.queue = q)).map Member.id
  let bs := (s.batches.filter fun b =>
    decide (b.queue = q) && !b.finished && b.deps.isEmpty && decide (b.next < recCount b.dw)).map fun b =>
      (⟨q, b.seq, b.next⟩ : MemberId)
  (sortBy memberOrder ((rs ++ bs).filter fun m => !tried.contains m)).head?

/-- The candidate that R391 takes next: of highest queue priority, of those the one Ready longest. -/
def State.nextCandidate (s : State) (tried : List MemberId) : Option MemberId :=
  (sortBy s.memberBefore (((List.range 64).filter s.queueAdmits).filterMap (s.queueNext tried))).head?

/-- What the panel will be once some members have stopped and been saved, and pending reclaims taken (R393). -/
def State.without (s : State) (ms : List MemberId) : State :=
  let rs := ms.flatMap s.crewRefs
  let s := (rs.foldl State.parkCrew s).removeHarts rs
  { s with
    members := s.members.map fun m => if ms.contains m.id then
      { m with crews := m.crews.map fun k => { k with resident := false } } else m
    cores := s.cores.map fun c => match c.target with
      | some t => if t < c.grant then { c with grant := t } else c
      | none => c }

/-- What is on its way already: members that stop, and the lockages made for a member (R393, R395). -/
def State.underWay (s : State) (m : MemberId) : State :=
  let s := s.without ((s.members.filter fun x => decide (x.state = .stopping)).map fun x => x.id)
  { s with stackTbl := s.stackTbl.map fun y => match y.2.lock with
      | some l => if l.forMember = some m then
          (y.1, { y.2 with lock := none, second := decide ((candidates y.1).2 = l.new) }) else y
      | none => y }

/-- The state with stacks owned by a die. -/
def State.ownedBy (s : State) (d : Nat) (ks : List Nat) : State :=
  ks.foldl (fun s k => s.setStack k { s.stack k with second := decide ((candidates k).2 = d) }) s

/-- The die that lockages would place a claiming member of crew class on (R395), with the stacks to hand over. -/
def State.lockageFor (s : State) (m : MemberId) : Option (Nat × List Nat) :=
  match s.batch? m with
  | none => none
  | some b =>
    let ks := b.claimsOf 0
    if recTrain b.dw || !recMigrate b.dw || ks.isEmpty then none
    else
      (List.range 128).findSome? fun d =>
        let go := ks.filter fun k => decide (s.owner k ≠ d)
        if !go.isEmpty && (ks.all fun k => isCandidate d k && (s.stack k).lock.isNone && !(s.stack k).orphan
              && !s.claimedByOther k m)
            && ((s.ownedBy d ks).placement m).isSome then some (d, go) else none

/-- The crews' harts on a cell that a member may take lanes from, in the order they give (R253). -/
def State.laneVictims (s : State) (m : MemberId) (key : Nat) : List Core :=
  let le (a b : Core) : Bool :=
    match a.crew, b.crew with
    | some (x, i), some (y, j) =>
      let pa := s.crewPri x
      let pb := s.crewPri y
      let ta := (s.crew? x).elim 0 Crew.movedAt
      let tb := (s.crew? y).elim 0 Crew.movedAt
      decide (pa < pb) || (decide (pa = pb) && (decide (tb < ta) || (decide (ta = tb) && decide (j ≤ i))))
    | _, _ => true
  sortBy le (s.cores.filter fun c => !c.isSteward && decide (c.id.cell = key) && decide (1 < c.dueGrant) &&
    c.crewRef?.elim false fun r => decide (s.crewPri r < s.queuePri m.queue))

/-- The state in which every such hart of the panel has given all lanes but one (R393). -/
def State.lanesGiven (s : State) (m : MemberId) : State :=
  { s with cores := s.cores.map fun c =>
      if !c.isSteward && (c.crewRef?.elim false fun r => decide (s.crewPri r < s.queuePri m.queue)) then
        { c with grant := 1, target := none } else c }

/-- Lanes taken from harts in order until the need is met, each with its new grant (R253). -/
def takeLanes (need : Nat) : List Core → List (CoreId × Nat)
  | [] => []
  | c :: cs =>
    let n := Nat.min need (c.dueGrant - 1)
    if n = 0 then [] else (c.id, c.dueGrant - n) :: takeLanes (need - n) cs

/-- The lanes of a cell that will be free once pending reclaims are taken. -/
def State.dueLanes (s : State) (key : Nat) : Nat :=
  16 - (s.cores.filter fun c => !c.isSteward && decide (c.id.cell = key)).foldl (fun n c => n + c.dueGrant) 0

/-- The reclaims that places of a member need (R253). -/
def State.reclaims (s : State) (m : MemberId) (ps : List CrewPlace) : List (CoreId × Nat) :=
  ps.flatMap fun y => y.cells.flatMap fun z =>
    let key := cellKey y.die z.1
    takeLanes (recLanes (s.recordOf m) * z.2.2.length - s.dueLanes key) (s.laneVictims m key)

/-- When a member last came to a die (R393). -/
def Member.cameTo (m : Member) (d : Nat) : Nat := (m.crews.find? fun k => decide (k.die = d)).elim 0 Crew.movedAt

/-- The members a candidate may have pre-empted on a die, lowest priority first, then the latest to come (R393). -/
def State.victims (s : State) (m : MemberId) (d : Nat) : List Member :=
  let le (a b : Member) : Bool :=
    let pa := s.queuePri a.id.queue
    let pb := s.queuePri b.id.queue
    decide (pa < pb) || (decide (pa = pb) && decide (b.cameTo d ≤ a.cameTo d))
  sortBy le (s.members.filter fun x => decide (x.state = .resident) && decide (s.queuePri x.id.queue < s.queuePri m.queue) &&
    x.crews.any fun k => decide (k.die = d))

/-- The sublists of n elements of a list, in its order. -/
def choices {α : Type} : Nat → List α → List (List α)
  | 0, _ => [[]]
  | _ + 1, [] => []
  | n + 1, x :: xs => (choices n xs).map (fun ys => x :: ys) ++ choices (n + 1) xs

/-- The crew ranks of a record in the order in which dies are chosen for them: those with claims, which fix their dies, before
the others (R321, R392). -/
def Batch.ranksInOrder (b : Batch) : List Nat :=
  let ranks := List.range (recCrews b.dw)
  (ranks.filter fun r => !(b.claimsOf r).isEmpty) ++ ranks.filter fun r => (b.claimsOf r).isEmpty

/-- The cells of a crew's need that a die cannot give it as it stands. -/
def State.shortage (s : State) (b : Batch) (d : Nat) : Nat :=
  let n := recNeed b.dw
  recCells b.dw - (s.placeRanks d n.blocks [] n.ranks).length

/-- Of some dies, one for each crew rank of a candidate that admit it once some members are gone, which on each of them are the
first in the order of its victims (R393): those that lack the most cells, so that the fewest are freed beyond the need, ties to the
lowest. -/
def State.diesWithout (s : State) (m : MemberId) (b : Batch) (dies : List Nat) (out : List MemberId) : Option (List Nat) :=
  let t := s.without out
  let inOrder (d : Nat) : Bool :=
    let vs := (s.victims m d).map fun x => x.id
    let mine := vs.filter out.contains
    decide (vs.take mine.length = mine)
  let short := dies.map fun d => (d, s.shortage b d)
  let byShort := sortBy (fun a c => decide (c.2 < a.2) || (decide (a.2 = c.2) && decide (a.1 ≤ c.1))) short
  b.ranksInOrder.foldl (fun acc r => acc.bind fun ds =>
    (byShort.find? fun y => !ds.contains y.1 && inOrder y.1 && (t.admitOn m b.dw y.1).isSome
      && ((b.claimsOf r).isEmpty || ((t.claimDies b r).contains y.1 && t.claimsFree b m r))).map fun y => ds ++ [y.1]) (some [])

/-- The logical cells of the panel that are free once some members are gone and were not before. -/
def State.freedCells (s : State) (out : List MemberId) : Nat :=
  let t := s.without out
  let cells := (s.members.filter fun x => out.contains x.id).flatMap fun x => x.crews.flatMap fun k =>
    if k.resident then k.cells.map fun y => (k.die, y.1) else []
  (cells.eraseDups.filter fun y => t.cellFree y.1 y.2).length

/-- Of those cells, the ones that the crews of a candidate on some dies do not need: those that they lack there count as needed (R393;
log 24). -/
def State.spareCells (s : State) (b : Batch) (ds : List Nat) (out : List MemberId) : Nat :=
  s.freedCells out - ds.foldl (fun n d => n + s.shortage b d) 0

/-- The sets of n victims of a priority below `top` to be tried for a candidate, each with the dies it may make room on: for one crew
the first n of a die's order, for a train any n of the panel (R393). -/
def State.victimSets (s : State) (m : MemberId) (b : Batch) (top n : Nat) : List (List Nat × List MemberId) :=
  let low (x : Member) : Bool := decide (s.queuePri x.id.queue < top)
  if recCrews b.dw = 1 then
    (List.range 128).filterMap fun d =>
      let vs := s.victims m d
      if n ≤ vs.length && (vs.take n).all low then some ([d], (vs.take n).map fun x => x.id) else none
  else
    (choices n ((s.members.filter fun x => decide (x.state = .resident) && decide (s.queuePri x.id.queue < s.queuePri m.queue) && low x).map
      fun x => x.id)).map fun out => (List.range 128, out)

/-- Dies and victims for the crews of a candidate, no victim of a priority of `top` or above: of the fewest victims that make room,
those that free the fewest cells beyond the need, then those on the lowest dies. -/
def State.victimsBelow (s : State) (m : MemberId) (b : Batch) (top : Nat) : Option (List Nat × List MemberId) :=
  (List.range (s.members.length + 1)).findSome? fun n =>
    let opts := (s.victimSets m b top n).filterMap fun y =>
      (s.diesWithout m b y.1 y.2).map fun ds => (s.spareCells b ds y.2 :: ds, y.2)
    let best := sortBy (fun a c => decide (a.1 ≤ c.1)) opts
    best.head?.map fun y => (y.1.drop 1, y.2)

/-- The dies and victims chosen for a candidate, one die for each crew: the highest priority of any victim as low as it can be, then as
few victims as can be over all its crews, then as few cells freed beyond the need (R393). -/
def State.chooseVictims (s : State) (m : MemberId) : Option (List Nat × List MemberId) :=
  (s.batch? m).bind fun b => (List.range 9).findSome? (s.victimsBelow m b)

/-- Dies that a candidate holds from now on (R392, R393). -/
def State.holdDies (s : State) (m : MemberId) (ds : List Nat) : State :=
  s.modMember m fun x => { x with reserved := x.reserved ++ ds.filter fun d => !x.reserved.contains d }

/-- Room made for a candidate that cannot be placed (R393, R395): nothing while what is under way suffices; a lockage; lanes;
else victims. -/
def State.makeRoom (s : State) (m : MemberId) : State :=
  let t := s.underWay m
  if (t.placement m).isSome then s
  else
    match s.lockageFor m with
    | some (d, ks) =>
      (ks.foldl (fun s k => s.startLockage k ⟨1, s.owner k, d, true, none, some m⟩) s).holdDies m [d]
    | none =>
      match (t.lanesGiven m).placement m with
      | some ps => ((s.reclaims m ps).foldl State.reclaim s).holdDies m (ps.map fun y => y.die)
      | none =>
        match t.chooseVictims m with
        | some (ds, out) => (out.foldl State.preempt s).holdDies m ds
        | none => s

/-- The candidates as they stand: the Reserving members, and of each queue the next one. -/
def State.candidatesNow (s : State) : List MemberId :=
  ((s.members.filter fun m => decide (m.state = .reserving)).map Member.id)
    ++ ((List.range 64).filter s.queueAdmits).filterMap (s.queueNext [])

/-- The reclaims that admit a candidate which lacks lanes only (R253, R393). -/
def State.wantedReclaims (s : State) (m : MemberId) : List (CoreId × Nat) :=
  let t := s.underWay m
  if (t.placement m).isSome || (s.lockageFor m).isSome then []
  else ((t.lanesGiven m).placement m).elim [] (s.reclaims m)

/-- LANE_RECLAIM_REQUEST (R253): the reclaims that some candidate needs, of the victims and in the order the rule gives. -/
def execLaneReclaimRequest (victims : List (CoreId × Nat)) (s : State) : Host.Outcome State Fault Refusal :=
  .next (if s.candidatesNow.any fun m => decide (s.wantedReclaims m = victims) then victims.foldl State.reclaim s else s)

/-- Dies out of `dies`, one for each crew rank, those that hold the most of its need, ties to the lowest; ranks that claims fix choose
first (R392). -/
def State.bindOver (s : State) (b : Batch) (dies : Nat → List Nat) : List Nat :=
  let n := recNeed b.dw
  b.ranksInOrder.foldl (fun ds r =>
    let ys := ((dies r).filter fun d => !ds.contains d).map fun d => (d, (s.placeRanks d n.blocks [] n.ranks).length)
    ds ++ ((sortBy (fun a c => decide (c.2 < a.2) || (decide (a.2 = c.2) && decide (a.1 ≤ c.1))) ys).head?.map fun y => y.1).toList)
    []

/-- The pool of a die has room for a save area of a record (R380). -/
def State.poolRoom (s : State) (b : Batch) (d : Nat) : Bool := (s.saveRoom d (saveSize b.dw)).isSome

/-- The dies that a candidate is bound to (R392), with room in their pools (R378). -/
def State.bindDies (s : State) (b : Batch) : List Nat :=
  s.bindOver b fun r => (if (b.claimsOf r).isEmpty then List.range 128 else s.claimDies b r).filter (s.poolRoom b)

/-- The need of a candidate for save areas exceeds the free pools (R378): of the dies that it may stand on, or come to stand on by a
lockage (R395). -/
def State.poolShort (s : State) (b : Batch) : Bool :=
  let dies (r : Nat) : List Nat :=
    if (b.claimsOf r).isEmpty then List.range 128
    else if recMigrate b.dw && !recTrain b.dw then (List.range 128).filter fun d => (b.claimsOf r).all fun k => isCandidate d k
    else s.claimDies b r
  decide ((s.bindOver b fun r => (dies r).filter (s.poolRoom b)).length < (s.bindOver b dies).length)

/-- A Ready candidate that cannot be placed becomes Reserving, bound to the dies that hold the most of its need (R265, R391, R392),
unless its need exceeds the free pools, with which it stays Ready (R378). -/
def State.reserve (s : State) (id : MemberId) : State :=
  match s.member? id, s.batch? id with
  | none, some b =>
    if s.poolShort b then s
    else
      let m : Member :=
        { id := id, state := .reserving, crews := [], readyAt := b.readyAt, energyHeld := false, moves := []
          ceiling := recCeiling b.dw, reserved := s.bindDies b, areas := [], kcause := 0, backfill := false }
      { s with
        members := s.members ++ [m]
        batches := s.batches.map fun (y : Batch) =>
          if y.queue = b.queue ∧ y.seq = b.seq then { y with next := y.next + 1 } else y }
  | _, _ => s

/-- Such a candidate has room made for it (R393); one that stays Ready holds nothing, and nothing is freed for it. -/
def State.refuse (s : State) (id : MemberId) : State :=
  let s := s.reserve id
  if (s.member? id).isSome then s.makeRoom id else s

/-- The candidates in order, each placed or refused (R391). `n` bounds the decisions. -/
def State.admitMembers (s : State) (tried : List MemberId) : Nat → State
  | 0 => s
  | n + 1 =>
    match s.nextCandidate tried with
    | none => s
    | some id =>
      match s.placement id with
      | some ps => ((s.place id ps).advance id.queue).admitMembers tried n
      | none => (s.refuse id).admitMembers (id :: tried) n

/-- ADMISSION_DECISION (R391). Nothing is admitted once 120 °C has been reached (R408). -/
def State.admission (s : State) : State :=
  if s.boot.overheated then s
  else
    let s := (List.range 64).foldl State.checkOverflow s
    s.admitMembers [] (32768 + s.batches.length + s.members.length)

def execAdmissionDecision (s : State) : Host.Outcome State Fault Refusal := .next s.admission

/-- The hold image of a crew's record, read through its die (R205, R248); none while it does not translate. -/
def State.imageBytes (s : State) (k : Crew) : Option (List Byte) :=
  let x := s.recordOf k.ref.mem
  if recImage x = 0 then some [] else s.tableBytes k.die (recImage x) (recImglen x)

/-- The holds of a crew filled with its image, then zeros (R248); none while the image does not translate or its home is
held. -/
def State.fillCrew (s : State) (k : Crew) : Option State :=
  let x := s.recordOf k.ref.mem
  (if recImage x ≠ 0 && s.tableHeld k.die (recImage x) (recImglen x) then none else s.imageBytes k).map fun bs =>
    k.cells.foldl (fun s y => s.fillHold k.die y.1 y.2 (recBlocks (s.recordOf k.ref.mem) * 2 ^ 16) bs) s

/-- A crew of the member stands on a retired cell (R412). -/
def State.onRetired (s : State) (x : Member) : Bool :=
  x.crews.any fun k => k.cells.any fun y => (s.die k.die).retire.getLsbD y.1

/-- PLACING_COMPLETE (R262, R265): holds filled, bank states switched, the acquire of R204 performed (log 12), and the harts run. A member that
passed its ceiling while it was placed, or of which a cell was retired, is pre-empted at once (R403, R412). -/
def State.placed (s : State) (m : MemberId) : State :=
  match s.member? m with
  | none => s
  | some x =>
    if x.state ≠ .placing || s.switchHeld x then s
    else
      let filled := x.crews.foldl (fun (t : Option State) k => t.bind fun t => t.fillCrew k) (some (s.switchAll x))
      match filled.bind fun t => t.eachCore (fun t id => t.acquireKinds id .panel) ((x.crews.flatMap fun k => t.hartsOf k.ref).map Core.id) with
      | none => s
      | some t =>
        let rs := x.crews.map fun k => k.ref
        let t := State.freshCode { t.modMember m fun x => { x with
            state := .resident, crews := x.crews.map fun k => { k with placedAt := s.time, movedAt := s.time, stoodAt := s.time } } with
          cores := t.cores.map fun c => if c.crewRef?.elim false fun r => rs.contains r then { c with stopped := false } else c } m
        if x.energyHeld || s.onRetired x then t.preempt m else t

def execPlacingComplete (m : MemberId) (s : State) : Host.Outcome State Fault Refusal := .next (s.placed m)

/-- BACKFILL_BOUND_EXPIRY (R392): the bound of its queue, in µs, has run since a back-filled member was placed or resumed. -/
def State.boundExpiry (s : State) (m : MemberId) : State :=
  match s.member? m with
  | none => s
  | some x =>
    let start := x.crews.foldl (fun n k => Nat.max n k.movedAt) 0
    if x.backfill && decide (start + 1000 * s.queueBound m.queue ≤ s.time) then s.preempt m else s

def execBackfillBoundExpiry (m : MemberId) (s : State) : Host.Outcome State Fault Refusal := .next (s.boundExpiry m)

/-- Every hart of a crew has halted and nothing of it is left: commands, faults to raise, side-log entries (R396). -/
def State.crewDone (s : State) (k : Crew) : Bool :=
  k.resident && (s.hartsOf k.ref).isEmpty && k.held.isEmpty
    && !(s.cells.any fun (y : Nat × Cell) =>
      y.2.queue.any (fun x => decide (x.crew = k.ref)) || y.2.log.any fun e => decide (e.crew.map Prod.fst = some k.ref))
    && !(s.stackTbl.any fun (y : Nat × Stack) => (y.2.seqr ++ y.2.parked).any fun x => decide (x.crew = some k.ref))

/-- The identities of the hart slots of a crew's cells. -/
def Crew.slots (k : Crew) : List CoreId := k.cells.flatMap fun y => (List.range 4).map fun h => .hart k.die y.1 h

/-- MEMBER_COMPLETE (R266, R396): the release for the member, its arrival at done, its count, and its resources freed. -/
def State.memberComplete (s : State) (m : MemberId) : State :=
  match s.member? m, s.batch? m with
  | some x, some b =>
    if (decide (x.state = .resident) || decide (x.state = .stopping)) && x.crews.all s.crewDone && !s.heldAt (s.controlBlock m.queue) then
      match s.releaseAll (x.crews.flatMap Crew.slots) with
      | none => s
      | some s =>
        let s := (s.arrive b.doneObj 1 .soft).dropPhases m
        let s := s.modMember m fun x => { x with state := .done, crews := [], reserved := [] }
        let s := { s with batches := s.batches.map fun (y : Batch) =>
          if y.queue = m.queue ∧ y.seq = m.seq then { y with ok := y.ok + 1 } else y }
        let s := x.crews.foldl (fun s k => s.laneReturns k.die (k.cells.map Prod.fst)) s
        (s.settleDeps.settleBatches).advance m.queue
    else s
  | _, _ => s

def execMemberComplete (m : MemberId) (s : State) : Host.Outcome State Fault Refusal := .next (s.memberComplete m)

end Sys2Proof.Machine
end

