-- ==== Sys2Proof/Machine/Crypto.lean ====
section
/-! DEFINITION. The published algorithms that bring-up rests on (R351, R355, R358, R359): SHA-256, HMAC and HKDF with it, the
PKCS #1 v1.5 signature check, and ECDSA on P-256 with the nonce of RFC 6979. -/

namespace Sys2Proof.Machine

/-- A big-endian number of bytes. -/
def beNat (bs : List Byte) : Nat := bs.foldl (fun n b => 256 * n + b.toNat) 0

/-- A number as `n` bytes, big-endian. -/
def beBytes (n x : Nat) : List Byte := (natBytes n x).reverse

/-- The round constants of SHA-256. -/
def shaK : List (BitVec 32) :=
    [0x428a2f98, 0x71374491, 0xb5c0fbcf, 0xe9b5dba5, 0x3956c25b, 0x59f111f1, 0x923f82a4, 0xab1c5ed5] ++
    [0xd807aa98, 0x12835b01, 0x243185be, 0x550c7dc3, 0x72be5d74, 0x80deb1fe, 0x9bdc06a7, 0xc19bf174] ++
    [0xe49b69c1, 0xefbe4786, 0x0fc19dc6, 0x240ca1cc, 0x2de92c6f, 0x4a7484aa, 0x5cb0a9dc, 0x76f988da] ++
    [0x983e5152, 0xa831c66d, 0xb00327c8, 0xbf597fc7, 0xc6e00bf3, 0xd5a79147, 0x06ca6351, 0x14292967] ++
    [0x27b70a85, 0x2e1b2138, 0x4d2c6dfc, 0x53380d13, 0x650a7354, 0x766a0abb, 0x81c2c92e, 0x92722c85] ++
    [0xa2bfe8a1, 0xa81a664b, 0xc24b8b70, 0xc76c51a3, 0xd192e819, 0xd6990624, 0xf40e3585, 0x106aa070] ++
    [0x19a4c116, 0x1e376c08, 0x2748774c, 0x34b0bcb5, 0x391c0cb3, 0x4ed8aa4a, 0x5b9cca4f, 0x682e6ff3] ++
    [0x748f82ee, 0x78a5636f, 0x84c87814, 0x8cc70208, 0x90befffa, 0xa4506ceb, 0xbef9a3f7, 0xc67178f2]

/-- The initial hash value. -/
def shaInit : List (BitVec 32) := [0x6a09e667, 0xbb67ae85, 0x3c6ef372, 0xa54ff53a, 0x510e527f, 0x9b05688c, 0x1f83d9ab, 0x5be0cd19]

/-- A message padded to whole blocks: a one bit, zeros, and the length in bits. -/
def shaPad (m : List Byte) : List Byte :=
  m ++ [0x80] ++ List.replicate ((119 - m.length % 64) % 64) 0 ++ beBytes 8 (8 * m.length)

/-- Word i of the message schedule, from the words before it, the latest first. -/
def shaNext (w : List (BitVec 32)) : BitVec 32 :=
  let a := w[14]?.getD 0
  let b := w[1]?.getD 0
  (w[15]?.getD 0) + (a.rotateRight 7 ^^^ a.rotateRight 18 ^^^ a >>> 3) + (w[6]?.getD 0)
    + (b.rotateRight 17 ^^^ b.rotateRight 19 ^^^ b >>> 10)

/-- The 64 words of the schedule of a block. -/
def shaSchedule (block : List Byte) : List (BitVec 32) :=
  let first := (List.range 16).map fun i => BitVec.ofNat 32 (beNat ((block.drop (4 * i)).take 4))
  ((List.range 48).foldl (fun w _ => shaNext w :: w) first.reverse).reverse

/-- One round on the eight working words. -/
def shaRound (s : List (BitVec 32)) (kw : BitVec 32 × BitVec 32) : List (BitVec 32) :=
  match s with
  | [a, b, c, d, e, f, g, h] =>
    let t1 := h + (e.rotateRight 6 ^^^ e.rotateRight 11 ^^^ e.rotateRight 25) + ((e &&& f) ^^^ (~~~e &&& g)) + kw.1 + kw.2
    let t2 := (a.rotateRight 2 ^^^ a.rotateRight 13 ^^^ a.rotateRight 22) + ((a &&& b) ^^^ (a &&& c) ^^^ (b &&& c))
    [t1 + t2, a, b, c, d + t1, e, f, g]
  | _ => s

/-- The hash value after one more block. -/
def shaBlock (h : List (BitVec 32)) (block : List Byte) : List (BitVec 32) :=
  List.zipWith (· + ·) h ((shaK.zip (shaSchedule block)).foldl shaRound h)

/-- The hash value after `n` blocks. -/
def shaBlocks (h : List (BitVec 32)) (m : List Byte) : Nat → List (BitVec 32)
  | 0 => h
  | n + 1 => shaBlocks (shaBlock h (m.take 64)) (m.drop 64) n

/-- SHA-256. -/
def sha256 (m : List Byte) : List Byte :=
  let p := shaPad m
  (shaBlocks shaInit p (p.length / 64)).flatMap fun w => beBytes 4 w.toNat

/-- HMAC-SHA-256; keys here are at most a block long. -/
def hmac (key m : List Byte) : List Byte :=
  let k := key ++ List.replicate (64 - key.length) 0
  sha256 (k.map (· ^^^ 0x5C) ++ sha256 (k.map (· ^^^ 0x36) ++ m))

/-- HKDF-SHA-256 with no salt, one block of output. -/
def hkdf (ikm info : List Byte) : List Byte := hmac (hmac (List.replicate 32 0) ikm) (info ++ [1])

/-- A power modulo m, over the `n` low bits of the exponent. -/
def powMod (m b e : Nat) : Nat → Nat
  | 0 => 1 % m
  | n + 1 => (if e % 2 = 1 then b else 1) * powMod m (b * b % m) (e / 2) n % m

/-- The DigestInfo prefix of SHA-256 (RFC 8017). -/
def digestInfo : List Byte :=
  [0x30, 0x31, 0x30, 0x0d, 0x06, 0x09, 0x60, 0x86, 0x48, 0x01, 0x65, 0x03, 0x04, 0x02, 0x01, 0x05, 0x00, 0x04, 0x20]

/-- A valid RSASSA-PKCS1-v1_5 signature with SHA-256 and exponent 65,537 (RFC 8017), of a 384-byte modulus. -/
def rsaValid (modulus sig m : List Byte) : Bool :=
  let n := beNat modulus
  decide (beNat sig < n) &&
    decide (beBytes 384 (powMod n (beNat sig) 65537 17) =
      [0x00, 0x01] ++ List.replicate 330 0xFF ++ [0x00] ++ digestInfo ++ sha256 m)

/-- The field prime, group order and base point of P-256. -/
def p256 : Nat := 0xFFFFFFFF00000001000000000000000000000000FFFFFFFFFFFFFFFFFFFFFFFF
def p256Order : Nat := 0xFFFFFFFF00000000FFFFFFFFFFFFFFFFBCE6FAADA7179E84F3B9CAC2FC632551
def p256Base : Nat × Nat :=
  (0x6B17D1F2E12C4247F8BCE6E563A440F277037D812DEB33A0F4A13945D898C296,
    0x4FE342E2FE1A7F9B8EE7EB4A7C0F9E162BCE33576B315ECECBB6406837BF51F5)

/-- An inverse modulo a prime. -/
def invMod (m x : Nat) : Nat := powMod m (x % m) (m - 2) 256

/-- A sum of points; none is the point at infinity. -/
def pointAdd : Option (Nat × Nat) → Option (Nat × Nat) → Option (Nat × Nat)
  | none, b => b
  | a, none => a
  | some (x1, y1), some (x2, y2) =>
    let p := p256
    if x1 = x2 ∧ (y1 + y2) % p = 0 then none
    else
      let l := if x1 = x2 then (3 * x1 * x1 + (p - 3)) * invMod p (2 * y1) % p
        else (y2 + p - y1) * invMod p (x2 + p - x1) % p
      let x3 := (l * l + 2 * p - x1 - x2) % p
      some (x3, (l * (x1 + p - x3) + p - y1) % p)

/-- A multiple of a point, over the `n` low bits of the factor. -/
def pointMul (k : Nat) (a : Option (Nat × Nat)) : Nat → Option (Nat × Nat)
  | 0 => none
  | n + 1 =>
    let rest := pointMul (k / 2) (pointAdd a a) n
    if k % 2 = 1 then pointAdd a rest else rest

/-- The public key of a private key. -/
def publicKey (d : Nat) : Nat × Nat := (pointMul d (some p256Base) 256).getD (0, 0)

/-- The signature of a hash under a nonce; none where r or s is 0. -/
def signWith (d h k : Nat) : Option (Nat × Nat) :=
  match pointMul k (some p256Base) 256 with
  | none => none
  | some (x, _) =>
    let r := x % p256Order
    let s := invMod p256Order k * (h + r * d) % p256Order
    if r = 0 ∨ s = 0 then none else some (r, s)

/-- The nonces of RFC 6979 in turn, from its key and value, until one signs. -/
def signLoop (d h : Nat) (key v : List Byte) : Nat → Option (Nat × Nat)
  | 0 => none
  | n + 1 =>
    let v := hmac key v
    let k := beNat v
    match if 1 ≤ k ∧ k < p256Order then signWith d h k else none with
    | some x => some x
    | none =>
      let key := hmac key (v ++ [0])
      signLoop d h key (hmac key v) n

/-- ECDSA P-256 with SHA-256 over a message, the nonce by RFC 6979 with additional input (section 3.6). -/
def ecdsaSign (d : Nat) (extra m : List Byte) : Option (Nat × Nat) :=
  let h := beNat (sha256 m)
  let seed := beBytes 32 d ++ beBytes 32 (h % p256Order) ++ extra
  let v := List.replicate 32 0x01
  let key := hmac (List.replicate 32 0) (v ++ [0] ++ seed)
  let v := hmac key v
  let key := hmac key (v ++ [1] ++ seed)
  signLoop d h key (hmac key v) 64

end Sys2Proof.Machine
end

