-- ==== Sys2Proof/Machine/Fleet.lean ====
section
/-! DEFINITION. ENRG, the management page, the configuration mailbox, energy accounts and budgets, heat, clocks, retraining,
errors and failed parts (R126, R379, R398 to R413). -/

namespace Sys2Proof.Machine

/-- The waiting and ready members of a record killed for heat (R408): counted and reported one by one (R396). -/
def State.killWaiting (s : State) (b : Batch) : State :=
  let n := recCount b.dw - b.next
  if b.finished || decide (n = 0) then s
  else
    let s := { s with batches := s.batches.map fun (y : Batch) =>
      if y.queue = b.queue ∧ y.seq = b.seq then
        { y with deps := [], next := recCount b.dw, killed := y.killed + n, kcause := if y.killed = 0 then 0x42 else y.kcause }
      else y }
    (List.range n).foldl (fun s i => s.eventRecord 3 0x42 (memberWord ⟨b.queue, b.seq, b.next + i⟩) 0) s

/-- Every member killed, placed or not (R408). -/
def State.killAll (s : State) : State :=
  let s := (s.members.map fun m => m.id).foldl (fun s m => s.killMember m 0x42 0) s
  (s.batches.foldl State.killWaiting s).settleDeps.settleBatches

/-- The security alarm raised by some triggers (R360): the first time the keys are erased, and before release the panel halts,
after it machine firmware is interrupted. DESIGN CHOICE: machine firmware that runs on steward cores when the panel halts runs on
(log 28). -/
def State.raiseAlarm (s : State) (trigger : BitVec 4) : State :=
  if trigger = 0 ∨ s.boot.powered = false then s
  else
    let first := !s.boot.alarm
    let s := { s with boot :=
      { s.boot with acause := s.boot.acause ||| trigger, alarm := true, secret := none, idkey := none } }
    if !first then s
    else if s.boot.stage ≠ 9 then { s with boot := { s.boot with stage := 0x0F, heating := false } }
    else { s with cores := s.cores.map fun c => if c.isSteward then { c with st := { c.st with mip := true } } else c }

/-- A site at 120 °C after release: every member is killed, and nothing is admitted until a power cycle (R408). -/
def State.overheat (s : State) : State :=
  if s.boot.stage = 9 ∧ s.boot.overheated = false then { s with boot := { s.boot with overheated := true } }.killAll else s

/-- The sites' temperatures as the panel reads them: below −50 °C or at 120 °C they raise the alarm (R360, R408). -/
def State.sense (s : State) (temps : List Int) : State :=
  let s := { s with temps := temps }
  let hot : Bool := temps.any fun t => decide (1920 ≤ t)
  let s := if hot || temps.any fun t => decide (t < -800) then s.raiseAlarm 8 else s
  if hot then s.overheat else s

/-- SECURITY_ALARM (R360): a trigger of the tamper mesh, the supply or the clock, in bits 0 to 2, or the temperatures. -/
def execSecurityAlarm (trigger : AlarmReport) (s : State) : Host.Outcome State Fault Refusal :=
  .next ((s.raiseAlarm (trigger.trigger.setWidth 4)).sense trigger.temps)

/-- The device physical address of the management page (R398): a DRAM frame of 64 KiB,
in the upper half of a stack. -/
def mgmtPage : Nat := 1 <<< 34 + (Config.mgmtFrame.toNat % 2 ^ 26 / 2 ^ 19) <<< 35 + (Config.mgmtFrame.toNat % 2 ^ 18) <<< 16

/-- A doubleword of the management page read and written at home (R398). -/
def State.page (s : State) (off : Nat) : Word := s.readWord (mgmtPage + off)
def State.setPage (s : State) (off : Nat) (w : Word) : State := s.writeWord (mgmtPage + off) w

/-- A panel budget as the page gives it (R398): 0 stands for 18,000; values outside 1,200 to 18,000 are open. -/
def State.wantedBudget (s : State) : Nat :=
  let b := bits (s.page 0) 31 0
  if b = 0 then 18000 else if 1200 ≤ b ∧ b ≤ 18000 then b else Config.oddBudget b

/-- MGMT_POLL (R398, R400, R414): the budget, and the first panel identifier. -/
def State.mgmtPoll (s : State) : State :=
  if s.boot.stage ≠ 9 || s.heldAt mgmtPage then s
  else
    let b := s.wantedBudget
    let s := if b = s.budget then s else { s with budget := b }.rebudget
    let w := s.page 8
    if bit w 63 && !s.idSet then { s with panel := BitVec.ofNat 21 w.toNat, idSet := true } else s

def execMgmtPoll (s : State) : Host.Outcome State Fault Refusal := .next s.mgmtPoll

/-- The temperature of a site in 1/16 °C, by 16·row + col. -/
def siteTemp (temps : List Int) (site : Nat × Nat) : Int := temps[16 * site.1 + site.2]?.getD 0

/-- The sites of a die: its own and those of the stacks it owns. -/
def State.dieSites (s : State) (d : Nat) : List (Nat × Nat) :=
  dieSite d :: ((stacksOf d).filter fun k => decide (s.owner k = d)).map stackSite

/-- The greatest of some temperatures. -/
def hottestOf (t : Int) (ts : List Int) : Int := ts.foldl max t

/-- A die's hottest site (R399, R406). -/
def State.dieTemp (s : State) (temps : List Int) (d : Nat) : Int :=
  hottestOf (siteTemp temps (dieSite d)) ((s.dieSites d).map (siteTemp temps))

/-- The first site that reads the highest temperature. -/
def hottestSite (temps : List Int) : Nat :=
  let top := hottestOf (temps.head?.getD 0) temps
  (temps.findIdx? fun t => decide (t = top)).getD 0

/-- The telemetry of die d at its place in the page (R398). DESIGN CHOICE: its hottest site is given as a temperature in 1/16 °C,
sign-extended, with no site number (log 25). -/
def State.writeDieTelemetry (s : State) (temps : List Int) (d : Nat) : State :=
  let x := s.die d
  let at_ := 0x140 + 32 * d
  (((s.setPage at_ (x.dpower.setWidth 64)).setPage (at_ + 8) (BitVec.ofInt 64 (s.dieTemp temps d))).setPage (at_ + 16)
    (BitVec.ofNat 64 (x.denergy / 1000))).setPage (at_ + 24) x.stretch

/-- The number of retired logical cells (R412). -/
def State.retiredCells (s : State) : Nat :=
  (List.range 128).foldl (fun n d => n + ((List.range 64).filter fun i => (s.die d).retire.getLsbD i).length) 0

/-- The panel's energy in µJ since release (R398, R399): that of its dies, and 0.6 kW for the I/O dies. -/
def State.panelEnergy (s : State) : Nat :=
  (List.range 128).foldl (fun n d => n + (s.die d).denergy / 1000) 0 + 600 * s.time / 1000

/-- TELEMETRY_WRITE (R398): serial ends even, one telemetry write later. -/
def State.telemetry (s : State) (t : Telemetry) : State :=
  if s.boot.stage ≠ 9 || s.heldAt mgmtPage then s
  else
    let s := s.sense t.temps
    let top := hottestOf (t.temps.head?.getD 0) t.temps
    let s := s.setPage 0x108 s.timeWord
    let s := s.setPage 0x110 (BitVec.ofNat 64 (t.power % 2 ^ 32))
    let s := s.setPage 0x118 (BitVec.ofNat 64 s.panelEnergy)
    let s := s.setPage 0x120 (BitVec.ofNat 64 ((BitVec.ofInt 16 top).toNat + hottestSite t.temps % 256 * 2 ^ 16))
    let s := s.setPage 0x128 (BitVec.ofNat 64 s.ceTotal)
    let s := s.setPage 0x130 (BitVec.ofNat 64 s.ueTotal)
    let s := s.setPage 0x138 (BitVec.ofNat 64 s.retiredCells)
    let s := (List.range 128).foldl (fun s d => s.writeDieTelemetry t.temps d) s
    s.setPage 0x100 (s.page 0x100 + 2)

def execTelemetryWrite (t : Telemetry) (s : State) : Host.Outcome State Fault Refusal := .next (s.telemetry t)

/-- A member's account in µJ: the sum of its crews' (R402). -/
def Member.account (m : Member) : Nat := m.crews.foldl (fun n k => n + k.energy) 0 / 1000

/-- CEILING_COMMAND (R403): a member held for energy goes on under the new ceiling, or is killed; cack follows cseq. -/
def State.ceilingCommand (s : State) : State :=
  let cseq := s.page 0x20
  if s.boot.stage ≠ 9 || s.heldAt mgmtPage || s.page 0x28 = cseq then s
  else
    let who := s.page 0x10
    let ceil := s.page 0x18
    let s := match s.members.find? fun m => m.energyHeld && decide (memberWord m.id = who) with
      | none => s
      | some m =>
        if m.account < ceil.toNat then s.modMember m.id fun m => { m with energyHeld := false, ceiling := ceil }
        else s.killMember m.id 0x42 0
    s.setPage 0x28 cseq

def execCeilingCommand (s : State) : Host.Outcome State Fault Refusal := .next s.ceilingCommand

/-- The registers a host may reach (R379): base, stride and number, and doublewords. -/
def hostReach (off : Nat) : Option Nat :=
  if off = 0x48 ∨ off = 0x50 then some 1
  else if off % 32 ≠ 0 then none
  else if 0x100000 ≤ off ∧ off < 0x103000 then some 4
  else if 0x104000 ≤ off ∧ off < 0x104800 then some 4
  else if off = 0x106000 then some 4
  else none

/-- The fields of a register a host may reach; other bits are reserved. -/
def hostMask (off j : Nat) (v : Word) : Word :=
  if off < 0x100000 then fieldOf v 47 16
  else if off < 0x102000 then regionMask j v
  else if off < 0x103000 then windowMask j v
  else if off < 0x104800 then queueMask j v
  else ringMask j v

/-- A 64 KiB unit of a region as the page tables map it: its base address, with the region's rights (R379, R384). -/
def State.unitMapped (s : State) (d0 : Word) (va pa : Nat) : Bool :=
  let d := s.schedulerDie
  let va := BitVec.ofNat 64 va
  let leaf : Option (Bool × Word) := match (s.die d).resident va with
    | .ok w => some (true, w)
    | .error _ => match s.walk d va with
      | .ok y => some y
      | .error _ => none
  match leaf with
  | none => false
  | some (huge, w) =>
    decide (leafPa huge w va = pa) && (bit w 1 || !(bit d0 62 || bit d0 60)) && (bit w 2 || !(bit d0 61 || bit d0 60))

/-- The page tables map a region's range (R379). -/
def State.regionMapped (s : State) (r : Quad) : Bool :=
  (List.range (bits r.d3 47 16)).all fun i =>
    s.unitMapped r.d0 (bits r.d1 51 16 * 2 ^ 16 + i * 2 ^ 16) (bits r.d2 47 16 * 2 ^ 16 + i * 2 ^ 16)

/-- The page walk for one of its units waits for the home of a page table (R306, R307). -/
def State.regionHeld (s : State) (r : Quad) : Bool :=
  let d := s.schedulerDie
  (List.range (bits r.d3 47 16)).any fun i =>
    let va := BitVec.ofNat 64 (bits r.d1 51 16 * 2 ^ 16 + i * 2 ^ 16)
    (match (s.die d).resident va with | .ok _ => false | .error _ => true) && (s.walkHeld d va).isSome

/-- A queue pair is connected (R383). -/
def State.connected (s : State) (qp : Nat) : Bool :=
  match tblGet? qp s.qps with
  | some q => decide (q.cm = .established)
  | none => false

/-- A configuration write that is refused (R379). -/
def State.refusesWrite (s : State) (die off : Nat) (v : Quad) : Bool :=
  let n := (hostReach off).getD 0
  (List.range n).any (fun j => decide (hostMask off j (v.get j) ≠ v.get j))
    || (if off < 0x100000 then s.savesIn (s.die die).spbase (s.die die).spsize
        else if off < 0x102000 then bit v.d0 63 && (bit v.d2 47 || !s.regionMapped v)
        else if off < 0x103000 then bit v.d0 63 && !s.connected (bits v.d0 23 0)
        else false)

/-- A configuration write performed (R379, R387); none while it must wait (R384). -/
def State.configWrite (s : State) (die off : Nat) (v : Quad) : Option State :=
  let i := off % 0x1000 / 32
  if off < 0x100000 then s.controlPut die off v.d0
  else if off < 0x102000 then s.regionPut ((off - 0x100000) / 32) v
  else if off < 0x103000 then some { s with windows := tblSet i v s.windows }
  else if off < 0x104800 then
    some (if bit (quadAt i s.queues).d0 63 && bit v.d0 63 then s
      else { s with queues := tblSet i ⟨queueMask 0 v.d0, queueMask 1 v.d1, 0, 0⟩ s.queues })
  else some { s with eventRing := ⟨ringMask 0 v.d0, v.d1, 0, 0⟩ }

/-- The outcome of a request written to the page: cstat, then cack2 (R379); neither in a sealed frame (R373). -/
def State.configAck (s : State) (status : Byte) : State :=
  if s.sealedAt mgmtPage then s
  else (s.setLocBytes (mgmtPage + 0x78) (whole [status])).setPage 0x70 (s.page 0x68)

/-- CONFIG_REQUEST (R379). -/
def State.configRequest (s : State) : State :=
  if s.boot.stage ≠ 9 || s.heldAt mgmtPage || s.page 0x70 = s.page 0x68 then s
  else
    let creg := s.page 0x40
    let die := bits creg 30 24
    let off := bits creg 23 0
    match hostReach off with
    | none => s.configAck 1
    | some n =>
      if bit creg 31 then
        ((List.range n).foldl (fun t j => t.setPage (0x48 + 8 * j) (s.controlRead die (off + 8 * j))) s).configAck 0
      else
        let v : Quad := if n = 1 then ⟨s.page 0x48, 0, 0, 0⟩ else ⟨s.page 0x48, s.page 0x50, s.page 0x58, s.page 0x60⟩
        if decide (0x100000 ≤ off) && decide (off < 0x102000) && bit v.d0 63 && s.regionHeld v then s
        else if s.refusesWrite die off v then s.configAck 2
        else ((s.configWrite die off v).map fun s => s.configAck 0).getD s

def execConfigRequest (s : State) : Host.Outcome State Fault Refusal := .next s.configRequest

/-- A charge in nJ on a crew's account, which saved crews do not get (R402); its harts see it in cr.energy. -/
def State.charge (s : State) (r : CrewRef) (n : Nat) : State :=
  match s.crew? r with
  | none => s
  | some k =>
    if k.resident then
      let s := s.modCrew r fun k => { k with energy := k.energy + n }
      { s with cores := s.cores.map fun c =>
          if c.crewRef? = some r then { c with energy := BitVec.ofNat 64 ((k.energy + n) / 1000) } else c }
    else s

/-- An amount of energy divided among crews in proportion to their shares, equally when no share is left (R402). -/
def State.divide (s : State) (energy : Nat) (shares : List (CrewRef × Nat)) : State :=
  let total := shares.foldl (fun n y => n + y.2) 0
  shares.foldl (fun s y => s.charge y.1 (if total = 0 then energy / shares.length else energy * y.2 / total)) s

/-- The harts' shares of a cell's energy: their gate charges and scalar instructions since it was last divided (R402). -/
def State.cellShares (s : State) (d p : Nat) : List (CrewRef × Nat) :=
  (s.cores.filter fun c => !c.isSteward && decide (c.id.cell = cellKey d p)).filterMap fun c =>
    c.crewRef?.map fun r => (r, c.share)

/-- The crews resident on a die, by their cells (R402). -/
def State.dieShares (s : State) (d : Nat) : List (CrewRef × Nat) :=
  s.members.flatMap fun m => (m.crews.filter fun k => k.resident && decide (k.die = d)).map fun k => (k.ref, k.cells.length)

/-- A stack's energy divided among the bank commands performed since it last was, in proportion to their symbols or bytes; a
steward core's have no crew to charge (R402). -/
def State.chargeStack (s : State) (k energy : Nat) : State :=
  let done := (s.stack k).performed
  let total := done.foldl (fun n y => n + y.2) 0
  done.foldl (fun s y => match y.1 with
    | some r => s.charge r (energy * y.2 / total)
    | none => s) s

/-- A die's shares of energy start anew. -/
def State.clearShares (s : State) (d : Nat) : State :=
  { s with
    cores := s.cores.map fun c => if c.id.die = d then { c with share := 0 } else c
    stackTbl := s.stackTbl.map fun (y : Nat × Stack) => if s.owner y.1 = d then (y.1, { y.2 with performed := [] }) else y }

/-- A hart has ENERGY pending (R87). -/
def Core.pendEnergy (c : Core) : Core := { c with pending := { c.pending with energy := true } }

/-- A member whose account has passed its ceiling (R403). -/
def Member.pastCeiling (m : Member) : Bool := decide (m.ceiling ≠ 0) && decide (m.ceiling.toNat < m.account)

/-- Members that have passed their ceiling: ENERGY in hart rank 0 of each crew, held for energy, and pre-empted (R403). -/
def State.checkCeilings (s : State) : State :=
  let past := s.members.filter fun m => m.pastCeiling && !m.energyHeld
  let rs := past.flatMap fun m => m.crews.map fun k => k.ref
  (past.map Member.id).foldl State.preempt { s with
    members := s.members.map fun m => if m.pastCeiling then { m with energyHeld := true } else m
    cores := s.cores.map fun c =>
      if c.crew.elim false fun x => rs.contains x.1 && decide (x.2 = 0) then c.pendEnergy else c }

/-- ENRG (R126): the account, with every earlier instruction of the hart charged; that charge too may pass the ceiling (R403). -/
def execEnrg (d : BitVec 5) (s : State) : Host.Outcome State Fault Refusal :=
  s.runAround false fun s =>
    let s := s.postShare s.me
    let x := s.account s.me
    .ok (s.upd fun c => (c.wg d x).retire).checkCeilings

/-- ENERGY_CHARGE (R399, R402, R403). -/
def State.energyCharge (s : State) (d : Nat) (e : EnergySample) : State :=
  let own := e.stackTbl.filter fun y => decide (s.owner y.1 = d)
  let total := e.cells.foldl (fun n y => n + y.2) 0 + e.rest + own.foldl (fun n y => n + y.2) 0 + e.idle
  let s := s.modDie d fun x => { x with dpower := BitVec.ofNat 32 e.power, denergy := x.denergy + total }
  let s := e.cells.foldl (fun s y => s.divide y.2 (s.cellShares d y.1)) s
  let s := s.divide e.rest (s.dieShares d)
  let s := own.foldl (fun s y => s.chargeStack y.1 y.2) s
  (s.clearShares d).checkCeilings

def execEnergyCharge (die : Nat) (e : EnergySample) (s : State) : Host.Outcome State Fault Refusal := .next (s.energyCharge die e)

/-- DRAIN_HALVE (R404). -/
def State.drainHalve (s : State) (d : Nat) : State :=
  s.modDie d fun x => if x.dbudget < x.dpower then { x with drain := x.drain >>> 1 } else x

def execDrainHalve (die : Nat) (s : State) : Host.Outcome State Fault Refusal := .next (s.drainHalve die)

/-- DRAIN_DOUBLE (R404): up to the reset value; 0 is read as 1. Not while a hard thermal limit holds the drain down (R408). -/
def State.drainDouble (s : State) (d : Nat) : State :=
  s.modDie d fun x =>
    if 10 * x.dpower.toNat ≤ 9 * x.dbudget.toNat ∧ x.drain.toNat < 65536 ∧ x.coolDrain.isNone then
      { x with drain := BitVec.ofNat 32 (Nat.min 65536 (2 * Nat.max 1 x.drain.toNat)) }
    else x

def execDrainDouble (die : Nat) (s : State) : Host.Outcome State Fault Refusal := .next (s.drainDouble die)

/-- The die a crew could be moved to for heat, by its claims (R406). -/
def State.moveTarget (s : State) (k : Crew) : Option Nat :=
  match s.crewClaims k.ref with
  | [] => none
  | st :: rest =>
    let t := otherCandidate k.die st
    if (st :: rest).all fun y => isCandidate k.die y && decide (otherCandidate k.die y = t) then some t else none

/-- The need of a resident crew as it stands: its harts' grants (R259). -/
def State.standingNeed (s : State) (k : Crew) : Need :=
  let x := s.recordOf k.ref.mem
  ⟨recBlocks x, (List.range (recCells x)).map fun r =>
    ((s.hartsOf k.ref).filter fun c => decide (c.hartRank % recCells x = r)).map fun c => c.grant.toNat⟩

/-- A resident crew that can be moved for heat, with its target (R406), which is not above its own threshold (R407). R406 does not say
what becomes of one with a claimed stack in lockage: it is not moved at this check (log 25). -/
def State.movable (s : State) (temps : List Int) (m : Member) (k : Crew) : Option Nat :=
  match s.moveTarget k with
  | none => none
  | some t =>
    let claims := s.crewClaims k.ref
    let ok : Bool := decide (m.state = .resident) && recMigrate (s.recordOf m.id)
      && !(m.crews.any fun y => decide (y.die = t))
      && !(s.members.any fun x => x.crews.any fun y => decide (y.ref ≠ k.ref) && y.resident &&
            (s.crewClaims y.ref).any claims.contains)
      && claims.all (fun st => (s.stack st).lock.isNone)
      && (s.dieRoom t (s.standingNeed k)).isSome
      && decide (16 * ((s.die k.die).thot.toNat : Int) ≤ s.dieTemp temps k.die)
      && decide (s.dieTemp temps t + 80 ≤ s.dieTemp temps k.die)
      && decide (s.dieTemp temps t ≤ 16 * ((s.die t).thot.toNat : Int))
      && decide (k.stoodAt + 50000000 ≤ s.time)
    if ok then some t else none

/-- HEAT_MOVE_CHECK (R406): each crew that meets the conditions is pre-empted for its move. Of several crews of a train, whose moves R406
does not order, the first by rank moves and the others wait for a later check (log 25). -/
def State.heatMoves (s : State) (temps : List Int) : State :=
  (s.members.flatMap fun m => m.crews.map fun k => (m.id, k.ref)).foldl (fun s y =>
    match s.member? y.1, s.crew? y.2 with
    | some m, some k =>
      match s.movable temps m k with
      | some t => (s.modMember m.id fun m => { m with moves := m.moves ++ [(k.ref.rank, t)] }).preempt m.id
      | none => s
    | _, _ => s) (s.sense temps)

def execHeatMoveCheck (temps : List Int) (s : State) : Host.Outcome State Fault Refusal := .next (s.heatMoves temps)

/-- The victims of a candidate that neither what is under way, nor a lockage, nor lanes would admit (R393). -/
def State.wantedVictims (s : State) (m : MemberId) : List MemberId :=
  let t := s.underWay m
  if (t.placement m).isSome || (s.lockageFor m).isSome || ((t.lanesGiven m).placement m).isSome then []
  else if (s.member? m).isNone && (s.batch? m).any s.poolShort then []
  else (t.chooseVictims m).elim [] Prod.snd

/-- A reason to pre-empt a member (R255): a candidate of higher priority needs its place, its ceiling, or heat. A lane reclaim
that has timed out is RECLAIM_TIMEOUT's. -/
def State.preemptReason (s : State) (m : MemberId) : Bool :=
  (s.candidatesNow.any fun x => (s.wantedVictims x).contains m)
    || (s.member? m).elim false fun x => x.energyHeld || x.pastCeiling
      || !x.moves.isEmpty || x.crews.any fun k => (s.movable s.temps x k).isSome

/-- PREEMPT_REQUEST (R255). -/
def execPreemptRequest (m : MemberId) (s : State) : Host.Outcome State Fault Refusal :=
  .next (if s.preemptReason m then s.preempt m else s)

/-- THERMAL_BUDGET_STEP (R407). -/
def State.budgetStep (s : State) (d : Nat) (temps : List Int) : State :=
  let s := s.sense temps
  let full := s.budgetOf d
  let t := s.dieTemp temps d
  let hot := 16 * ((s.die d).thot.toNat : Int)
  let sheds : Bool := s.members.any fun m => m.crews.any fun k => decide (k.die = d) && (s.movable temps m k).isSome
  s.modDie d fun x =>
    let b := x.dbudget.toNat
    if hot ≤ t ∧ sheds = false then { x with dbudget := BitVec.ofNat 32 (Nat.max (Nat.min b (3 * full / 10)) (b - full / 10)) }
    else if t + 80 ≤ hot ∧ b < full then { x with dbudget := BitVec.ofNat 32 (Nat.min full (b + full / 10)) }
    else x

def execThermalBudgetStep (die : Nat) (temps : List Int) (s : State) : Host.Outcome State Fault Refusal :=
  .next (s.budgetStep die temps)

/-- HARD_THERMAL_LIMIT (R408): a site at 105 °C. -/
def State.hardLimit (s : State) (d : Nat) (temps : List Int) : State :=
  let s := s.sense temps
  if 1680 ≤ s.dieTemp temps d ∧ (s.die d).coolDrain.isNone then
    s.modDie d fun x => { x with coolDrain := some (x.drain, x.vfsel), vfsel := 0, drain := x.drain >>> 3 }
  else s

def execHardThermalLimit (die : Nat) (temps : List Int) (s : State) : Host.Outcome State Fault Refusal :=
  .next (s.hardLimit die temps)

/-- THERMAL_RECOVER (R408): every site below 100 °C. -/
def State.thermalRecover (s : State) (d : Nat) (temps : List Int) : State :=
  let s := s.sense temps
  if temps.all fun t => decide (t < 1600) then
    s.modDie d fun x => match x.coolDrain with
      | some (drain, vf) => { x with coolDrain := none, vfsel := vf, drain := drain }
      | none => x
  else s

def execThermalRecover (die : Nat) (temps : List Int) (s : State) : Host.Outcome State Fault Refusal :=
  .next (s.thermalRecover die temps)

/-- The die nearest a site: the die there, or the lower-numbered of the dies that share a stack's edge. -/
def nearestDie (site : Nat) : Nat :=
  let row := site / 16
  let col := site % 16
  if (row + col) % 2 = 0 then siteNumber row col else siteNumber row (if col = 0 then 1 else col - 1)

/-- COLD_HEATER (R359, R408): dies nearest a site below −5 °C heat their unoccupied cells. -/
def State.coldHeater (s : State) (temps : List Int) : State :=
  if s.boot.stage ≠ 9 then s
  else
    let s := s.sense temps
    let cold := temps.zipIdx.filter fun y => decide (y.1 < -80)
    let s := if cold.isEmpty then s else { s with boot := { s.boot with heaterUsed := true } }
    cold.foldl (fun s y => s.modDie (nearestDie y.2) fun x => { x with heater := true }) s

def execColdHeater (temps : List Int) (s : State) : Host.Outcome State Fault Refusal := .next (s.coldHeater temps)

/-- COLD_HEATER_STOP (R408): every site reads 0 °C or more. -/
def State.coldStop (s : State) (temps : List Int) : State :=
  if s.boot.stage = 9 ∧ (temps.all fun t => decide (0 ≤ t)) then
    let s := s.sense temps
    { s with dies := s.dies.map fun (y : Nat × Die) => (y.1, { y.2 with heater := false }) }
  else s

def execColdHeaterStop (temps : List Int) (s : State) : Host.Outcome State Fault Refusal := .next (s.coldStop temps)

/-- LANE_GROUP_GATE (R405): a lane group of four loses its power; its register bits are kept. -/
def State.gateGroup (s : State) (d p g : Nat) : State :=
  s.modCell (cellKey d p) fun y => if g < 4 ∧ ¬ y.gated.contains g then { y with gated := g :: y.gated } else y

def execLaneGroupGate (die p group : Nat) (s : State) : Host.Outcome State Fault Refusal := .next (s.gateGroup die p group)

/-- LANE_GROUP_WAKE (R405). -/
def State.wakeGroup (s : State) (d p g : Nat) : State :=
  s.modCell (cellKey d p) fun y => { y with gated := y.gated.filter fun x => !decide (x = g) }

def execLaneGroupWake (die p group : Nat) (s : State) : Host.Outcome State Fault Refusal := .next (s.wakeGroup die p group)

/-- SUPPLY_DROOP (R405): STRETCH counts the stretched cycles. -/
def State.droop (s : State) (d n : Nat) : State := s.modDie d fun x => { x with stretch := x.stretch + BitVec.ofNat 64 n }

def execSupplyDroop (die cycles : Nat) (s : State) : Host.Outcome State Fault Refusal := .next (s.droop die cycles)

/-- Two bytes of a section, little-endian. -/
def half (bs : List Byte) (i : Nat) : Nat := bytesNat ((bs.drop i).take 2)

/-- VOLTAGE_GUARD_UPDATE (R357, R405). -/
def State.guardUpdate (s : State) (d : Nat) (temps : List Int) : State :=
  let s := s.sense temps
  let t := s.dieTemp temps d
  let cold := half s.part.guard (4 * d)
  let hot := half s.part.guard (4 * d + 2)
  s.modDie d fun x => { x with
    guard := if t < 0 then cold * (-t).toNat / 16 else if 1360 < t then hot * (t - 1360).toNat / 16 else 0 }

def execVoltageGuardUpdate (die : Nat) (temps : List Int) (s : State) : Host.Outcome State Fault Refusal :=
  .next (s.guardUpdate die temps)

/-- A temperature has moved 10 °C since a training (R410). -/
def moved10 (now then_ : Int) : Bool := decide (160 ≤ now - then_) || decide (160 ≤ then_ - now)

/-- The temperature of a die at a module's last training (R410). -/
def State.moduleTrained (s : State) (d edge module : Nat) : Int :=
  tblGet (siteTemp s.boot.trainTemps (dieSite d)) (8 * edge + module) (s.die d).trained

/-- LINK_RETRAIN (R410): of one of the eight modules of an edge, which exceeds its rate of flit retries or whose die's
temperature has moved. After three retrains that fail, lane repair is tried with the next; a fourth puts the module out of
use. -/
def State.linkRetrain (s : State) (d edge module : Nat) (r : Retraining) : State :=
  let now := siteTemp s.temps (dieSite d)
  s.modDie d fun x =>
    if edge < 4 ∧ module < 8 ∧ x.modules.count (edge, module) < 4 ∧ (r.rate || moved10 now (s.moduleTrained d edge module)) = true then
      if r.ok then { x with trained := tblSet (8 * edge + module) now x.trained }
      else { x with modules := (edge, module) :: x.modules }
    else x

def execLinkRetrain (die edge module : Nat) (ok : Retraining) (s : State) : Host.Outcome State Fault Refusal :=
  .next (s.linkRetrain die edge module ok)

/-- The temperature of a stack at a group's last training (R410). -/
def State.groupTrained (s : State) (k g : Nat) : Int :=
  tblGet (siteTemp s.boot.trainTemps (stackSite k)) g (s.stack k).trained

/-- DRAM_RETRAIN (R410): one group of eight banks at a time starts, once the stack's temperature has moved, or ends. -/
def State.dramRetrain (s : State) (k g : Nat) (start : Bool) : State :=
  let x := s.stack k
  let now := siteTemp s.temps (stackSite k)
  if start then
    if x.retrain.isEmpty && decide (g < 64) && moved10 now (s.groupTrained k g) then s.setStack k { x with retrain := [g] } else s
  else if x.retrain.contains g then s.setStack k { x with retrain := [], trained := tblSet g now x.trained }
  else s

def execDramRetrain (stack group : Nat) (start : Bool) (s : State) : Host.Outcome State Fault Refusal :=
  .next (s.dramRetrain stack group start)

/-- DRAM_SCRUB and SRAM_SCRUB (R411): errors they find are events of their own, and correct contents stay. -/
def execDramScrub (s : State) : Host.Outcome State Fault Refusal := .next s
def execSramScrub (s : State) : Host.Outcome State Fault Refusal := .next s

/-- A count that saturates at 16 bits (R411). -/
def satInc (x : BitVec 16) : BitVec 16 := if x = 0xFFFF then x else x + 1

/-- ECC made pending in a hart (R87). -/
def Core.pendEcc (addr : Word) (c : Core) : Core := { c with pending := { c.pending with ecc := some (c.pending.ecc.getD addr) } }

/-- ECC for a hart of a crew: pending in it while resident, or in what is saved of it. -/
def State.pendCrewEcc (s : State) (r : CrewRef) (hr : Nat) (addr : Word) : State :=
  match s.hartOf r hr with
  | some c => s.modCore c.id (Core.pendEcc addr)
  | none => s.modCrew r fun k => { k with stops := k.stops.map fun h =>
      if h.rank = hr then { h with pending := { h.pending with ecc := some (h.pending.ecc.getD addr) } } else h }

/-- A logical cell's second uncorrectable error within 24 h retires it, and crews on it are pre-empted (R412). -/
def State.cellError (s : State) (d p : Nat) : State :=
  let again : Bool := match tblGet? p (s.die d).cellUe with
    | some t => decide (s.time ≤ t + 86400000000000)
    | none => false
  let s := s.modDie d fun x => { x with
    cellUe := tblSet p s.time x.cellUe
    retire := if again then x.retire ||| BitVec.ofNat 64 (2 ^ p) else x.retire }
  if again then
    (s.members.filter fun m => m.crews.any fun k => k.resident && decide (k.die = d) && k.cells.any fun y => decide (y.1 = p)).foldl
      (fun s m => s.preempt m.id) s
  else s

/-- Members whose crews are being saved on a cell, or whose save areas hold an address: an uncorrectable error there ends them
(R258, R265). -/
def State.saveErrors (s : State) (e : EccError) : List MemberId :=
  (s.members.filter fun m =>
    (decide (m.state = .stopping) && m.crews.any fun k => k.resident && decide (k.die = e.die) &&
        e.cell.elim false fun p => k.cells.any fun y => decide (y.1 = p))
      || ((decide (m.state = .saved) || decide (m.state = .stopping)) && e.cell.isNone && m.crews.any fun k =>
        decide (k.save ≤ e.addr.toNat) && decide (e.addr.toNat < k.save + saveSize (s.recordOf m.id)))).map fun m => m.id

/-- Where an uncorrectable error is raised (R411): in the hart that consumes the data, or the issuing hart of a bank command,
of which an LKACC is dropped for an error in its tile bytes (R302);
else it ends a save, and writes an event record. -/
def State.eccRaise (s : State) (e : EccError) : State :=
  match e.consumer with
  | some id => s.modCore id (Core.pendEcc e.addr)
  | none =>
    match e.bank.bind fun y => (s.bankCmd? y.1 y.2).map fun x => (y, x) with
    | some (y, x) =>
      let s := match x.crew with
        | some r => s.pendCrewEcc r x.hart e.addr
        | none => s.modCore (.steward x.die) (Core.pendEcc e.addr)
      s.dropTile y.1 y.2 e.addr.toNat
    | none => ((s.saveErrors e).foldl (fun s m => s.killMember m 0x40 e.addr) s).eventRecord 5 0x40 0 e.addr

/-- ECC_ERROR (R411, R412). -/
def State.eccError (s : State) (e : EccError) : State :=
  if e.corrected then
    { s with ceTotal := s.ceTotal + 1 }.modDie e.die fun x =>
      if e.dram then { x with dce := satInc x.dce } else { x with cce := satInc x.cce }
  else
    let s := { s with ueTotal := s.ueTotal + 1 }.modDie e.die fun x => { x with ue := satInc x.ue }
    let s := s.eccRaise e
    match e.cell with
    | some p => s.cellError e.die p
    | none => s

def execEccError (e : EccError) (s : State) : Host.Outcome State Fault Refusal := .next (s.eccError e)

/-- A stack after its owner has died (R413): switched to its other candidate, its home bytes not in DRAM lost, and recorded. That
die, now home, keeps no non-home copy of its lines: their dirty bytes are merged at home (R271; log 26). -/
def State.switchDead (s : State) (k : Nat) : State :=
  let other := otherCandidate (s.owner k) k
  let s := s.setStack k { s.stack k with
    lock := none
    second := decide ((candidates k).2 = other)
    orphan := (s.die other).dead }
  let s := s.discardHome (k * 2 ^ 35) (2 ^ 35)
  (s.dropLines other ((s.die other).nonHome.filter fun x => decide (stackOf (64 * x.line) = k))).eventRecord 5 0x40 0
    (BitVec.ofNat 64 (k * 2 ^ 35))

/-- DIE_DEAD (R413). -/
def State.dieDead (s : State) (d : Nat) : State :=
  if (s.die d).dead then s
  else
    let s := s.modDie d fun x => { x with dead := true, nonHome := [] }
    let s := ((stacksOf d).filter fun k => decide (s.owner k = d)).foldl State.switchDead s
    let s := { s with stackTbl := s.stackTbl.map fun (y : Nat × Stack) =>
      match y.2.lock with
      | some l => if l.new = d then (y.1, { y.2 with lock := none }) else y
      | none => y }
    let s := (s.members.filter fun m => m.crews.any fun k => k.resident && decide (k.die = d)).foldl
      (fun s m => s.killMember m.id 0x41 0) s
    { s with
      cores := s.cores.filter fun c => !decide (c.id = .steward d)
      members := s.members.map fun m => { m with reserved := m.reserved.filter fun x => !decide (x = d) } }

def execDieDead (die : Nat) (s : State) : Host.Outcome State Fault Refusal := .next (s.dieDead die)

/-- LINK_FLIT_ERROR (R411): a retried flit is counted in units of 2^16; one that is lost makes LINK pending (R87). -/
def State.flitError (s : State) (d : Nat) (lost : Option (CoreId × Word)) : State :=
  match lost with
  | some (id, a) => s.modCore id (Core.pendLink a)
  | none => s.modDie d fun x =>
    if x.retries + 1 = 65536 then { x with retries := 0, lrt := satInc x.lrt } else { x with retries := x.retries + 1 }

def execLinkFlitError (die : Nat) (lost : Option (CoreId × BitVec 64)) (s : State) : Host.Outcome State Fault Refusal :=
  .next (s.flitError die lost)

end Sys2Proof.Machine
end

