-- ==== Sys2Proof/Machine/Links.lean ====
section
/-! DEFINITION. The host and fabric ports: incoming RDMA requests, connections, congestion and flow control, and the answers to
the panel's own requests (R285, R286, R383 to R386). -/

namespace Sys2Proof.Machine

/-- The region a remote key names (R384). -/
def State.region (s : State) (q : RdmaHead) : Quad := quadAt (q.rkey.toNat % 256) s.regions

/-- The device physical address of a request in its region (R384). -/
def State.rdmaPlace (s : State) (q : RdmaHead) : Nat :=
  let r := s.region q
  bits r.d2 47 16 * 2 ^ 16 + (q.va.toNat - bits r.d1 51 16 * 2 ^ 16)

/-- The kinds of request a region allows (R384). -/
inductive RdmaKind where
  | read | write | atomic
  deriving DecidableEq, Repr

/-- The frames of `n` bytes from a device address on. -/
def framesOf (pa n : Nat) : List Nat := (List.range (n / 2 ^ 28 + 2)).filterMap fun i =>
  if pa / 2 ^ 28 * 2 ^ 28 + i * 2 ^ 28 < pa + n then some (frameOf (pa / 2 ^ 28 * 2 ^ 28 + i * 2 ^ 28)) else none

/-- A write or atomic that a seal or a mailbox row refuses (R216, R373). -/
def State.rdmaSealed (s : State) (pa n : Nat) : Bool :=
  (framesOf pa n).any (fun f =>
    let d := s.owner (f / 2 ^ 7 % 128)
    (s.ioFrames f).any fun g => (s.die d).sealt.getLsbD g) || isMailbox pa || isMailbox (pa + n - 1)

/-- The first check of R385 that a request of `n` bytes fails: the NAK, and whether the queue pair enters the error state. -/
def State.rdmaFault (s : State) (q : RdmaHead) (k : RdmaKind) (n : Nat) : Option (String × Bool) :=
  let r := s.region q
  let base := bits r.d1 51 16 * 2 ^ 16
  let allowed : Bool := match k with
    | .read => bit r.d0 62
    | .write => bit r.d0 61
    | .atomic => bit r.d0 60
  if !bit r.d0 63 || decide (bits r.d0 31 8 ≠ q.rkey.toNat / 256) then some ("Remote Access Error", false)
  else if !allowed then some ("Remote Access Error", false)
  else if q.va.toNat < base || decide (base + bits r.d3 47 16 * 2 ^ 16 < q.va.toNat + n) then some ("Remote Access Error", false)
  else if k = .atomic && decide (q.va.toNat % 8 ≠ 0) then some ("Invalid Request", false)
  else if k ≠ .read && s.rdmaSealed (s.rdmaPlace q) n then some ("Remote Access Error", false)
  else if k ≠ .write && q.spoilt then some ("Remote Operational Error", true)
  else none

/-- A queue pair changed. -/
def State.modQp (s : State) (qp : Nat) (f : Qp → Qp) : State := { s with qps := tblSet qp (f (tblGet Qp.reset qp s.qps)) s.qps }

/-- A reply of the panel. -/
def State.reply (s : State) (r : Reply) : State := { s with tx := s.tx ++ [r] }

/-- A request refused (R385): the NAK, and an event record of kind 4 with the key. -/
def State.rdmaRefuse (s : State) (q : RdmaHead) (f : String × Bool) : State :=
  let s := (s.reply (.nak q.qp f.1)).eventRecord 4 0 0 (q.rkey.setWidth 64)
  if f.2 then s.modQp q.qp fun x => { x with error := true } else s

/-- A queue pair that takes requests: connected and not in the error state. -/
def State.takesRequests (s : State) (qp : Nat) : Bool :=
  match tblGet? qp s.qps with
  | some x => decide (x.cm = .established) && !x.error
  | none => false

/-- The home of a device range is held: a lockage, or banks in retraining (R307, R410); of a write, of any replica (R286). -/
def State.rangeWaits (s : State) (pa n : Nat) (write : Bool) : Bool :=
  (List.range n).any fun i =>
    let a := pa + i
    let fs := if write then s.ioFrames (frameOf a) else [frameOf a]
    fs.any fun f =>
      let b := if write then inFrame f a else a
      (s.homeWait (s.owner (stackOf b)) b).isSome

/-- Bytes written at home from a device address on, in every replica of a replicated frame (R285, R286). -/
def State.rdmaPut (s : State) (pa : Nat) : List Byte → State
  | [] => s
  | b :: bs =>
    let fs := s.ioFrames (frameOf pa)
    (fs.foldl (fun s f => s.setLocByte (inFrame f pa) b) s).rdmaPut (pa + 1) bs

/-- The kind of an incoming request, and its bytes (R384, R385). -/
def IncomingOp.kind : IncomingOp → RdmaKind
  | .write _ => .write
  | .read _ => .read
  | .compareSwap _ _ => .atomic
  | .fetchAdd _ => .atomic

def IncomingOp.size : IncomingOp → Nat
  | .write data => data.length
  | .read len => len
  | .compareSwap _ _ => 8
  | .fetchAdd _ => 8

/-- A request, or a packet of a write, performed at home (R385): bytes written or read, or the old value of an atomic answered and
the new one written. A write is answered with its last packet. -/
def IncomingOp.act (s : State) (qp pa : Nat) : IncomingOp → State
  | .write data => s.rdmaPut pa data
  | .read len => s.reply (.readData qp (s.locBytes pa len))
  | .compareSwap cmp swap =>
    let old := s.readWord pa
    (s.rdmaPut pa (wordBytes64 (if old = cmp then swap else old))).reply (.atomicData qp old)
  | .fetchAdd add =>
    let old := s.readWord pa
    (s.rdmaPut pa (wordBytes64 (old + add))).reply (.atomicData qp old)

/-- Some of `n` bytes of a device range lie in a stack that has lost both candidates (R413). -/
def State.rangeLost (s : State) (pa n : Nat) : Bool := (framesOf pa n).any fun f => (s.stack (f / 2 ^ 7 % 128)).orphan

/-- A request, or a packet of a write, checked, and refused or performed, with whether it was accepted; none while its home is held
(R285, R307, R385). One whose bytes no die can reach fails as one with an uncorrectable error (R413; log 33). -/
def State.rdmaPacket (s : State) (x : Incoming) : Option (State × Bool) :=
  match s.rdmaFault x.head x.op.kind x.op.size with
  | some e => some (s.rdmaRefuse x.head e, false)
  | none =>
    if s.rangeLost (s.rdmaPlace x.head) x.op.size then some (s.rdmaRefuse x.head ("Remote Operational Error", true), false)
    else if s.rangeWaits (s.rdmaPlace x.head) x.op.size (decide (x.op.kind ≠ .read)) then none
    else some (x.op.act s x.head.qp (s.rdmaPlace x.head), true)

/-- The packets of a WRITE, of `mtu` bytes each but for the last, in turn (R383, R385): those before a refused one stay performed. With
it, what waits for a home, if some does. `n` bounds the packets. -/
def State.rdmaWrite (s : State) (mtu : Nat) (q : RdmaHead) (data : List Byte) : Nat → State × Option Incoming
  | 0 => (s, none)
  | n + 1 =>
    match s.rdmaPacket ⟨q, .write (data.take mtu)⟩ with
    | none => (s, some ⟨q, .write data⟩)
    | some (s, false) => (s, none)
    | some (s, true) =>
      if data.length ≤ mtu then (s.reply (.ack q.qp), none)
      else s.rdmaWrite mtu { q with va := q.va + BitVec.ofNat 64 mtu } (data.drop mtu) n

/-- A request taken as far as its homes take it, with what waits of it. -/
def State.rdmaTry (s : State) (x : Incoming) : State × Option Incoming :=
  match x.op with
  | .write data =>
    let mtu := Nat.max 1 (tblGet Qp.reset x.head.qp s.qps).mtu
    s.rdmaWrite mtu x.head data (data.length / mtu + 1)
  | .read _ | .compareSwap _ _ | .fetchAdd _ =>
    match s.rdmaPacket x with
    | some (s, _) => (s, none)
    | none => (s, some x)

/-- A message past 2^31 bytes, or a READ or atomic while 64 of its queue pair are outstanding, is refused by NAK Invalid
Request (R383; log 33). -/
def Qp.takes (y : Qp) (x : Incoming) : Bool :=
  decide (x.op.size ≤ 2 ^ 31) &&
    (decide (x.op.kind = .write) || decide ((y.held.filter fun z => decide (z.op.kind ≠ .write)).length < 64))

/-- An incoming request (R285, R383, R385): performed at home in the posting order of its connection, so that it waits behind
those of its connection that wait. -/
def State.rdma (s : State) (x : Incoming) : State :=
  let qp := x.head.qp
  let y := tblGet Qp.reset qp s.qps
  if !s.takesRequests qp then s
  else if !y.takes x then s.rdmaRefuse x.head ("Invalid Request", false)
  else
    match if y.held.isEmpty then s.rdmaTry x else (s, some x) with
    | (s, none) => s
    | (s, some x) => s.modQp qp fun y => { y with held := y.held ++ [x] }

/-- The waiting requests of a queue pair performed in order as far as their homes take them, and dropped once it takes none
(R285, R307, R383). -/
def State.rdmaHeld (s : State) (qp : Nat) : List Incoming → State
  | [] => s.modQp qp fun y => { y with held := [] }
  | x :: xs =>
    if !s.takesRequests qp then s.modQp qp fun y => { y with held := [] }
    else
      match s.rdmaTry x with
      | (s, none) => s.rdmaHeld qp xs
      | (s, some x) => s.modQp qp fun y => { y with held := x :: xs }

/-- The waiting requests of every connection. -/
def State.rdmaResume (s : State) : State :=
  s.qps.foldl (fun s y => if y.2.held.isEmpty then s else s.rdmaHeld y.1 y.2.held) s

/-- RDMA_WRITE (R385). -/
def execRdmaWrite (q : RdmaHead) (data : List (BitVec 8)) (s : State) : Host.Outcome State Fault Refusal :=
  .next (s.rdma ⟨q, .write data⟩)

/-- RDMA_READ (R385). -/
def execRdmaRead (q : RdmaHead) (len : Nat) (s : State) : Host.Outcome State Fault Refusal :=
  .next (s.rdma ⟨q, .read len⟩)

/-- RDMA_COMPARE_SWAP (R385). -/
def execRdmaCompareSwap (q : RdmaHead) (cmp swap : BitVec 64) (s : State) : Host.Outcome State Fault Refusal :=
  .next (s.rdma ⟨q, .compareSwap cmp swap⟩)

/-- RDMA_FETCH_ADD (R385). -/
def execRdmaFetchAdd (q : RdmaHead) (add : BitVec 64) (s : State) : Host.Outcome State Fault Refusal :=
  .next (s.rdma ⟨q, .fetchAdd add⟩)

/-- RDMA_UNSUPPORTED_OP (R383). -/
def State.rdmaUnsupported (s : State) (q : RdmaHead) : State :=
  if s.takesRequests q.qp then s.reply (.nak q.qp "Invalid Request") else s

def execRdmaUnsupportedOp (q : RdmaHead) (s : State) : Host.Outcome State Fault Refusal := .next (s.rdmaUnsupported q)

/-- NON_RC_PACKET (R383): dropped and counted. -/
def execNonRcPacket (port : Nat) (s : State) : Host.Outcome State Fault Refusal :=
  .next (if port < 36 then { s with dropped := s.dropped + 1 } else s)

/-- ECN_MARKED_PACKET (R383): a CNP, at most one for a queue pair per 50 µs. -/
def State.ecnMarked (s : State) (qp : Nat) : State :=
  let x := tblGet Qp.reset qp s.qps
  if (tblGet? qp s.qps).isSome && x.cnpAt.elim true (fun t => decide (t + 50000 ≤ s.time)) then
    (s.modQp qp fun x => { x with cnpAt := some s.time }).reply (.cnp qp)
  else s

def execEcnMarkedPacket (qp : Nat) (s : State) : Host.Outcome State Fault Refusal := .next (s.ecnMarked qp)

/-- CNP_RECEIVED (R383): a lower send rate, by parameters that firmware sets. -/
def State.cnpReceived (s : State) (qp : Nat) : State :=
  if (tblGet? qp s.qps).isSome then
    { s with ticks := s.ticks + 1 }.modQp qp fun x => { x with rate := if x.rate = 0 then 0 else Config.sendRate s.ticks % x.rate }
  else s

def execCnpReceived (qp : Nat) (s : State) : Host.Outcome State Fault Refusal := .next (s.cnpReceived qp)

/-- A queue pair as it becomes connected: retry count and RNR retry count 7, its path MTU, ACK timeout and rate as firmware
sets them (R383). -/
def State.connect (s : State) (qp : Nat) : State :=
  { s with ticks := s.ticks + 1 }.modQp qp fun _ => ⟨.established, false, 7, 7, 1024 * 2 ^ (Config.pathMtu s.ticks).val,
    Config.ackTimeout s.ticks, Config.sendRate s.ticks, none, []⟩

/-- The set-up state of a queue pair. -/
def State.cmOf (s : State) (qp : Nat) : CmState := (tblGet Qp.reset qp s.qps).cm

/-- A queue pair may begin a set-up: one of the 4,096, with no connection (R383). -/
def State.canConnect (s : State) (qp : Nat) : Bool :=
  decide (qp < 4096) && decide (s.boot.stage = 9) && (decide (s.cmOf qp = .idle) || decide (s.cmOf qp = .rejected))

/-- CM_REQ (R383): answered by REP, or REJ. -/
def State.cmReq (s : State) (qp : Nat) : State :=
  if s.canConnect qp then (s.modQp qp fun _ => { Qp.reset with cm := .reqReceived }).reply (.cm qp "REP")
  else s.reply (.cm qp "REJ")

def execCmReq (qp port : Nat) (s : State) : Host.Outcome State Fault Refusal := .next (if port < 36 then s.cmReq qp else s)

/-- CM_REP (R383): to a REQ of the panel's firmware; answered by RTU. -/
def State.cmRep (s : State) (qp : Nat) : State :=
  if s.canConnect qp then (s.connect qp).reply (.cm qp "RTU") else s

def execCmRep (qp port : Nat) (s : State) : Host.Outcome State Fault Refusal := .next (if port < 36 then s.cmRep qp else s)

/-- CM_RTU (R383). -/
def execCmRtu (qp : Nat) (s : State) : Host.Outcome State Fault Refusal :=
  .next (if s.cmOf qp = .reqReceived then s.connect qp else s)

/-- CM_REJ (R383). -/
def execCmRej (qp : Nat) (s : State) : Host.Outcome State Fault Refusal :=
  .next (if s.cmOf qp = .established then s else s.modQp qp fun _ => { Qp.reset with cm := .rejected })

/-- CM_DREQ (R383): the connection ends, and DREP answers. -/
def execCmDreq (qp : Nat) (s : State) : Host.Outcome State Fault Refusal :=
  .next ((s.modQp qp fun _ => Qp.reset).reply (.cm qp "DREP"))

/-- CM_DREP (R383): the connection ends. -/
def execCmDrep (qp : Nat) (s : State) : Host.Outcome State Fault Refusal := .next (s.modQp qp fun _ => Qp.reset)

/-- CM_MRA_TIMEOUT (R383). -/
def execCmMraTimeout (qp : Nat) (s : State) : Host.Outcome State Fault Refusal :=
  .next (if s.cmOf qp = .reqReceived then s.reply (.cm qp "MRA") else s)

/-- PFC_PAUSE_FRAME (R383): a port transmits or pauses a priority; two priorities at most. -/
def State.pfc (s : State) (port prio : Nat) (pause : Bool) : State :=
  let rest := s.paused.filter fun y => !decide (y = (port, prio))
  if !pause then { s with paused := rest }
  else if port < 36 ∧ prio < 8 ∧ (rest.filter fun y => decide (y.1 = port)).length < 2 then { s with paused := (port, prio) :: rest }
  else s

def execPfcPauseFrame (port prio : Nat) (pause : Bool) (s : State) : Host.Outcome State Fault Refusal :=
  .next (s.pfc port prio pause)

/-- A stream command changed wherever its cell is. -/
def State.modStream (s : State) (id : Nat) (f : StreamCmd → StreamCmd) : State :=
  { s with cells := s.cells.map fun (y : Nat × Cell) =>
      (y.1, { y.2 with queue := y.2.queue.map fun z => if z.id = id then f z else z }) }

/-- OUTBOUND_RESPONSE (R386): the core or command that waits gets its bytes. -/
def State.outResponse (s : State) (id : Nat) (data : List Byte) : State :=
  match s.outbound.find? fun o => decide (o.id = id) with
  | none => s
  | some o =>
    if !o.valid || isControl o.pa || decide (data.length ≠ o.answerBytes) then s
    else
      let s := if (tblGet? o.qp s.qps).isSome then s.modQp o.qp fun x => { x with retries := 7, rnr := 7 } else s
      let s := (s.answerCore o data).mergeBack o data
      match o.core, o.stream with
      | some _, _ => s
      | none, some x => s.modStream x fun z => { z with waiting := false, remote := answerInto o 0 data z.remote }
      | none, none => s

def execOutboundResponse (id : Nat) (data : List (BitVec 8)) (s : State) : Host.Outcome State Fault Refusal :=
  .next (s.outResponse id data)

/-- A request that fails (R386): LINK at an access that waits; pending in the hart of a store it has left behind; pending in
the issuing hart of a stream command, which ends (R197). -/
def State.outFail (s : State) (o : Outbound) : State :=
  let s := s.endOut o.id
  match o.core, o.stream with
  | some c, _ =>
    if o.waits then s.modCore c fun c => { c with remote := tblSet (o.base + failKey o.elem o.pa) 0 c.remote }
    else s.modCore c (Core.pendLink o.va)
  | none, some x =>
    match (s.cells.flatMap fun (y : Nat × Cell) => y.2.queue).find? fun z => decide (z.id = x) with
    | none => s
    | some z =>
      { s with cells := s.cells.map fun (y : Nat × Cell) =>
          (y.1, { y.2 with queue := y.2.queue.filter fun w => !decide (w.id = x) }) }.pendLink z.crew z.hart o.va
  | none, none => s

/-- The requests of a queue pair that are under way sent again (R383). -/
def State.resend (s : State) (qp : Nat) : State :=
  { s with outbound := s.outbound.map fun (o : Outbound) =>
      if o.valid && !isControl o.pa && decide (o.qp = qp) then { o with sentAt := s.time } else o }.reply (.retry qp)

/-- OUTBOUND_NAK (R386): the request fails. One that an RNR NAK answers is retried up to the RNR retry count; then its queue
pair is in error and it fails (R383). -/
def State.outNak (s : State) (x : NakReport) : State :=
  match s.outbound.find? fun o => decide (o.id = x.id) with
  | none => s
  | some o =>
    if isControl o.pa then s
    else if !x.rnr then s.outFail o
    else if (tblGet Qp.reset o.qp s.qps).rnr = 0 then (s.modQp o.qp fun y => { y with error := true }).outFail o
    else (s.modQp o.qp fun y => { y with rnr := y.rnr - 1 }).resend o.qp

def execOutboundNak (id : NakReport) (s : State) : Host.Outcome State Fault Refusal := .next (s.outNak id)

/-- LOCAL_ACK_TIMEOUT (R383), once the queue pair's timeout has run for a request since it was sent: it is retried up to the
retry count; then the queue pair is in error and its requests fail (R86). -/
def State.ackTimeout (s : State) (qp : Nat) : State :=
  let mine := s.outbound.filter fun o => o.valid && !isControl o.pa && decide (o.qp = qp)
  let due (o : Outbound) : Bool := decide (o.sentAt + (tblGet Qp.reset qp s.qps).timeout ≤ s.time)
  if !mine.any due || (tblGet? qp s.qps).isNone then s
  else if (tblGet Qp.reset qp s.qps).retries = 0 then
    mine.foldl State.outFail (s.modQp qp fun x => { x with error := true })
  else (s.modQp qp fun x => { x with retries := x.retries - 1 }).resend qp

def execLocalAckTimeout (qp : Nat) (s : State) : Host.Outcome State Fault Refusal := .next (s.ackTimeout qp)

end Sys2Proof.Machine
end

