-- ==== Sys2Proof/Machine/Boot.lean ====
section
/-! DEFINITION. Power-up, the boot protocol, images and their verification, identity, attestation and the security alarm (R349
to R361, R398, R408). -/

namespace Sys2Proof.Machine

/-- The state with the boot block changed. -/
def State.modBoot (s : State) (f : Boot → Boot) : State := { s with boot := f s.boot }

/-- The text that HKDF binds the identity to (R358): "daxpor identity". -/
def identityInfo : List Byte :=
  [0x64, 0x61, 0x78, 0x70, 0x6f, 0x72, 0x20, 0x69, 0x64, 0x65, 0x6e, 0x74, 0x69, 0x74, 0x79]

/-- The identity private key (R358): a 256-bit number below the group order, else none can be derived. -/
def derivedKey : Option Nat :=
  let x := beNat (hkdf (beBytes 32 Config.pufKey.toNat) identityInfo)
  if 1 ≤ x ∧ x < p256Order then some x else none

/-- The vendor key hash in mask ROM (R355). -/
def maskRomHash : List Byte := beBytes 32 Config.maskRomKeyHash.toNat

/-- A public key, or a signature, as the protocol carries it: two numbers of 32 bytes, little-endian as all fields are. -/
def pairBytes (x : Nat × Nat) : List Byte := natBytes 32 x.1 ++ natBytes 32 x.2

/-- The identity public key, zero while there is none (R352). -/
def Boot.publicBytes (b : Boot) : List Byte :=
  match b.idkey with
  | some d => pairBytes (publicKey d)
  | none => List.replicate 64 0

/-- The panel's MAC address (R351). -/
def Boot.mac (b : Boot) : BitVec 48 :=
  match b.idkey with
  | some _ => BitVec.ofNat 48 (beNat (0x02 :: (sha256 b.publicBytes).take 5))
  | none => 0x02FFFFFFFFFF

/-- Whether every site reads −10 °C or above (R350). -/
def warm (temps : List Int) : Bool := temps.all fun t => decide (-160 ≤ t)

/-- The lowest temperature. -/
def lowestOf (temps : List Int) : Int := temps.foldl min (temps.head?.getD 0)

/-- POWER_GOOD (R349, R358): stage ROM, every state erased before it; temperatures read, identity and session secret made. -/
def State.powerGood (s : State) (temps : List Int) : State :=
  let s := if s.boot.powered then s else { State.reset with ticks := s.ticks }
  if s.boot.stage = 1 ∧ s.boot.alarm = false then
    ({ s with ticks := s.ticks + 1 }.modBoot fun b =>
      { b with idkey := derivedKey, secret := some (Config.sessionSecret s.ticks) }).sense temps
  else s

def execPowerGood (temps : List Int) (s : State) : Host.Outcome State Fault Refusal := .next (s.powerGood temps)

/-- POWER_OFF (R349, R360): nothing is kept, but the model's counter of free values. -/
def execPowerOff (s : State) : Host.Outcome State Fault Refusal :=
  .next ({ State.reset with ticks := s.ticks }.modBoot fun b => { b with powered := false })

/-- HEAT entered (R349, R350); afterwards the panel goes on from stage `after`. -/
def Boot.heat (b : Boot) (after : Nat) : Boot := { b with stage := 3, heating := true, heaterUsed := true, after := after }

/-- ROM_COMPLETE (R349): LISTEN, or HEAT when a site reads below −10 °C. -/
def State.romComplete (s : State) : State :=
  if s.boot.powered = true ∧ s.boot.stage = 1 then
    s.modBoot fun b => if warm s.temps then { b with stage := 2 } else b.heat 2
  else s

def execRomComplete (s : State) : Host.Outcome State Fault Refusal := .next s.romComplete

/-- Both images are verified (R349). -/
def Boot.bothVerified (b : Boot) : Bool := b.part.verified && b.fw.verified

/-- HEAT_EXIT (R350): every heater stops together. LOAD goes on after a HEAT it led to; an aborted training starts anew from
VERIFIED, and LISTEN, which HEAT runs beside, may have led there. -/
def State.heatExit (s : State) (temps : List Int) : State :=
  if s.boot.heating = true ∧ warm temps = true then
    (s.modBoot fun b => { b with
      heating := false
      stage := if !b.bothVerified then 2 else if b.after = 6 then 6 else 4 }).sense temps
  else s

def execHeatExit (temps : List Int) (s : State) : Host.Outcome State Fault Refusal := .next (s.heatExit temps)

/-- The firmware that runs ends, and with it the bank commands of the steward cores (log 28). -/
def State.endFirmware (s : State) : State :=
  { s with cores := [], stackTbl := s.stackTbl.map fun y => (y.1, { y.2 with seqr := [], parked := [] }) }

/-- A stage that training has begun in is aborted (R350): back to HEAT, or HALTED the third time. -/
def State.abortTraining (s : State) : State :=
  s.endFirmware.modBoot fun b =>
    if 2 ≤ b.aborts then { b with aborts := b.aborts + 1, stage := 0x0F }
    else { b.heat 4 with aborts := b.aborts + 1 }

/-- TRAINING_TEMP_CHECK (R349, R350): LINKS begins after VERIFIED, and DRAM after LOAD, when every site is at −10 °C or above;
below it HEAT is entered, and below −12 °C a training that runs is aborted. -/
def State.tempCheck (s : State) (temps : List Int) : State :=
  let b := s.boot
  if b.powered = false ∨ b.stage < 2 ∨ 8 < b.stage then s
  else
    let t :=
      if b.stage = 5 ∨ b.stage = 7 then (if temps.any fun x => decide (x < -192) then s.abortTraining else s)
      else if warm temps then
        if b.stage = 4 then s.modBoot fun b => { b with stage := 5 }
        else if b.stage = 6 ∧ s.cores.isEmpty = false then s.modBoot fun b => { b with stage := 7 }
        else s
      else if b.stage = 2 ∨ b.stage = 4 ∨ b.stage = 6 then s.modBoot fun b => b.heat b.stage
      else s
    t.sense temps

def execTrainingTempCheck (temps : List Int) (s : State) : Host.Outcome State Fault Refusal := .next (s.tempCheck temps)

/-- LINKS_DONE (R349). -/
def execLinksDone (s : State) : Host.Outcome State Fault Refusal :=
  .next (if s.boot.stage = 5 then s.modBoot fun b => { b with stage := 6 } else s)

/-- Where LOAD places the firmware of die d: word-aligned in the lower half of stack d (R356; log 29), clear of every other
die's and of the management page. -/
def firmwareAt (d : Nat) : Nat := d * 2 ^ 35 + (Config.firmwareBase d).toNat % (2 ^ 34 - 2 ^ 24) / 4 * 4

/-- The body of an image (R354). -/
def Image.body (x : Image) : List Byte := memReads x.bytes 0x340 (x.total - 0x340)

/-- LOAD_DONE (R349, R356): firmware is copied and starts at machine level on every steward core; DRAM follows when every site
is at −10 °C or above, and HEAT otherwise. -/
def State.loadDone (s : State) : State :=
  if s.boot.stage ≠ 6 ∨ ¬ s.cores.isEmpty then s
  else
    let body := whole s.boot.fw.body
    let s := (List.range 128).foldl (fun s d => s.setLocBytes (firmwareAt d) body) s
    { s with cores := (List.range 128).map fun d =>
        { Core.start (.steward d) none .machine (BitVec.ofNat 64 (firmwareAt d)) 0 0 with code := s.codeView } }.modBoot fun b =>
      if warm s.temps then { b with stage := 7 } else b.heat 6

def execLoadDone (s : State) : Host.Outcome State Fault Refusal := .next s.loadDone

/-- DRAM_TRAIN_DONE (R349). -/
def execDramTrainDone (s : State) : Host.Outcome State Fault Refusal :=
  .next (if s.boot.stage = 7 then s.modBoot fun b => { b with stage := 8 } else s)

/-- Bytes of a section as a table. -/
def byteTable (bs : List Byte) : Tbl Nat := bs.zipIdx.map fun y => (y.2, y.1.toNat)

/-- The sections of the part-data body (R357). -/
def partOf (body : List Byte) : PartData where
  serial := body.take 16
  grade := bytesNat ((body.drop 16).take 4)
  cellmap := byteTable ((body.drop 20).take 8192)
  ldie := byteTable ((body.drop 8212).take 128)
  vf := (body.drop 8340).take 4096
  guard := (body.drop 12436).take 512
  lanes := (body.drop 12948).take 4096
  banks := (body.drop 17044).take 8192
  idkey := (body.drop 25236).take 64

/-- The V–F point of a die at 1,400 MHz (R357, R399). -/
def PartData.vfPoint (x : PartData) (d : Nat) : Nat :=
  ((List.range 8).find? fun i => decide (half x.vf (32 * d + 4 * i) = 1400)).getD 0

/-- Memory region 0 over the management page (R384, R398). -/
def mgmtRegion : Quad :=
  ⟨BitVec.ofNat 64 (0xF * 2 ^ 60 + Config.mgmtTag.toNat * 2 ^ 8), Config.mgmtVbase &&& BitVec.ofNat 64 (2 ^ 52 - 2 ^ 16),
    BitVec.ofNat 64 mgmtPage, BitVec.ofNat 64 (2 ^ 16)⟩

/-- A die as MAP leaves it: at its V–F point, no resident entry, and what counts from release on at 0 (R349, R399). -/
def Die.mapped (y : Die) (vf : Nat) : Die := { y with rt := [], vfsel := BitVec.ofNat 3 vf, denergy := 0, stretch := 0 }

/-- MAP_DONE (R349, R357, R398): the part data applied, resident tables emptied, hart slots free, cr.time 0, and the management
page with its region. -/
def State.mapDone (s : State) : State :=
  if s.boot.stage ≠ 8 then s
  else
    let x := partOf s.boot.part.body
    let s := { s with
      part := x
      time := 0
      ceTotal := 0
      ueTotal := 0
      cores := s.cores.filter Core.isSteward
      regions := tblSet 0 mgmtRegion s.regions }
    let s := (List.range 128).foldl (fun s d => s.modDie d fun y => y.mapped (x.vfPoint d)) s
    (s.setLocBytes mgmtPage (whole (List.replicate 65536 0))).modBoot fun b =>
      { b with stage := 9, trainTemps := s.temps }

def execMapDone (s : State) : Host.Outcome State Fault Refusal := .next s.mapDone

/-- A reply to a boot frame (R351, R352). -/
def State.bootReply (s : State) (f : BootFrame) (op : BitVec 8) (status : Nat) (payload : List Byte) : State :=
  s.reply (.boot ⟨s.boot.mac, f.src, op, 0, f.seq, if f.op = 0x03 then f.offset else 0, BitVec.ofNat 16 payload.length,
    BitVec.ofNat 16 status, payload⟩)

/-- The answer to a request by its own op with bit 7 set (R352). -/
def State.answer (s : State) (f : BootFrame) (status : Nat) (payload : List Byte) : State :=
  s.bootReply f (f.op ||| 0x80) status payload

/-- A frame that breaks the rules of the header (R351): flags, reserved fields, length. -/
def frameMalformed (f : BootFrame) : Bool :=
  decide (f.flags ≠ 0) || decide (f.status ≠ 0) || (decide (f.op ≠ 0x03) && decide (f.offset ≠ 0))
    || decide (1024 < f.length.toNat) || decide (f.payload.length < f.length.toNat)

/-- The payload a frame carries, without its padding. -/
def frameData (f : BootFrame) : List Byte := f.payload.take f.length.toNat

/-- A request handled by `f` when it reaches the panel at all (R351, R352, R360): `always` for HELLO and STATUS, `late` for
what machine firmware answers after release. A panel halted by the alarm answers all else with status 8. -/
def State.bootRequest (s : State) (op : BitVec 8) (always late : Bool) (f : BootFrame) (g : State → State) : State :=
  if f.op ≠ op ∨ s.boot.powered = false ∨ s.boot.stage < 2 ∨ (f.dst ≠ s.boot.mac ∧ f.dst ≠ 0xFFFFFFFFFFFF) then s
  else if frameMalformed f then s.bootReply f 0xFF 7 []
  else if s.boot.stage = 0x0F ∧ s.boot.alarm = true ∧ always = false then s.answer f 8 []
  else if s.boot.stage = 9 ∧ late = false then s.answer f 7 []
  else g s

/-- HELLO (R352). -/
def State.hello (s : State) (f : BootFrame) : State :=
  s.bootRequest 0x01 true true f fun s =>
    let b := s.boot
    let late := decide (b.stage = 9)
    s.answer f 0 (natBytes 4 Config.bootRomVersion.toNat ++ natBytes 1 b.stage ++ natBytes 1 b.idkey.isSome.toNat
      ++ natBytes 2 (BitVec.ofInt 16 (lowestOf s.temps)).toNat ++ maskRomHash ++ b.publicBytes
      ++ natBytes 4 (if late then Config.mgmtTag.toNat * 2 ^ 8 else 0)
      ++ natBytes 8 (if late then mgmtRegion.d1.toNat else 0))

def execBootHello (f : BootFrame) (s : State) : Host.Outcome State Fault Refusal := .next (s.hello f)

/-- The image of a kind, and the boot block with it replaced. -/
def Boot.image (b : Boot) (kind : Nat) : Image := if kind = 1 then b.part else b.fw
def Boot.setImage (b : Boot) (kind : Nat) (x : Image) : Boot := if kind = 1 then { b with part := x } else { b with fw := x }

/-- The greatest total of a kind (R354). -/
def imageLimit (kind : Nat) : Nat := 0x340 + (if kind = 1 then 2 ^ 20 else 12 * 2 ^ 20)

/-- BEGIN (R353). New part data also takes back a firmware image verified before it; in a HEAT that LOAD led to, firmware that
runs is discarded with its image. Another kind is answered 11. A firmware image that is open is closed by part data's BEGIN, so that
its END is answered 7, where R353 does not say whether it stays open (log 28). -/
def State.bootBegin (s : State) (f : BootFrame) : State :=
  s.bootRequest 0x02 false false f fun s =>
    let d := (frameData f)
    let kind := bytesNat (d.take 1)
    let total := bytesNat (d.drop 4)
    if d.length ≠ 8 ∨ bytesNat ((d.drop 1).take 3) ≠ 0 then s.answer f 7 []
    else if kind ≠ 1 ∧ kind ≠ 2 then s.answer f 11 []
    else if 4 ≤ s.boot.stage ∨ (kind = 2 ∧ s.boot.part.verified = false) then s.answer f 7 []
    else if imageLimit kind < total then s.answer f 2 []
    else
      let fw := if kind = 1 then { s.boot.fw with verified := false } else s.boot.fw
      (s.endFirmware.modBoot fun b =>
        { { b with fw := fw }.setImage kind ⟨true, total, [], (b.image kind).verdict, false⟩ with opened := kind, after := 2 }).answer f 0 []

def execBootBegin (f : BootFrame) (s : State) : Host.Outcome State Fault Refusal := .next (s.bootBegin f)

/-- DATA (R353). -/
def State.bootData (s : State) (f : BootFrame) : State :=
  s.bootRequest 0x03 false false f fun s =>
    let b := s.boot
    let x := b.image b.opened
    if b.opened = 0 then s.answer f 7 []
    else if x.total < f.offset.toNat + (frameData f).length then s.answer f 2 []
    else (s.modBoot fun b => b.setImage b.opened { x with bytes := memWrites f.offset.toNat (frameData f) x.bytes }).answer f 0 []

def execBootData (f : BootFrame) (s : State) : Host.Outcome State Fault Refusal := .next (s.bootData f)

/-- A field of an image, little-endian. -/
def Image.field (x : Image) (off n : Nat) : Nat := bytesNat (memReads x.bytes off n)

/-- Distinct entries of a die's row of the cell map, 0xFF apart (R357). DESIGN CHOICE: an entry of 68 to 254, which names no cell, is
inconsistent (log 28). -/
def rowOk (x : PartData) (d count : Nat) : Bool :=
  let row := (List.range 64).map fun r => tblGet 255 (64 * d + r) x.cellmap
  let used := row.filter fun p => !decide (p = 255)
  decide (used.length = count) && (row.take count).all (fun p => decide (p < 68)) && decide used.Nodup

/-- The cells a physical die has by its logical die (R124, R357). -/
def PartData.cellsFor (x : PartData) (d : Nat) : Nat :=
  match (List.range 128).find? fun l => decide (tblGet 255 l x.ldie = d) with
  | none => 0
  | some l => if x.grade = 7840 ∧ l = 122 then 32 else 64

/-- The consistency checks of part data (R355 step 5, R357). -/
def PartData.consistent (x : PartData) : Bool :=
  let dies := (List.range 123).map fun l => tblGet 255 l x.ldie
  (if x.grade = 8192 then (List.range 128).all fun l => decide (tblGet 255 l x.ldie = l)
    else decide (x.grade = 7840) && dies.all (fun d => decide (d < 128))
      && (List.range 122).all (fun l => decide (tblGet 255 l x.ldie < tblGet 255 (l + 1) x.ldie))
      && (List.range 5).all fun i => decide (tblGet 255 (123 + i) x.ldie = 255))
    && (List.range 128).all fun d => rowOk x d (x.cellsFor d)

/-- The verdict on an image at END (R355). A body longer than the sections of R357 is accepted; of a shorter one the identity key of the
last section is cut short, so that it is answered 5 (log 28). -/
def Boot.verdict (b : Boot) (kind : Nat) : Nat :=
  let x := b.image kind
  let modulus := memReads x.bytes 0x40 384
  let body := x.body
  if x.field 0 4 ≠ 0x4458494D ∨ x.field 4 2 ≠ kind ∨ x.field 6 2 ≠ 1 ∨ x.field 0x14 4 ≠ 65537 ∨ x.field 0x18 40 ≠ 0
      ∨ 0x340 + x.field 0xC 4 ≠ x.total then 11
  else if sha256 modulus ≠ maskRomHash then 3
  else if !rsaValid modulus (memReads x.bytes 0x1C0 384) (memReads x.bytes 0 0x1C0 ++ body) then 4
  else if kind = 1 then
    if b.idkey.isNone ∨ (partOf body).idkey ≠ b.publicBytes then 5
    else if (partOf body).consistent = false then 9 else 0
  else if x.field 8 4 < b.part.field 0x10 4 then 6 else 0

/-- END (R353, R355): the verdict; an image that fails is discarded, and with both verified the panel is VERIFIED unless it
heats. A kind that is not open is answered 7 (log 28). -/
def State.bootEnd (s : State) (f : BootFrame) : State :=
  s.bootRequest 0x04 false false f fun s =>
    let d := (frameData f)
    let kind := bytesNat (d.take 1)
    if d.length ≠ 4 ∨ bytesNat (d.drop 1) ≠ 0 ∨ s.boot.opened = 0 ∨ kind ≠ s.boot.opened then s.answer f 7 []
    else
      let v := s.boot.verdict kind
      let x := s.boot.image kind
      let y : Image := if v = 0 then { x with opened := false, verdict := 0, verified := true }
        else { Image.none with verdict := BitVec.ofNat 8 v }
      (s.modBoot fun b =>
        let b := { b.setImage kind y with opened := 0 }
        if b.bothVerified && !b.heating then { b with stage := 4 } else b).answer f v []

def execBootEnd (f : BootFrame) (s : State) : Host.Outcome State Fault Refusal := .next (s.bootEnd f)

/-- STATUS (R350, R352): of the heater load of a cold start, or one that a die runs after release (R408). A panel that training halted
answers reason 10, and no longer once the alarm is raised in it, which R350 does not settle (log 28). -/
def State.bootStatus (s : State) (f : BootFrame) : State :=
  s.bootRequest 0x05 true true f fun s =>
    let b := s.boot
    s.answer f (if b.stage = 0x0F ∧ b.alarm = false then 10 else 0)
      (natBytes 1 b.stage ++ [b.part.verdict, b.fw.verdict] ++ natBytes 1 (b.heating || s.dies.any fun y => y.2.heater).toNat ++ natBytes 1 b.aborts
        ++ natBytes 1 b.acause.toNat)

def execBootStatus (f : BootFrame) (s : State) : Host.Outcome State Fault Refusal := .next (s.bootStatus f)

/-- The hash of a whole image, zero while it is not verified (R359). -/
def Image.hash (x : Image) : List Byte := if x.verified then sha256 (memReads x.bytes 0 x.total) else List.replicate 32 0

/-- The part of a report that is signed (R359). -/
def Boot.reportBody (b : Boot) (nonce : List Byte) : List Byte :=
  nonce ++ natBytes 4 Config.bootRomVersion.toNat ++ natBytes 1 b.stage ++ natBytes 1 (b.heaterUsed.toNat + 2 * b.alarm.toNat)
    ++ [0, 0] ++ b.part.hash ++ b.fw.hash

/-- ATTEST (R359). -/
def State.attest (s : State) (f : BootFrame) : State :=
  s.bootRequest 0x06 false true f fun s =>
    if (frameData f).length ≠ 32 then s.answer f 7 []
    else
      match s.boot.alarm, s.boot.idkey, s.boot.secret with
      | false, some d, some z =>
        let body := s.boot.reportBody (frameData f)
        match ecdsaSign d (beBytes 32 z.toNat) body with
        | some sig => s.answer f 0 (body ++ pairBytes sig)
        | none => s.answer f 8 []
      | _, _, _ => s.answer f 8 []

def execBootAttest (f : BootFrame) (s : State) : Host.Outcome State Fault Refusal := .next (s.attest f)

/-- UNKNOWN_OP (R352), answered so after release too (log 28). -/
def State.unknownOp (s : State) (f : BootFrame) : State :=
  if 1 ≤ f.op.toNat ∧ f.op.toNat ≤ 6 then s
  else s.bootRequest f.op false true f fun s => s.bootReply f 0xFF 1 []

def execBootUnknownOp (f : BootFrame) (s : State) : Host.Outcome State Fault Refusal := .next (s.unknownOp f)

/-- A steward core takes a machine interrupt (R360, R361): as a trap to machine level. -/
def Core.machineInterrupt (c : Core) : Core :=
  { c with
    st := { c.st with
      mip := false
      mpp := match c.level with | .user => 0 | .supervisor => 1 | .machine => 2
      mepc := c.pc
      mcause := ⟨Config.interruptCause, false, 0, false, false⟩ }
    level := .machine
    pc := c.st.mvec
    wait := .none }

end Sys2Proof.Machine
end

