-- ==== Sys2Proof/Machine/Control.lean ====
section
/-! DEFINITION. Branches, jumps and LOOP (R106 to R109). -/

namespace Sys2Proof.Machine

/-- A branch or jump offset in words, as bytes (R66). -/
def wordOffset {n : Nat} (o : BitVec n) : Word := BitVec.ofInt 64 (o.toInt * 4)

/-- An instruction that goes on at its target when `p` holds, and at the next instruction otherwise (R106). -/
def State.branch (s : State) (p : Core → Bool) (o : BitVec 16) : Host.Outcome State Fault Refusal :=
  s.run true fun s => .ok (s.upd fun c => if p c then c.retireTo (c.curPc + wordOffset o) else c.retire)

/-- BEQ (R106). -/
def execBeq (a b : BitVec 5) (o : BitVec 16) (s : State) := s.branch (fun c => c.rg a = c.rg b) o

/-- BNE (R106). -/
def execBne (a b : BitVec 5) (o : BitVec 16) (s : State) := s.branch (fun c => c.rg a ≠ c.rg b) o

/-- BLT (R106). -/
def execBlt (a b : BitVec 5) (o : BitVec 16) (s : State) := s.branch (fun c => (c.rg a).slt (c.rg b)) o

/-- BGE (R106). -/
def execBge (a b : BitVec 5) (o : BitVec 16) (s : State) := s.branch (fun c => !(c.rg a).slt (c.rg b)) o

/-- BLTU (R106). -/
def execBltu (a b : BitVec 5) (o : BitVec 16) (s : State) := s.branch (fun c => (c.rg a).ult (c.rg b)) o

/-- BGEU (R106). -/
def execBgeu (a b : BitVec 5) (o : BitVec 16) (s : State) := s.branch (fun c => !(c.rg a).ult (c.rg b)) o

/-- The mask bits a branch examines (R107): those of the elements below VL, or in split mode the lane's predicate,
bit 32·j. -/
def Core.examined (c : Core) (m : BitVec 6) : List Bool :=
  if c.split.on then [(c.mreg m.toNat).getLsbD (32 * c.split.lane)]
  else (List.range c.vln).map fun e => (c.mreg m.toNat).getLsbD (e * c.sigma)

/-- A branch on a mask register: VTYPE while ill outside split mode; it reads the mask (R107, R116). -/
def State.maskBranch (s : State) (m : BitVec 6) (o : BitVec 16) (p : List Bool → Bool) :
    Host.Outcome State Fault Refusal :=
  s.run true fun s => do
    let c := s.me
    if !c.split.on && c.ill then s.vtypeTrap
    else
      let s ← s.touch [(regM m.toNat, c.predBits)] []
      .ok (s.upd fun c => if p (c.examined m) then c.retireTo (c.curPc + wordOffset o) else c.retire)

/-- BANY (R107). -/
def execBany (m : BitVec 6) (o : BitVec 16) (s : State) := s.maskBranch m o fun xs => xs.any id

/-- BALL (R107). -/
def execBall (m : BitVec 6) (o : BitVec 16) (s : State) := s.maskBranch m o fun xs => xs.all id

/-- LOOP (R109): counts gs[31:0] down, bits [63:32] cleared, and branches while it was not zero. -/
def execLoop (r : BitVec 5) (o : BitVec 16) (s : State) : Host.Outcome State Fault Refusal :=
  s.run true fun s => .ok (s.upd fun c =>
    let t := (c.rg r).toNat % 2 ^ 32
    if t = 0 then (c.wg r 0).retire
    else (c.wg r (BitVec.ofNat 64 (t - 1))).retireTo (c.curPc + wordOffset o))

/-- JAL (R108). -/
def execJal (d : BitVec 5) (o : BitVec 21) (s : State) : Host.Outcome State Fault Refusal :=
  s.run true fun s => .ok (s.upd fun c => (c.wg d (c.curPc + 4)).retireTo (c.curPc + wordOffset o))

/-- JALR (R108): a target that is not a multiple of 4 traps ALIGN with that address, and gd is not written. -/
def execJalr (d a : BitVec 5) (i : BitVec 16) (s : State) : Host.Outcome State Fault Refusal :=
  s.run true fun s =>
    let t := s.me.rg a + i.signExtend 64
    if t &&& 3 = 0 then .ok (s.upd fun c => (c.wg d (c.curPc + 4)).retireTo t)
    else s.precise (causeAt .align t)

end Sys2Proof.Machine
end

