-- ==== Sys2Proof/Machine/Vector.lean ====
section
/-! DEFINITION. Integer, floating-point, conversion and compare vector instructions (R144 to R153). -/

namespace Sys2Proof.Machine

/-- Integer formats of at most 32 bits (R129). -/
def isInt32 (f : BitVec 4) : Bool := !isFloat f && decide (fmtWidth f ≤ 32)

/-- Integer formats of at least 4 bits (R129). -/
def isInt4 (f : BitVec 4) : Bool := !isFloat f && decide (4 ≤ fmtWidth f)

/-- Integer formats (R129). -/
def isInteger (f : BitVec 4) : Bool := !isFloat f

/-- Every format (R129). -/
def anyFormat (_ : BitVec 4) : Bool := true

/-- A two-operand integer instruction whose destination has the width of its sources: `op` takes the format, a, b and
the destination's old element; `acc` says that it reads the destination (R127, R144). -/
def State.vInt (s : State) (weight : Nat) (ok : BitVec 4 → Bool) (acc : Bool) (op : BitVec 4 → Nat → Nat → Nat → Nat)
    (d a : BitVec 6) (x : Second) (m : BitVec 4) (inv : Bool) : Host.Outcome State Fault Refusal :=
  s.vector weight
    (fun c => ok c.fmt && fits d.toNat c.grp c.rcn && fits a.toNat c.grp c.rcn && x.fits c.grp c.rcn)
    (fun c => c.actRegs m inv a.toNat c.grp c.w ++ c.secondRegs m inv x ++ if acc then c.actRegs m inv d.toNat c.grp c.w else [])
    (fun c => c.actRegs m inv d.toNat c.grp c.w) m inv
    (fun c => c.writeElems d.toNat c.grp c.w (c.active m inv) fun i e =>
      (op c.fmt (c.elem a.toNat c.grp c.w i e) (c.second x i e) (c.elem d.toNat c.grp c.w i e), 0))

/-- A result kept in w bits. -/
def wrap (f : BitVec 4) (x : Int) : Nat := toField x (fmtWidth f)

/-- The operations of R144 on w-bit patterns. -/
def opAdd (f : BitVec 4) (a b _ : Nat) : Nat := wrap f (a + b : Nat)
def opSub (f : BitVec 4) (a b _ : Nat) : Nat := wrap f ((a : Int) - b)
def opMul (f : BitVec 4) (a b _ : Nat) : Nat := wrap f (a * b : Nat)
def opMulh (f : BitVec 4) (a b _ : Nat) : Nat := wrap f (intOf f a * intOf f b / 2 ^ fmtWidth f)
def opMac (f : BitVec 4) (a b old : Nat) : Nat := wrap f (old + a * b : Nat)
def opMin (f : BitVec 4) (a b _ : Nat) : Nat := if intOf f b < intOf f a then b else a
def opMax (f : BitVec 4) (a b _ : Nat) : Nat := if intOf f a < intOf f b then b else a
def opAbsd (f : BitVec 4) (a b _ : Nat) : Nat := (intOf f a - intOf f b).natAbs
def opAnd (_ : BitVec 4) (a b _ : Nat) : Nat := a &&& b
def opOr (_ : BitVec 4) (a b _ : Nat) : Nat := a ||| b
def opXor (_ : BitVec 4) (a b _ : Nat) : Nat := a ^^^ b
def opSll (f : BitVec 4) (a b _ : Nat) : Nat := wrap f (a * 2 ^ (b % fmtWidth f) : Nat)
def opSrl (f : BitVec 4) (a b _ : Nat) : Nat := a / 2 ^ (b % fmtWidth f)
def opSra (f : BitVec 4) (a b _ : Nat) : Nat := wrap f (intOf f a / 2 ^ (b % fmtWidth f))
def opSadd (f : BitVec 4) (a b _ : Nat) : Nat := wrap f (sat (intOf f a + intOf f b) (leastOf f) (greatestOf f))
def opSsub (f : BitVec 4) (a b _ : Nat) : Nat := wrap f (sat (intOf f a - intOf f b) (leastOf f) (greatestOf f))

/-- VBEXT: digit b mod (w/4) of a (R153). -/
def opBext (f : BitVec 4) (a b _ : Nat) : Nat := a / 2 ^ (4 * (b % (fmtWidth f / 4))) % 16

/-- VADD, vv (R144). -/
def execVaddVv (d a b : BitVec 6) (m : BitVec 4) (_ _ : BitVec 1) (s : State) :=
  s.vInt 1 isInteger false opAdd d a (.vv b) m false

/-- VADD, vs (R144). -/
def execVaddVs (d a : BitVec 6) (r : BitVec 5) (m : BitVec 4) (_ n : BitVec 1) (s : State) :=
  s.vInt 1 isInteger false opAdd d a (.vs r) m (n = 1)

/-- VADD, vi (R144). -/
def execVaddVi (d a k : BitVec 6) (m : BitVec 4) (_ n : BitVec 1) (s : State) :=
  s.vInt 1 isInteger false opAdd d a (.vi k) m (n = 1)

/-- VSUB, vv (R144). -/
def execVsubVv (d a b : BitVec 6) (m : BitVec 4) (_ _ : BitVec 1) (s : State) :=
  s.vInt 1 isInteger false opSub d a (.vv b) m false

/-- VSUB, vs (R144). -/
def execVsubVs (d a : BitVec 6) (r : BitVec 5) (m : BitVec 4) (_ n : BitVec 1) (s : State) :=
  s.vInt 1 isInteger false opSub d a (.vs r) m (n = 1)

/-- VSUB, vi (R144). -/
def execVsubVi (d a k : BitVec 6) (m : BitVec 4) (_ n : BitVec 1) (s : State) :=
  s.vInt 1 isInteger false opSub d a (.vi k) m (n = 1)

/-- VMUL, vv (R144). -/
def execVmulVv (d a b : BitVec 6) (m : BitVec 4) (_ _ : BitVec 1) (s : State) :=
  s.vInt 1 isInteger false opMul d a (.vv b) m false

/-- VMUL, vs (R144). -/
def execVmulVs (d a : BitVec 6) (r : BitVec 5) (m : BitVec 4) (_ n : BitVec 1) (s : State) :=
  s.vInt 1 isInteger false opMul d a (.vs r) m (n = 1)

/-- VMUL, vi (R144). -/
def execVmulVi (d a k : BitVec 6) (m : BitVec 4) (_ n : BitVec 1) (s : State) :=
  s.vInt 1 isInteger false opMul d a (.vi k) m (n = 1)

/-- VMULH, vv (R144). -/
def execVmulhVv (d a b : BitVec 6) (m : BitVec 4) (_ _ : BitVec 1) (s : State) :=
  s.vInt 1 isInteger false opMulh d a (.vv b) m false

/-- VMULH, vs (R144). -/
def execVmulhVs (d a : BitVec 6) (r : BitVec 5) (m : BitVec 4) (_ n : BitVec 1) (s : State) :=
  s.vInt 1 isInteger false opMulh d a (.vs r) m (n = 1)

/-- VMULH, vi (R144). -/
def execVmulhVi (d a k : BitVec 6) (m : BitVec 4) (_ n : BitVec 1) (s : State) :=
  s.vInt 1 isInteger false opMulh d a (.vi k) m (n = 1)

/-- VMAC, vv (R144). -/
def execVmacVv (d a b : BitVec 6) (m : BitVec 4) (_ _ : BitVec 1) (s : State) :=
  s.vInt 3 isInteger true opMac d a (.vv b) m false

/-- VMAC, vs (R144). -/
def execVmacVs (d a : BitVec 6) (r : BitVec 5) (m : BitVec 4) (_ n : BitVec 1) (s : State) :=
  s.vInt 3 isInteger true opMac d a (.vs r) m (n = 1)

/-- VMAC, vi (R144). -/
def execVmacVi (d a k : BitVec 6) (m : BitVec 4) (_ n : BitVec 1) (s : State) :=
  s.vInt 3 isInteger true opMac d a (.vi k) m (n = 1)

/-- VMIN, vv (R144). -/
def execVminVv (d a b : BitVec 6) (m : BitVec 4) (_ _ : BitVec 1) (s : State) :=
  s.vInt 1 isInteger false opMin d a (.vv b) m false

/-- VMIN, vs (R144). -/
def execVminVs (d a : BitVec 6) (r : BitVec 5) (m : BitVec 4) (_ n : BitVec 1) (s : State) :=
  s.vInt 1 isInteger false opMin d a (.vs r) m (n = 1)

/-- VMIN, vi (R144). -/
def execVminVi (d a k : BitVec 6) (m : BitVec 4) (_ n : BitVec 1) (s : State) :=
  s.vInt 1 isInteger false opMin d a (.vi k) m (n = 1)

/-- VMAX, vv (R144). -/
def execVmaxVv (d a b : BitVec 6) (m : BitVec 4) (_ _ : BitVec 1) (s : State) :=
  s.vInt 1 isInteger false opMax d a (.vv b) m false

/-- VMAX, vs (R144). -/
def execVmaxVs (d a : BitVec 6) (r : BitVec 5) (m : BitVec 4) (_ n : BitVec 1) (s : State) :=
  s.vInt 1 isInteger false opMax d a (.vs r) m (n = 1)

/-- VMAX, vi (R144). -/
def execVmaxVi (d a k : BitVec 6) (m : BitVec 4) (_ n : BitVec 1) (s : State) :=
  s.vInt 1 isInteger false opMax d a (.vi k) m (n = 1)

/-- VABSD, vv (R144). -/
def execVabsdVv (d a b : BitVec 6) (m : BitVec 4) (_ _ : BitVec 1) (s : State) :=
  s.vInt 1 isInteger false opAbsd d a (.vv b) m false

/-- VABSD, vs (R144). -/
def execVabsdVs (d a : BitVec 6) (r : BitVec 5) (m : BitVec 4) (_ n : BitVec 1) (s : State) :=
  s.vInt 1 isInteger false opAbsd d a (.vs r) m (n = 1)

/-- VABSD, vi (R144). -/
def execVabsdVi (d a k : BitVec 6) (m : BitVec 4) (_ n : BitVec 1) (s : State) :=
  s.vInt 1 isInteger false opAbsd d a (.vi k) m (n = 1)

/-- VAND, vv (R144). -/
def execVandVv (d a b : BitVec 6) (m : BitVec 4) (_ _ : BitVec 1) (s : State) :=
  s.vInt 1 anyFormat false opAnd d a (.vv b) m false

/-- VAND, vs (R144). -/
def execVandVs (d a : BitVec 6) (r : BitVec 5) (m : BitVec 4) (_ n : BitVec 1) (s : State) :=
  s.vInt 1 anyFormat false opAnd d a (.vs r) m (n = 1)

/-- VAND, vi (R144). -/
def execVandVi (d a k : BitVec 6) (m : BitVec 4) (_ n : BitVec 1) (s : State) :=
  s.vInt 1 anyFormat false opAnd d a (.vi k) m (n = 1)

/-- VOR, vv (R144). -/
def execVorVv (d a b : BitVec 6) (m : BitVec 4) (_ _ : BitVec 1) (s : State) :=
  s.vInt 1 anyFormat false opOr d a (.vv b) m false

/-- VOR, vs (R144). -/
def execVorVs (d a : BitVec 6) (r : BitVec 5) (m : BitVec 4) (_ n : BitVec 1) (s : State) :=
  s.vInt 1 anyFormat false opOr d a (.vs r) m (n = 1)

/-- VOR, vi (R144). -/
def execVorVi (d a k : BitVec 6) (m : BitVec 4) (_ n : BitVec 1) (s : State) :=
  s.vInt 1 anyFormat false opOr d a (.vi k) m (n = 1)

/-- VXOR, vv (R144). -/
def execVxorVv (d a b : BitVec 6) (m : BitVec 4) (_ _ : BitVec 1) (s : State) :=
  s.vInt 1 anyFormat false opXor d a (.vv b) m false

/-- VXOR, vs (R144). -/
def execVxorVs (d a : BitVec 6) (r : BitVec 5) (m : BitVec 4) (_ n : BitVec 1) (s : State) :=
  s.vInt 1 anyFormat false opXor d a (.vs r) m (n = 1)

/-- VXOR, vi (R144). -/
def execVxorVi (d a k : BitVec 6) (m : BitVec 4) (_ n : BitVec 1) (s : State) :=
  s.vInt 1 anyFormat false opXor d a (.vi k) m (n = 1)

/-- VSLL, vv (R144). -/
def execVsllVv (d a b : BitVec 6) (m : BitVec 4) (_ _ : BitVec 1) (s : State) :=
  s.vInt 1 isInteger false opSll d a (.vv b) m false

/-- VSLL, vs (R144). -/
def execVsllVs (d a : BitVec 6) (r : BitVec 5) (m : BitVec 4) (_ n : BitVec 1) (s : State) :=
  s.vInt 1 isInteger false opSll d a (.vs r) m (n = 1)

/-- VSLL, vi (R144). -/
def execVsllVi (d a k : BitVec 6) (m : BitVec 4) (_ n : BitVec 1) (s : State) :=
  s.vInt 1 isInteger false opSll d a (.vi k) m (n = 1)

/-- VSRL, vv (R144). -/
def execVsrlVv (d a b : BitVec 6) (m : BitVec 4) (_ _ : BitVec 1) (s : State) :=
  s.vInt 1 isInteger false opSrl d a (.vv b) m false

/-- VSRL, vs (R144). -/
def execVsrlVs (d a : BitVec 6) (r : BitVec 5) (m : BitVec 4) (_ n : BitVec 1) (s : State) :=
  s.vInt 1 isInteger false opSrl d a (.vs r) m (n = 1)

/-- VSRL, vi (R144). -/
def execVsrlVi (d a k : BitVec 6) (m : BitVec 4) (_ n : BitVec 1) (s : State) :=
  s.vInt 1 isInteger false opSrl d a (.vi k) m (n = 1)

/-- VSRA, vv (R144). -/
def execVsraVv (d a b : BitVec 6) (m : BitVec 4) (_ _ : BitVec 1) (s : State) :=
  s.vInt 1 isInteger false opSra d a (.vv b) m false

/-- VSRA, vs (R144). -/
def execVsraVs (d a : BitVec 6) (r : BitVec 5) (m : BitVec 4) (_ n : BitVec 1) (s : State) :=
  s.vInt 1 isInteger false opSra d a (.vs r) m (n = 1)

/-- VSRA, vi (R144). -/
def execVsraVi (d a k : BitVec 6) (m : BitVec 4) (_ n : BitVec 1) (s : State) :=
  s.vInt 1 isInteger false opSra d a (.vi k) m (n = 1)

/-- VSADD, vv (R144). -/
def execVsaddVv (d a b : BitVec 6) (m : BitVec 4) (_ _ : BitVec 1) (s : State) :=
  s.vInt 1 isInteger false opSadd d a (.vv b) m false

/-- VSADD, vs (R144). -/
def execVsaddVs (d a : BitVec 6) (r : BitVec 5) (m : BitVec 4) (_ n : BitVec 1) (s : State) :=
  s.vInt 1 isInteger false opSadd d a (.vs r) m (n = 1)

/-- VSADD, vi (R144). -/
def execVsaddVi (d a k : BitVec 6) (m : BitVec 4) (_ n : BitVec 1) (s : State) :=
  s.vInt 1 isInteger false opSadd d a (.vi k) m (n = 1)

/-- VSSUB, vv (R144). -/
def execVssubVv (d a b : BitVec 6) (m : BitVec 4) (_ _ : BitVec 1) (s : State) :=
  s.vInt 1 isInteger false opSsub d a (.vv b) m false

/-- VSSUB, vs (R144). -/
def execVssubVs (d a : BitVec 6) (r : BitVec 5) (m : BitVec 4) (_ n : BitVec 1) (s : State) :=
  s.vInt 1 isInteger false opSsub d a (.vs r) m (n = 1)

/-- VSSUB, vi (R144). -/
def execVssubVi (d a k : BitVec 6) (m : BitVec 4) (_ n : BitVec 1) (s : State) :=
  s.vInt 1 isInteger false opSsub d a (.vi k) m (n = 1)

/-- VBEXT, vv (R153). -/
def execVbextVv (d a b : BitVec 6) (m : BitVec 4) (_ _ : BitVec 1) (s : State) :=
  s.vInt 1 isInt4 false opBext d a (.vv b) m false

/-- VBEXT, vs (R153). -/
def execVbextVs (d a : BitVec 6) (r : BitVec 5) (m : BitVec 4) (_ n : BitVec 1) (s : State) :=
  s.vInt 1 isInt4 false opBext d a (.vs r) m (n = 1)

/-- VBEXT, vi (R153). -/
def execVbextVi (d a k : BitVec 6) (m : BitVec 4) (_ n : BitVec 1) (s : State) :=
  s.vInt 1 isInt4 false opBext d a (.vi k) m (n = 1)

/-- VWADD and VWMUL (R145): the destination has elements of 2w bits and grouping 2G. -/
def State.vWide (s : State) (op : Int → Int → Int) (d a : BitVec 6) (x : Second) (m : BitVec 4) (inv : Bool) :
    Host.Outcome State Fault Refusal :=
  s.vector 3
    (fun c => isInt32 c.fmt && fits d.toNat (2 * c.grp) c.rcn && fits a.toNat c.grp c.rcn && x.fits c.grp c.rcn)
    (fun c => c.actRegs m inv a.toNat c.grp c.w ++ c.secondRegs m inv x)
    (fun c => c.actRegs m inv d.toNat (2 * c.grp) (2 * c.w)) m inv
    (fun c => c.writeElems d.toNat (2 * c.grp) (2 * c.w) (c.active m inv) fun i e =>
      (toField (op (intOf c.fmt (c.elem a.toNat c.grp c.w i e)) (intOf c.fmt (c.second x i e))) (2 * c.w), 0))

/-- VWADD, vv (R145). -/
def execVwaddVv (d a b : BitVec 6) (m : BitVec 4) (_ _ : BitVec 1) (s : State) :=
  s.vWide (fun a b => a + b) d a (.vv b) m false

/-- VWADD, vs (R145). -/
def execVwaddVs (d a : BitVec 6) (r : BitVec 5) (m : BitVec 4) (_ n : BitVec 1) (s : State) :=
  s.vWide (fun a b => a + b) d a (.vs r) m (n = 1)

/-- VWADD, vi (R145). -/
def execVwaddVi (d a k : BitVec 6) (m : BitVec 4) (_ n : BitVec 1) (s : State) :=
  s.vWide (fun a b => a + b) d a (.vi k) m (n = 1)

/-- VWMUL, vv (R145). -/
def execVwmulVv (d a b : BitVec 6) (m : BitVec 4) (_ _ : BitVec 1) (s : State) :=
  s.vWide (fun a b => a * b) d a (.vv b) m false

/-- VWMUL, vs (R145). -/
def execVwmulVs (d a : BitVec 6) (r : BitVec 5) (m : BitVec 4) (_ n : BitVec 1) (s : State) :=
  s.vWide (fun a b => a * b) d a (.vs r) m (n = 1)

/-- VWMUL, vi (R145). -/
def execVwmulVi (d a k : BitVec 6) (m : BitVec 4) (_ n : BitVec 1) (s : State) :=
  s.vWide (fun a b => a * b) d a (.vi k) m (n = 1)

/-- The rounding, saturating shift of VNSR (R145): a is the 2w-bit source, of the format's signedness. -/
def nsr (f : BitVec 4) (a b : Nat) : Nat :=
  let w := fmtWidth f
  let x : Int := if isSigned f then sext a (2 * w) else zext a (2 * w)
  let k := b % (2 * w)
  let h : Int := if k = 0 then 0 else 2 ^ (k - 1)
  wrap f (sat ((x + h) / 2 ^ k) (leastOf f) (greatestOf f))

/-- VNSR (R145): the first source has elements of 2w bits and grouping 2G. -/
def State.vNarrow (s : State) (d a : BitVec 6) (x : Second) (m : BitVec 4) (inv : Bool) :
    Host.Outcome State Fault Refusal :=
  s.vector 3
    (fun c => isInt32 c.fmt && fits d.toNat c.grp c.rcn && fits a.toNat (2 * c.grp) c.rcn && x.fits c.grp c.rcn)
    (fun c => c.actRegs m inv a.toNat (2 * c.grp) (2 * c.w) ++ c.secondRegs m inv x)
    (fun c => c.actRegs m inv d.toNat c.grp c.w) m inv
    (fun c => c.writeElems d.toNat c.grp c.w (c.active m inv) fun i e =>
      (nsr c.fmt (c.elem a.toNat (2 * c.grp) (2 * c.w) i e) (c.second x i e), 0))

/-- VNSR, vv (R145). -/
def execVnsrVv (d a b : BitVec 6) (m : BitVec 4) (_ _ : BitVec 1) (s : State) :=
  s.vNarrow d a (.vv b) m false

/-- VNSR, vs (R145). -/
def execVnsrVs (d a : BitVec 6) (r : BitVec 5) (m : BitVec 4) (_ n : BitVec 1) (s : State) :=
  s.vNarrow d a (.vs r) m (n = 1)

/-- VNSR, vi (R145). -/
def execVnsrVi (d a k : BitVec 6) (m : BitVec 4) (_ n : BitVec 1) (s : State) :=
  s.vNarrow d a (.vi k) m (n = 1)

/-- A compare that writes mask registers (R146, R148): the condition and its flags for each active element. -/
def State.vCompare (s : State) (weight : Nat) (ok : BitVec 4 → Bool) (p : BitVec 4 → Nat → Nat → Bool × Flags)
    (d a : BitVec 6) (x : Second) (m : BitVec 4) (inv : Bool) : Host.Outcome State Fault Refusal :=
  s.vector weight
    (fun c => ok c.fmt && fitsMask d.toNat c.rcn && fits a.toNat c.grp c.rcn && x.fits c.grp c.rcn)
    (fun c => c.actRegs m inv a.toNat c.grp c.w ++ c.secondRegs m inv x)
    (fun c => c.maskActRegs m inv d.toNat) m inv
    (fun c =>
      let value (i e : Nat) := p c.fmt (c.elem a.toNat c.grp c.w i e) (c.second x i e)
      (c.active m inv).foldl (fun k y => k.raise (value y.1 y.2).2)
        (c.writeMasks d.toNat fun i e => if c.gateOn m inv i e then some (value i e).1 else none))

/-- The conditions of VCMP (R146): eq, ne, lt, le by the variant. -/
def intCondition (q : BitVec 2) (f : BitVec 4) (a b : Nat) : Bool × Flags :=
  let x := intOf f a
  let y := intOf f b
  (match q.toNat with
    | 0 => decide (x = y)
    | 1 => decide (x ≠ y)
    | 2 => decide (x < y)
    | _ => decide (x ≤ y), 0)

/-- VCMP, vv (R146). -/
def execVcmpVv (d a b : BitVec 6) (m : BitVec 4) (_ _ : BitVec 1) (q : BitVec 2) (s : State) :=
  s.vCompare 1 isInteger (intCondition q) d a (.vv b) m false

/-- VCMP, vs (R146). -/
def execVcmpVs (d a : BitVec 6) (r : BitVec 5) (m : BitVec 4) (_ n : BitVec 1) (q : BitVec 2) (s : State) :=
  s.vCompare 1 isInteger (intCondition q) d a (.vs r) m (n = 1)

/-- VCMP, vi (R146). -/
def execVcmpVi (d a k : BitVec 6) (m : BitVec 4) (_ n : BitVec 1) (q : BitVec 2) (s : State) :=
  s.vCompare 1 isInteger (intCondition q) d a (.vi k) m (n = 1)

/-- VFCMP, vv (R148). -/
def execVfcmpVv (d a b : BitVec 6) (m : BitVec 4) (_ _ : BitVec 1) (q : BitVec 2) (s : State) :=
  s.vCompare 2 isFloat (fun f a b => fcmpRule q (valOf f a) (valOf f b)) d a (.vv b) m false

/-- VFCMP, vs (R148). -/
def execVfcmpVs (d a : BitVec 6) (r : BitVec 5) (m : BitVec 4) (_ n : BitVec 1) (q : BitVec 2) (s : State) :=
  s.vCompare 2 isFloat (fun f a b => fcmpRule q (valOf f a) (valOf f b)) d a (.vs r) m (n = 1)

/-- A two-operand floating-point instruction (R147): `op` takes the format, the mode, a, b and the destination's old
element. -/
def State.vFloat (s : State) (weight : Nat) (acc : Bool) (op : BitVec 4 → Rmode → Val → Val → Val → Nat × Flags)
    (d a : BitVec 6) (x : Second) (m : BitVec 4) (inv : Bool) : Host.Outcome State Fault Refusal :=
  s.vector weight
    (fun c => isFloat c.fmt && fits d.toNat c.grp c.rcn && fits a.toNat c.grp c.rcn && x.fits c.grp c.rcn)
    (fun c => c.actRegs m inv a.toNat c.grp c.w ++ c.secondRegs m inv x ++ if acc then c.actRegs m inv d.toNat c.grp c.w else [])
    (fun c => c.actRegs m inv d.toNat c.grp c.w) m inv
    (fun c => c.writeElems d.toNat c.grp c.w (c.active m inv) fun i e =>
      op c.fmt (modeOfFrm c.frm) (valOf c.fmt (c.elem a.toNat c.grp c.w i e)) (valOf c.fmt (c.second x i e))
        (valOf c.fmt (c.elem d.toNat c.grp c.w i e)))

/-- The operations of R147. -/
def opFadd (f : BitVec 4) (mode : Rmode) (a b _ : Val) : Nat × Flags := sumRule f mode [.of a, .of b]
def opFsub (f : BitVec 4) (mode : Rmode) (a b _ : Val) : Nat × Flags := sumRule f mode [.of a, .of b.negate]
def opFmul (f : BitVec 4) (mode : Rmode) (a b _ : Val) : Nat × Flags := mulRule f mode a b
def opFma (f : BitVec 4) (mode : Rmode) (a b old : Val) : Nat × Flags := sumRule f mode [product [a, b], .of old]
def opFdiv (f : BitVec 4) (mode : Rmode) (a b _ : Val) : Nat × Flags := divRule f mode a b
def opFmin (f : BitVec 4) (_ : Rmode) (a b _ : Val) : Nat × Flags := minRule f a b
def opFmax (f : BitVec 4) (_ : Rmode) (a b _ : Val) : Nat × Flags := maxRule f a b

/-- VFADD, vv (R147). -/
def execVfaddVv (d a b : BitVec 6) (m : BitVec 4) (_ _ : BitVec 1) (s : State) :=
  s.vFloat 2 false opFadd d a (.vv b) m false

/-- VFADD, vs (R147). -/
def execVfaddVs (d a : BitVec 6) (r : BitVec 5) (m : BitVec 4) (_ n : BitVec 1) (s : State) :=
  s.vFloat 2 false opFadd d a (.vs r) m (n = 1)

/-- VFSUB, vv (R147). -/
def execVfsubVv (d a b : BitVec 6) (m : BitVec 4) (_ _ : BitVec 1) (s : State) :=
  s.vFloat 2 false opFsub d a (.vv b) m false

/-- VFSUB, vs (R147). -/
def execVfsubVs (d a : BitVec 6) (r : BitVec 5) (m : BitVec 4) (_ n : BitVec 1) (s : State) :=
  s.vFloat 2 false opFsub d a (.vs r) m (n = 1)

/-- VFMUL, vv (R147). -/
def execVfmulVv (d a b : BitVec 6) (m : BitVec 4) (_ _ : BitVec 1) (s : State) :=
  s.vFloat 2 false opFmul d a (.vv b) m false

/-- VFMUL, vs (R147). -/
def execVfmulVs (d a : BitVec 6) (r : BitVec 5) (m : BitVec 4) (_ n : BitVec 1) (s : State) :=
  s.vFloat 2 false opFmul d a (.vs r) m (n = 1)

/-- VFMA, vv (R147). -/
def execVfmaVv (d a b : BitVec 6) (m : BitVec 4) (_ _ : BitVec 1) (s : State) :=
  s.vFloat 3 true opFma d a (.vv b) m false

/-- VFMA, vs (R147). -/
def execVfmaVs (d a : BitVec 6) (r : BitVec 5) (m : BitVec 4) (_ n : BitVec 1) (s : State) :=
  s.vFloat 3 true opFma d a (.vs r) m (n = 1)

/-- VFDIV, vv (R147). -/
def execVfdivVv (d a b : BitVec 6) (m : BitVec 4) (_ _ : BitVec 1) (s : State) :=
  s.vFloat 6 false opFdiv d a (.vv b) m false

/-- VFDIV, vs (R147). -/
def execVfdivVs (d a : BitVec 6) (r : BitVec 5) (m : BitVec 4) (_ n : BitVec 1) (s : State) :=
  s.vFloat 6 false opFdiv d a (.vs r) m (n = 1)

/-- VFMIN, vv (R147). -/
def execVfminVv (d a b : BitVec 6) (m : BitVec 4) (_ _ : BitVec 1) (s : State) :=
  s.vFloat 2 false opFmin d a (.vv b) m false

/-- VFMIN, vs (R147). -/
def execVfminVs (d a : BitVec 6) (r : BitVec 5) (m : BitVec 4) (_ n : BitVec 1) (s : State) :=
  s.vFloat 2 false opFmin d a (.vs r) m (n = 1)

/-- VFMAX, vv (R147). -/
def execVfmaxVv (d a b : BitVec 6) (m : BitVec 4) (_ _ : BitVec 1) (s : State) :=
  s.vFloat 2 false opFmax d a (.vv b) m false

/-- VFMAX, vs (R147). -/
def execVfmaxVs (d a : BitVec 6) (r : BitVec 5) (m : BitVec 4) (_ n : BitVec 1) (s : State) :=
  s.vFloat 2 false opFmax d a (.vs r) m (n = 1)

/-- A one-operand instruction whose destination has the width of its source: `op` takes the format, the mode and the
source's bits (R149 to R152, R158). -/
def State.vUnary (s : State) (weight : Nat) (ok : BitVec 4 → Bool) (op : BitVec 4 → Rmode → Nat → Nat × Flags)
    (d a : BitVec 6) (m : BitVec 4) (inv : Bool) : Host.Outcome State Fault Refusal :=
  s.vector weight
    (fun c => ok c.fmt && fits d.toNat c.grp c.rcn && fits a.toNat c.grp c.rcn)
    (fun c => c.actRegs m inv a.toNat c.grp c.w)
    (fun c => c.actRegs m inv d.toNat c.grp c.w) m inv
    (fun c => c.writeElems d.toNat c.grp c.w (c.active m inv) fun i e =>
      op c.fmt (modeOfFrm c.frm) (c.elem a.toNat c.grp c.w i e))

/-- VFSQRT (R55). -/
def execVfsqrt (d a : BitVec 6) (m : BitVec 4) (_ n : BitVec 1) (s : State) :=
  s.vUnary 6 isFloat (fun f r a => sqrtRule f r (valOf f a)) d a m (n = 1)

/-- VFRCP (R59). -/
def execVfrcp (d a : BitVec 6) (m : BitVec 4) (_ n : BitVec 1) (s : State) :=
  s.vUnary 6 isFloat (fun f r a => rcpRule f r (valOf f a)) d a m (n = 1)

/-- VFRSQ (R60). -/
def execVfrsq (d a : BitVec 6) (m : BitVec 4) (_ n : BitVec 1) (s : State) :=
  s.vUnary 6 isFloat (fun f r a => rsqRule f r (valOf f a)) d a m (n = 1)

/-- VFEXP2 (R57). -/
def execVfexp2 (d a : BitVec 6) (m : BitVec 4) (_ n : BitVec 1) (s : State) :=
  s.vUnary 6 isFloat (fun f r a => exp2Rule f r (valOf f a)) d a m (n = 1)

/-- VFLOG2 (R58). -/
def execVflog2 (d a : BitVec 6) (m : BitVec 4) (_ n : BitVec 1) (s : State) :=
  s.vUnary 6 isFloat (fun f r a => log2Rule f r (valOf f a)) d a m (n = 1)

/-- VFCLASS (R150). -/
def execVfclass (d a : BitVec 6) (m : BitVec 4) (_ n : BitVec 1) (s : State) :=
  s.vUnary 1 isFloat (fun f _ a => (classRule f a, 0)) d a m (n = 1)

/-- VFKEY (R152). -/
def execVfkey (d a : BitVec 6) (m : BitVec 4) (_ n : BitVec 1) (s : State) :=
  s.vUnary 1 anyFormat (fun f _ a => (keyRule f a, 0)) d a m (n = 1)

/-- VMV (R158). -/
def execVmv (d a : BitVec 6) (m : BitVec 4) (_ n : BitVec 1) (s : State) :=
  s.vUnary 1 anyFormat (fun _ _ a => (a, 0)) d a m (n = 1)

/-- The grouping of a VCVT destination (R151). -/
def Core.cvtGroup (c : Core) (t : BitVec 4) : Nat := max 1 (c.grp * fmtWidth t / c.w)

/-- VCVT (R151): from the cr.vtype format to tfmt, under the rounding code, saturating when `k`. -/
def execVcvt (d a : BitVec 6) (t : BitVec 4) (k : BitVec 1) (m : BitVec 4) (_ : BitVec 1) (r : BitVec 3) (s : State) :=
  s.vector 2
    (fun c => fits d.toNat (c.cvtGroup t) c.rcn && fits a.toNat c.grp c.rcn)
    (fun c => c.actRegs m false a.toNat c.grp c.w)
    (fun c => c.actRegs m false d.toNat (c.cvtGroup t) (fmtWidth t)) m false
    (fun c => c.writeElems d.toNat (c.cvtGroup t) (fmtWidth t) (c.active m false) fun i e =>
      convert c.fmt t (modeOf r c.frm) (k = 1) (c.elem a.toNat c.grp c.w i e))

end Sys2Proof.Machine
end

