-- ==== Sys2Proof/Machine/Reduce.lean ====
section
/-! DEFINITION. Reductions, mask instructions, moves and permutes (R54, R154 to R162). -/

namespace Sys2Proof.Machine

/-- The active elements of row i. -/
def Core.activeRow (c : Core) (m : BitVec 4) (inv : Bool) (i : Nat) : List Nat :=
  (List.range c.vln).filter fun e => c.gateOn m inv i e

/-- Element 0 of an operand's rows, as a width of `w` bits; nothing when VL = 0. -/
def Core.headRegs (c : Core) (b w : Nat) : Tbl Nat :=
  (List.range c.rcn).map fun i => (regV (b + i * c.grp), if c.vln = 0 then 0 else 2 ^ w - 1)

/-- An integer reduction (R154): element 0 of each row of vd is the start, and takes the result. -/
def State.vReduce (s : State) (op : BitVec 4 → Nat → Nat → Nat → Nat) (d a : BitVec 6) (m : BitVec 4) (inv : Bool) :
    Host.Outcome State Fault Refusal :=
  s.vector 2
    (fun c => isInteger c.fmt && fits d.toNat c.grp c.rcn && fits a.toNat c.grp c.rcn)
    (fun c => c.actRegs m inv a.toNat c.grp c.w ++ c.headRegs d.toNat c.w)
    (fun c => c.headRegs d.toNat c.w) m inv
    (fun c => c.writeElems d.toNat c.grp c.w ((List.range c.rcn).map fun i => (i, 0)) fun i _ =>
      ((c.activeRow m inv i).foldl (fun x e => op c.fmt x (c.elem a.toNat c.grp c.w i e) 0)
        (c.elem d.toNat c.grp c.w i 0), 0))

/-- VREDSUM (R154). -/
def execVredsum (d a : BitVec 6) (m : BitVec 4) (_ n : BitVec 1) (s : State) := s.vReduce opAdd d a m (n = 1)

/-- VREDMAX (R154). -/
def execVredmax (d a : BitVec 6) (m : BitVec 4) (_ n : BitVec 1) (s : State) := s.vReduce opMax d a m (n = 1)

/-- VREDMIN (R154). -/
def execVredmin (d a : BitVec 6) (m : BitVec 4) (_ n : BitVec 1) (s : State) := s.vReduce opMin d a m (n = 1)

/-- A leaf of the tree of R54: an active element converted to .f32, a signalling NaN raising NV. -/
def Core.leaf (c : Core) (a : BitVec 6) (m : BitVec 4) (inv : Bool) (i e : Nat) : Option Nat × Flags :=
  if c.gateOn m inv i e then
    let (x, f) := convert c.fmt fmtF32 .rne false (c.elem a.toNat c.grp c.w i e)
    (some x, f)
  else (none, 0)

/-- A row of a floating-point reduction: comb of the start value with the tree of the row's leaves (R54, R155). -/
def Core.floatRow (c : Core) (isMax : Bool) (a : BitVec 6) (m : BitVec 4) (inv : Bool) (i start : Nat) :
    Nat × Flags :=
  let mode := modeOfFrm c.frm
  let tree := reduceTree (combF32 isMax mode) 10 ((List.range c.vln).map (c.leaf a m inv i))
  let (x, f) := combF32 isMax mode (some start, 0) (tree.getD (none, 0))
  (x.getD start, f)

/-- A floating-point reduction (R155): the start and the result are bits [31:0] of register vd + i·G. -/
def State.vFloatReduce (s : State) (isMax : Bool) (d a : BitVec 6) (m : BitVec 4) (inv : Bool) :
    Host.Outcome State Fault Refusal :=
  s.vector 2
    (fun c => isFloat c.fmt && fits d.toNat c.grp c.rcn && fits a.toNat c.grp c.rcn)
    (fun c => c.actRegs m inv a.toNat c.grp c.w ++ c.headRegs d.toNat 32)
    (fun c => c.headRegs d.toNat 32) m inv
    (fun c => (List.range c.rcn).foldl (fun k i =>
      let r := d.toNat + i * c.grp
      let (x, f) := c.floatRow isMax a m inv i (getBits (c.vreg r) 0 32)
      (k.setV r (putBits (k.vreg r) 0 32 x)).raise f) c)

/-- VFREDSUM (R155). -/
def execVfredsum (d a : BitVec 6) (m : BitVec 4) (_ n : BitVec 1) (s : State) := s.vFloatReduce false d a m (n = 1)

/-- VFREDMAX (R155). -/
def execVfredmax (d a : BitVec 6) (m : BitVec 4) (_ n : BitVec 1) (s : State) := s.vFloatReduce true d a m (n = 1)

/-- A mask instruction (R156): VTYPE while ill or where a mask operand passes m47; the gate, which charges nothing (R252); it
acts at VL = 0 too. -/
def State.maskOp (s : State) (ok : Core → Bool) (rd wr : Core → Tbl Nat) (f : State → Core → Except Halt State) :
    Host.Outcome State Fault Refusal :=
  s.run false fun s => do
    let c := s.me
    if c.ill || !ok c then s.vtypeTrap
    else
      let s ← s.gate 0
      let s ← s.touch (rd c) (wr c)
      f s s.me

/-- Bit e·σ of a row of a mask operand (R157). -/
def Core.maskBit (c : Core) (b : BitVec 6) (i e : Nat) : Bool := (c.mreg (b.toNat + i)).getLsbD (e * c.sigma)

/-- A mask result, bit by bit, from mask sources (R157). -/
def State.maskLogic (s : State) (srcs : List (BitVec 6)) (d : BitVec 6) (f : Core → Nat → Nat → Bool) :
    Host.Outcome State Fault Refusal :=
  s.maskOp (fun c => fitsMask d.toNat c.rcn && srcs.all fun a => fitsMask a.toNat c.rcn)
    (fun c => srcs.flatMap fun a => c.maskRegs a.toNat) (fun c => c.maskRegs d.toNat)
    fun s c => .ok (s.upd fun k => (k.writeMasks d.toNat fun i e => some (f c i e)).retire)

/-- MAND (R157). -/
def execMand (d a b : BitVec 6) (s : State) : Host.Outcome State Fault Refusal :=
  s.maskLogic [a, b] d fun c i e => c.maskBit a i e && c.maskBit b i e

/-- MOR (R157). -/
def execMor (d a b : BitVec 6) (s : State) : Host.Outcome State Fault Refusal :=
  s.maskLogic [a, b] d fun c i e => c.maskBit a i e || c.maskBit b i e

/-- MXOR (R157). -/
def execMxor (d a b : BitVec 6) (s : State) : Host.Outcome State Fault Refusal :=
  s.maskLogic [a, b] d fun c i e => c.maskBit a i e != c.maskBit b i e

/-- MANDN (R157). -/
def execMandn (d a b : BitVec 6) (s : State) : Host.Outcome State Fault Refusal :=
  s.maskLogic [a, b] d fun c i e => c.maskBit a i e && !c.maskBit b i e

/-- MNOT (R157). -/
def execMnot (d a : BitVec 6) (s : State) : Host.Outcome State Fault Refusal :=
  s.maskLogic [a] d fun c i e => !c.maskBit a i e

/-- MSET (R157). -/
def execMset (d : BitVec 6) (s : State) : Host.Outcome State Fault Refusal :=
  s.maskLogic [] d fun _ _ _ => true

/-- MFIRST (R157): the lowest element of row 0 whose bit is one, or −1. -/
def execMfirst (d : BitVec 5) (a : BitVec 6) (s : State) : Host.Outcome State Fault Refusal :=
  s.maskOp (fun c => fitsMask a.toNat c.rcn) (fun c => c.maskRegs a.toNat) (fun _ => [])
    fun s c => .ok (s.upd fun k => (k.wg d
      (match (List.range c.vln).find? fun e => c.maskBit a 0 e with
        | some e => BitVec.ofNat 64 e
        | none => BitVec.allOnes 64)).retire)

/-- Elements of a row whose bit is one. -/
def Core.maskCount (c : Core) (a : BitVec 6) (i : Nat) : Nat :=
  (List.range c.vln).countP fun e => c.maskBit a i e

/-- MPOP (R157): the count over all rows. -/
def execMpop (d : BitVec 5) (a : BitVec 6) (s : State) : Host.Outcome State Fault Refusal :=
  s.maskOp (fun c => fitsMask a.toNat c.rcn) (fun c => c.maskRegs a.toNat) (fun _ => [])
    fun s c => .ok (s.upd fun k => (k.wg d
      (BitVec.ofNat 64 ((List.range c.rcn).foldl (fun n i => n + c.maskCount a i) 0))).retire)

/-- MPOPQ (R157): one tentative push for each row (R113); a push to a full queue stalls (R27). -/
def execMpopq (a : BitVec 6) (s : State) : Host.Outcome State Fault Refusal :=
  s.maskOp (fun c => fitsMask a.toNat c.rcn) (fun c => c.maskRegs a.toNat) (fun _ => [])
    fun s c =>
      if 8 < c.lq.length + c.rcn then s.stall .lqPush
      else
        let pushes : List LqEntry := (List.range c.rcn).map fun i => ⟨BitVec.ofNat 13 (c.maskCount a i), c.strips⟩
        .ok (s.upd fun k => { k with lq := k.lq ++ pushes }.retire)

/-- MIOTA (R157): the number of earlier elements whose bit is one, at width w. -/
def execMiota (d a : BitVec 6) (s : State) : Host.Outcome State Fault Refusal :=
  s.maskOp (fun c => fits d.toNat c.grp c.rcn && fitsMask a.toNat c.rcn) (fun c => c.maskRegs a.toNat)
    (fun c => c.rowRegs d.toNat c.grp c.w)
    fun s c => .ok (s.upd fun k => (k.writeElems d.toNat c.grp c.w c.positions fun i e =>
      ((List.range e).countP (fun x => c.maskBit a i x) % 2 ^ c.w, 0)).retire)

/-- VBCAST (R158). -/
def execVbcast (d : BitVec 6) (r : BitVec 5) (m : BitVec 4) (n : BitVec 1) (s : State) :=
  s.vector 1 (fun c => fits d.toNat c.grp c.rcn) (fun _ => []) (fun c => c.actRegs m (n = 1) d.toNat c.grp c.w) m (n = 1)
    fun c => c.writeElems d.toNat c.grp c.w (c.active m (n = 1)) fun _ _ => ((c.rg r).toNat % 2 ^ c.w, 0)

/-- VMVX (R158): element 0 of row 0, sign-extended for .i formats; nothing when VL = 0; R14 as for one row. -/
def execVmvx (d : BitVec 5) (a : BitVec 6) (_ : BitVec 1) (s : State) :=
  s.vector 1 (fun c => fits a.toNat c.grp 1) (fun c => c.elemRegs a.toNat c.grp c.w (if c.vln = 0 then [] else [(0, 0)])) (fun _ => []) 0 false
    fun c =>
      let x := c.elem a.toNat c.grp c.w 0 0
      c.wg d (if isSigned c.fmt then BitVec.ofInt 64 (sext x c.w) else BitVec.ofNat 64 x)

/-- A permute within rows (R159): the element written at e, if any, from a source reader and the second operand; `rd` names
the source elements read, of each active element. -/
def State.vPermute (s : State) (ok : Core → Bool) (rd : Core → List (Nat × Nat) → Tbl Nat) (d : BitVec 6) (m : BitVec 4)
    (inv : Bool) (f : Core → Nat → Nat → Option Nat) : Host.Outcome State Fault Refusal :=
  let written (c : Core) : List (Nat × Nat) := (c.active m inv).filter fun x => (f c x.1 x.2).isSome
  s.vector 1 (fun c => fits d.toNat c.grp c.rcn && ok c) (fun c => rd c (c.active m inv))
    (fun c => c.elemRegs d.toNat c.grp c.w (written c)) m inv
    fun c => c.writeElems d.toNat c.grp c.w (written c) fun i e => ((f c i e).getD 0, 0)

/-- VMERGE (R159). -/
def execVmerge (d a b : BitVec 6) (m : BitVec 4) (_ _ : BitVec 1) (s : State) :=
  let half (p : Nat) (xs : List (Nat × Nat)) : List (Nat × Nat) :=
    (xs.filter fun x => decide (x.2 % 2 = p)).map fun x => (x.1, x.2 / 2)
  s.vPermute (fun c => fits a.toNat c.grp c.rcn && fits b.toNat c.grp c.rcn)
    (fun c xs => c.elemRegs a.toNat c.grp c.w (half 0 xs) ++ c.elemRegs b.toNat c.grp c.w (half 1 xs)) d m false
    fun c i e => some (c.elem (if e % 2 = 0 then a else b).toNat c.grp c.w i (e / 2))

/-- VSLIDEUP (R159): unchanged below the distance. -/
def execVslideup (d a : BitVec 6) (r : BitVec 5) (m : BitVec 4) (_ n : BitVec 1) (s : State) :=
  s.vPermute (fun c => fits a.toNat c.grp c.rcn)
    (fun c xs => c.elemRegs a.toNat c.grp c.w
      ((xs.filter fun x => decide ((c.rg r).toNat ≤ x.2)).map fun x => (x.1, x.2 - (c.rg r).toNat))) d m (n = 1)
    fun c i e =>
      let k := (c.rg r).toNat
      if k ≤ e then some (c.elem a.toNat c.grp c.w i (e - k)) else none

/-- VSLIDEDN (R159): zero past VL. -/
def execVslidedn (d a : BitVec 6) (r : BitVec 5) (m : BitVec 4) (_ n : BitVec 1) (s : State) :=
  s.vPermute (fun c => fits a.toNat c.grp c.rcn)
    (fun c xs => c.elemRegs a.toNat c.grp c.w
      ((xs.filter fun x => decide (x.2 + (c.rg r).toNat < c.vln)).map fun x => (x.1, x.2 + (c.rg r).toNat))) d m (n = 1)
    fun c i e =>
      let k := (c.rg r).toNat
      some (if e + k < c.vln then c.elem a.toNat c.grp c.w i (e + k) else 0)

/-- VPERM (R159): zero for an index at or past VL. -/
def execVperm (d a b : BitVec 6) (m : BitVec 4) (_ _ : BitVec 1) (s : State) :=
  s.vPermute (fun c => fits a.toNat c.grp c.rcn && fits b.toNat c.grp c.rcn)
    (fun c xs => c.elemRegs b.toNat c.grp c.w xs ++ c.elemRegs a.toNat c.grp c.w
      ((xs.map fun x => (x.1, c.elem b.toNat c.grp c.w x.1 x.2)).filter fun x => decide (x.2 < c.vln))) d m false
    fun c i e =>
      let j := c.elem b.toNat c.grp c.w i e
      some (if j < c.vln then c.elem a.toNat c.grp c.w i j else 0)

/-- VIDX (R160): start + (i·VL + e)·step modulo 2^w. -/
def execVidx (d : BitVec 6) (a b : BitVec 5) (m : BitVec 4) (n : BitVec 1) (s : State) :=
  s.vector 1 (fun c => isInteger c.fmt && fits d.toNat c.grp c.rcn) (fun _ => [])
    (fun c => c.actRegs m (n = 1) d.toNat c.grp c.w) m (n = 1)
    fun c => c.writeElems d.toNat c.grp c.w (c.active m (n = 1)) fun i e =>
      (((c.rg a).toNat + (i * c.vln + e) * (c.rg b).toNat) % 2 ^ c.w, 0)

/-- The positions VCOMPRESS writes: as many of each row as it has active elements. -/
def Core.packed (c : Core) (m : BitVec 4) (inv : Bool) : List (Nat × Nat) :=
  (List.range c.rcn).flatMap fun i => (List.range (c.activeRow m inv i).length).map fun j => (i, j)

/-- VCOMPRESS (R161): the chosen elements of each row, in order, to positions from 0 on. -/
def execVcompress (d a : BitVec 6) (m : BitVec 4) (_ n : BitVec 1) (s : State) :=
  s.vector 1 (fun c => fits d.toNat c.grp c.rcn && fits a.toNat c.grp c.rcn)
    (fun c => c.actRegs m (n = 1) a.toNat c.grp c.w)
    (fun c => c.elemRegs d.toNat c.grp c.w (c.packed m (n = 1))) m (n = 1)
    fun c => c.writeElems d.toNat c.grp c.w (c.packed m (n = 1)) fun i j =>
      (c.elem a.toNat c.grp c.w i ((c.activeRow m (n = 1) i)[j]?.getD 0), 0)

/-- The bins that VINCX increments. -/
def Core.bins (c : Core) (a : BitVec 6) (m : BitVec 4) : List (Nat × Nat) :=
  ((c.active m false).map fun x => (x.1, c.elem a.toNat c.grp c.w x.1 x.2)).filter fun x => decide (x.2 < c.vln)

/-- VINCX (R162): increments added to the bins that the indices name, in element order; indices at or past VL are
dropped. -/
def execVincx (d a b : BitVec 6) (m : BitVec 4) (_ _ : BitVec 1) (s : State) :=
  s.vector 1
    (fun c => isInteger c.fmt && fits d.toNat c.grp c.rcn && fits a.toNat c.grp c.rcn && fits b.toNat c.grp c.rcn)
    (fun c => c.actRegs m false a.toNat c.grp c.w ++ c.actRegs m false b.toNat c.grp c.w
      ++ c.elemRegs d.toNat c.grp c.w (c.bins a m))
    (fun c => c.elemRegs d.toNat c.grp c.w (c.bins a m)) m false
    fun c => (c.active m false).foldl (fun k x =>
      let j := c.elem a.toNat c.grp c.w x.1 x.2
      if j < c.vln then
        k.setElem d.toNat c.grp c.w x.1 j
          ((k.elem d.toNat c.grp c.w x.1 j + c.elem b.toNat c.grp c.w x.1 x.2) % 2 ^ c.w)
      else k) c

end Sys2Proof.Machine
end

