-- ==== Sys2Proof/Machine/Scalar.lean ====
section
/-! DEFINITION. The scalar integer instructions (R95 to R99). -/

namespace Sys2Proof.Machine

/-- The low six bits of a shift amount. -/
def sh6 (b : Word) : Nat := b.toNat % 64

/-- Signed minimum and maximum of two words. -/
def smin (a b : Word) : Word := if a.slt b then a else b
def smax (a b : Word) : Word := if a.slt b then b else a

/-- A truth value as a word. -/
def flagWord (p : Bool) : Word := if p then 1 else 0

/-- Leading zero bits of a word (R96). -/
def clz64 (a : Word) : Nat := if a = 0 then 64 else 63 - Nat.log2 a.toNat

/-- One bits among bits below `n`. -/
def countOnes (x : Nat) : Nat → Nat
  | 0 => 0
  | n + 1 => countOnes x n + x / 2 ^ n % 2

/-- Trailing zero bits of a word: the lowest set bit below `n + k`, counted from `k` (R96). -/
def ctzFrom (a : Word) (k : Nat) : Nat → Nat
  | 0 => k
  | n + 1 => if a.getLsbD k then k else ctzFrom a (k + 1) n

/-- Signed quotient toward zero with the special cases of R97. -/
def divs (a b : Word) : Word := if b = 0 then BitVec.allOnes 64 else a.sdiv b

/-- Signed remainder with the special cases of R97. -/
def rems (a b : Word) : Word := if b = 0 then a else a.srem b

/-- Unsigned quotient (R97). -/
def divu64 (a b : Word) : Word := if b = 0 then BitVec.allOnes 64 else a / b

/-- Unsigned remainder (R97). -/
def remu64 (a b : Word) : Word := if b = 0 then a else a % b

/-- Bits [127:64] of the signed product (R96). -/
def mulHigh (a b : Word) : Word := BitVec.ofInt 64 (a.toInt * b.toInt / 2 ^ 64)

/-- Bits [127:64] of the unsigned product (R96). -/
def mulHighU (a b : Word) : Word := BitVec.ofNat 64 (a.toNat * b.toNat / 2 ^ 64)

/-- The shift amount of SLLI, SRLI and SRAI: func[6] · 32 + the gs2 field (R96). -/
def shImm (h : BitVec 5) (g : BitVec 1) : Nat := g.toNat * 32 + h.toNat

/-- ADD (R96). -/
def execAdd (d a b : BitVec 5) (s : State) := s.alu d fun c => c.rg a + c.rg b

/-- SUB (R96). -/
def execSub (d a b : BitVec 5) (s : State) := s.alu d fun c => c.rg a - c.rg b

/-- AND (R96). -/
def execAnd (d a b : BitVec 5) (s : State) := s.alu d fun c => c.rg a &&& c.rg b

/-- OR (R96). -/
def execOr (d a b : BitVec 5) (s : State) := s.alu d fun c => c.rg a ||| c.rg b

/-- XOR (R96). -/
def execXor (d a b : BitVec 5) (s : State) := s.alu d fun c => c.rg a ^^^ c.rg b

/-- SLL (R96). -/
def execSll (d a b : BitVec 5) (s : State) := s.alu d fun c => c.rg a <<< sh6 (c.rg b)

/-- SRL (R96). -/
def execSrl (d a b : BitVec 5) (s : State) := s.alu d fun c => c.rg a >>> sh6 (c.rg b)

/-- SRA (R96). -/
def execSra (d a b : BitVec 5) (s : State) := s.alu d fun c => (c.rg a).sshiftRight (sh6 (c.rg b))

/-- ROTL (R96). -/
def execRotl (d a b : BitVec 5) (s : State) := s.alu d fun c => (c.rg a).rotateLeft (sh6 (c.rg b))

/-- ROTR (R96). -/
def execRotr (d a b : BitVec 5) (s : State) := s.alu d fun c => (c.rg a).rotateRight (sh6 (c.rg b))

/-- MIN (R96). -/
def execMin (d a b : BitVec 5) (s : State) := s.alu d fun c => smin (c.rg a) (c.rg b)

/-- MAX (R96). -/
def execMax (d a b : BitVec 5) (s : State) := s.alu d fun c => smax (c.rg a) (c.rg b)

/-- MINU (R96). -/
def execMinu (d a b : BitVec 5) (s : State) := s.alu d fun c => if c.rg a < c.rg b then c.rg a else c.rg b

/-- MAXU (R96). -/
def execMaxu (d a b : BitVec 5) (s : State) := s.alu d fun c => if c.rg a < c.rg b then c.rg b else c.rg a

/-- SLT (R96). -/
def execSlt (d a b : BitVec 5) (s : State) := s.alu d fun c => flagWord ((c.rg a).slt (c.rg b))

/-- SLTU (R96). -/
def execSltu (d a b : BitVec 5) (s : State) := s.alu d fun c => flagWord ((c.rg a).ult (c.rg b))

/-- MUL (R96). -/
def execMul (d a b : BitVec 5) (s : State) := s.alu d fun c => c.rg a * c.rg b

/-- MULH (R96). -/
def execMulh (d a b : BitVec 5) (s : State) := s.alu d fun c => mulHigh (c.rg a) (c.rg b)

/-- MULHU (R96). -/
def execMulhu (d a b : BitVec 5) (s : State) := s.alu d fun c => mulHighU (c.rg a) (c.rg b)

/-- DIV (R97). -/
def execDiv (d a b : BitVec 5) (s : State) := s.alu d fun c => divs (c.rg a) (c.rg b)

/-- DIVU (R97). -/
def execDivu (d a b : BitVec 5) (s : State) := s.alu d fun c => divu64 (c.rg a) (c.rg b)

/-- REM (R97). -/
def execRem (d a b : BitVec 5) (s : State) := s.alu d fun c => rems (c.rg a) (c.rg b)

/-- REMU (R97). -/
def execRemu (d a b : BitVec 5) (s : State) := s.alu d fun c => remu64 (c.rg a) (c.rg b)

/-- CLZ (R96). -/
def execClz (d a : BitVec 5) (s : State) := s.alu d fun c => BitVec.ofNat 64 (clz64 (c.rg a))

/-- CTZ (R96). -/
def execCtz (d a : BitVec 5) (s : State) := s.alu d fun c => BitVec.ofNat 64 (ctzFrom (c.rg a) 0 64)

/-- CPOP (R96). -/
def execCpop (d a : BitVec 5) (s : State) := s.alu d fun c => BitVec.ofNat 64 (countOnes (c.rg a).toNat 64)

/-- ADDSH (R96). -/
def execAddsh (d a b : BitVec 5) (k : BitVec 2) (s : State) := s.alu d fun c => c.rg a + (c.rg b <<< k.toNat)

/-- SLLI (R96). -/
def execSlli (d a h : BitVec 5) (g : BitVec 1) (s : State) := s.alu d fun c => c.rg a <<< shImm h g

/-- SRLI (R96). -/
def execSrli (d a h : BitVec 5) (g : BitVec 1) (s : State) := s.alu d fun c => c.rg a >>> shImm h g

/-- SRAI (R96). -/
def execSrai (d a h : BitVec 5) (g : BitVec 1) (s : State) := s.alu d fun c => (c.rg a).sshiftRight (shImm h g)

/-- ADDI (R98). -/
def execAddi (d a : BitVec 5) (i : BitVec 16) (s : State) := s.alu d fun c => c.rg a + i.signExtend 64

/-- ANDI (R98). -/
def execAndi (d a : BitVec 5) (k : BitVec 14) (s : State) := s.alu d fun c => c.rg a &&& k.signExtend 64

/-- ORI (R98). -/
def execOri (d a : BitVec 5) (k : BitVec 14) (s : State) := s.alu d fun c => c.rg a ||| k.signExtend 64

/-- XORI (R98). -/
def execXori (d a : BitVec 5) (k : BitVec 14) (s : State) := s.alu d fun c => c.rg a ^^^ k.signExtend 64

/-- SLTI (R98). -/
def execSlti (d a : BitVec 5) (i : BitVec 16) (s : State) := s.alu d fun c => flagWord ((c.rg a).slt (i.signExtend 64))

/-- LUI (R99). -/
def execLui (d : BitVec 5) (i : BitVec 20) (s : State) := s.alu d fun _ => i.signExtend 64 <<< 12

/-- AUPC (R99): relative to its own address. -/
def execAupc (d : BitVec 5) (i : BitVec 20) (s : State) := s.alu d fun c => c.curPc + i.signExtend 64 <<< 12

end Sys2Proof.Machine
end

