-- ==== Sys2Proof/Machine/ScalarMemory.lean ====
section
/-! DEFINITION. The scalar loads and stores (R73, R100 to R104). -/

namespace Sys2Proof.Machine

/-- A scalar load at an effective address: from die-control space on a steward core (R362), else by R100 to R104. -/
def State.scalarLoad (s : State) (va : Word) (d : BitVec 5) (z : BitVec 3) : Except Halt State := do
  let n := 2 ^ (z.toNat % 4)
  let (s, bs) ← if s.me.isSteward && isControl va.toNat then s.controlLoad va n else s.loadScalar va n
  .ok (s.upd fun c => (c.wg d (loadValue z (bytesNat bs))).retire)

/-- A scalar store of the low bytes of a register. -/
def State.scalarStore (s : State) (va : Word) (d : BitVec 5) (z : BitVec 2) : Except Halt State := do
  let bs := natBytes (2 ^ z.toNat) (s.me.rg d).toNat
  let s ← if s.me.isSteward && isControl va.toNat then s.controlStore va bs else s.storeScalar va bs
  .ok s.retire

/-- LD (R100). -/
def execLd (d a : BitVec 5) (z : BitVec 3) (o : BitVec 12) (s : State) : Host.Outcome State Fault Refusal :=
  s.run true fun s => s.scalarLoad (s.me.rg a + o.signExtend 64) d z

/-- ST (R100): gd names the data. -/
def execSt (d a : BitVec 5) (z : BitVec 2) (o : BitVec 12) (s : State) : Host.Outcome State Fault Refusal :=
  s.run true fun s => s.scalarStore (s.me.rg a + o.signExtend 64) d z

/-- LDX (R100). -/
def execLdx (d a b : BitVec 5) (z : BitVec 3) (j : BitVec 2) (s : State) : Host.Outcome State Fault Refusal :=
  s.run true fun s => s.scalarLoad (s.me.rg a + s.me.rg b <<< j.toNat) d z

/-- STX (R100). -/
def execStx (d a b : BitVec 5) (z j : BitVec 2) (s : State) : Host.Outcome State Fault Refusal :=
  s.run true fun s => s.scalarStore (s.me.rg a + s.me.rg b <<< j.toNat) d z

end Sys2Proof.Machine
end

