-- ==== Sys2Proof/Machine/Tiles.lean ====
section
/-! DEFINITION. Tile and matrix instructions (R169 to R182). -/

namespace Sys2Proof.Machine

/-- Bits [lo + n − 1 : lo] of a tile set that starts at a register (R169). -/
def Core.tileBits (c : Core) (y lo n : Nat) : Nat := getBits (c.yreg (y + lo / 8192)) (lo % 8192) n

/-- Element (r, col) of a tile register at width wt (R169). -/
def Core.tileElem (c : Core) (y wt r col : Nat) : Nat := getBits (c.yreg y) (256 * r + col * wt) wt

/-- Bits of a tile set as a part of a register (R116). -/
def tilePart (y lo n : Nat) : Nat × Nat := (regY (y + lo / 8192), (2 ^ n - 1) * 2 ^ (lo % 8192))

/-- A whole tile. -/
def wholeTile (y : BitVec 3) : Tbl Nat := [tilePart y.toNat 0 8192]

/-- Elements (r, col) of a tile at width wt. -/
def tileParts (y wt : Nat) (xs : List (Nat × Nat)) : Tbl Nat := xs.map fun x => tilePart y (256 * x.1 + x.2 * wt) wt

/-- A tile instruction: VTYPE while ill where it reads cr.vtype, its other checks, the gate, R116, and its effect with the
accesses it makes. `active` counts for the debug ring (R397; log 11). -/
def State.tile (s : State) (reads : Bool) (cost : Core → Nat) (ok : Core → Bool) (rd wr : Core → Tbl Nat)
    (f : State → Core → Except Halt (State × Nat × List Access)) : Host.Outcome State Fault Refusal :=
  s.run false fun s => do
    let c := s.me
    if (reads && c.ill) || !ok c then s.vtypeTrap
    else
      let s ← s.gate (cost c)
      let s ← s.touch (rd c) (wr c)
      let (s, n, xs) ← f s s.me
      .ok ((s.noteReads (rd c)).endMemory n xs)

/-- The parts of a byte range of translated memory that lie in one cache line each: first byte and length. -/
def linePieces (a n : Nat) : List (Nat × Nat) :=
  (List.range (n / 64 + 2)).filterMap fun k =>
    let lo := max a (64 * (a / 64 + k))
    let hi := min (a + n) (64 * (a / 64 + k + 1))
    if lo < hi then some (lo - a, hi - lo) else none

/-- A memory row of `n` bytes as accesses (R172): in translated memory, and in a steward core's, one for each cache line, and in a window cut where
its bytes pass the end of its cell's hold bytes, so that the lowest faulting byte is reported. -/
def Core.rowAccess (c : Core) (va : Word) (n j : Nat) : List Access :=
  let a := va.toNat
  if c.isSteward || 2 ^ 32 ≤ a then (linePieces a n).map fun x => ⟨va + BitVec.ofNat 64 x.1, x.2, 8, j⟩
  else
    let cut := a / 2 ^ 19 * 2 ^ 19 + c.holdsize.toNat
    if a % 2 ^ 19 + n ≤ 2 ^ 19 ∧ a < cut ∧ cut < a + n then
      [⟨va, cut - a, 8, j⟩, ⟨va + BitVec.ofNat 64 (cut - a), a + n - cut, 8, j⟩]
    else [⟨va, n, 8, j⟩]

/-- The first access of each row. -/
def rowStarts (rows : List (List Access)) : List Access := rows.filterMap List.head?

/-- Accesses of memory rows, row by row: row j starts at gs1 + j·gs2 (R171). -/
def Core.rowAccesses (c : Core) (a b : BitVec 5) (rows n : Nat) : List (List Access) :=
  (List.range rows).map fun j => c.rowAccess (c.rg a + BitVec.ofNat 64 j * c.rg b) n j

/-- The bytes of rows, each as a number, from the bytes of their accesses. -/
def joinRows : List (List Access) → List (List Byte) → List Nat
  | [], _ => []
  | r :: rs, bs => bytesNat (bs.take r.length).flatten :: joinRows rs (bs.drop r.length)

/-- Rows loaded, each as a number. -/
def State.loadRows (s : State) (rows : List (List Access)) : Except Halt (State × List Nat) :=
  (s.loadAll rows.flatten).map fun x => (x.1, joinRows rows x.2)

/-- The bytes of a row dealt out to its accesses. -/
def dealRow : List Access → List Byte → List (Access × List (Byte × Byte))
  | [], _ => []
  | x :: xs, bs => (x, whole (bs.take x.n)) :: dealRow xs (bs.drop x.n)

/-- A tile of rows of 32 bytes. -/
def tileOfRows (rows : List Nat) : BitVec 8192 := BitVec.ofNat 8192 (packNumber 256 rows)

/-- TLD (R171). -/
def execTld (y : BitVec 3) (a b : BitVec 5) (s : State) : Host.Outcome State Fault Refusal :=
  s.tile false (fun _ => 0) (fun _ => true) (fun _ => []) (fun _ => wholeTile y) fun s c => do
    let rows := c.rowAccesses a b 32 32
    let (s, xs) ← s.loadRows rows
    .ok (s.upd fun k => k.setY y.toNat (tileOfRows xs), 32, rowStarts rows)

/-- TST (R171, R173). -/
def execTst (y : BitVec 3) (a b : BitVec 5) (s : State) : Host.Outcome State Fault Refusal :=
  s.tile false (fun _ => 0) (fun _ => true) (fun _ => wholeTile y) (fun _ => []) fun s c => do
    let rows := c.rowAccesses a b 32 32
    let s ← s.storeAll ((rows.zipIdx.map fun x =>
      dealRow x.1 (natBytes 32 (getBits (c.yreg y.toNat) (256 * x.2) 256))).flatten)
    .ok (s, 32, rowStarts rows)

/-- Memory rows of TLDT and TSTC at a width (R171). -/
def tileRows (wt : Nat) : Nat := 256 / wt

/-- TLDT (R171): tile element (r, c) from element r of memory row c. -/
def execTldt (y : BitVec 3) (a b : BitVec 5) (s : State) : Host.Outcome State Fault Refusal :=
  s.tile true (fun _ => 0) (fun c => decide (c.w ≠ 64)) (fun _ => []) (fun _ => wholeTile y) fun s c => do
    let rows := c.rowAccesses a b (tileRows c.w) (4 * c.w)
    let (s, xs) ← s.loadRows rows
    let tile := (List.range 32).map fun r => packNumber c.w (xs.map fun x => x / 2 ^ (r * c.w) % 2 ^ c.w)
    .ok (s.upd fun k => k.setY y.toNat (tileOfRows tile), tileRows c.w, rowStarts rows)

/-- TSTC (R171): memory row c from tile column c. -/
def execTstc (y : BitVec 3) (a b : BitVec 5) (s : State) : Host.Outcome State Fault Refusal :=
  s.tile true (fun _ => 0) (fun c => decide (c.w ≠ 64)) (fun _ => wholeTile y) (fun _ => []) fun s c => do
    let rows := c.rowAccesses a b (tileRows c.w) (4 * c.w)
    let col (j : Nat) : Nat := packNumber c.w ((List.range 32).map fun r => c.tileElem y.toNat c.w r j)
    let s ← s.storeAll ((rows.zipIdx.map fun x => dealRow x.1 (natBytes (4 * c.w) (col x.2))).flatten)
    .ok (s, tileRows c.w, rowStarts rows)

/-- One chunk byte as an element of one byte (R175). -/
def State.chunkByte (base : Word) : Reader State Halt := fun s i => do
  let x : Access := ⟨base + BitVec.ofNat 64 i, 1, 1, i % 2 ^ 16⟩
  let (s, bs) ← s.loadNext [x]
  .ok (s, bytesNat bs.flatten)

/-- TLDC (R174, R175): one coded chunk, written to the tile whole once it verifies. -/
def execTldc (y : BitVec 3) (a b : BitVec 5) (s : State) : Host.Outcome State Fault Refusal :=
  s.tile false (fun _ => 0) (fun _ => true) (fun _ => []) (fun _ => wholeTile y) fun s c => do
    let rd := State.chunkByte (c.rg a)
    let stream (s : State) (n : Nat) : Except Halt (State × Nat × List Access) :=
      s.unwinding { cause := .stream, addr := 0, elem := n }
    s.asStrongest fun s => do
    match ← judgeMarker rd (c.rg b).toNat 1024 16 (fun _ => none) s with
    | (s, .bad _ n) => stream s n
    | (s, .good m) =>
      match ← decodeChunk rd (fun i => tblGet 0 i c.dtab) 256 m s with
      | (s, .bad _ n) => stream s n
      | (s, .good xs) =>
        .ok (s.upd fun k => k.setY y.toNat (BitVec.ofNat 8192 (packNumber 8 xs)), xs.length,
          [⟨c.rg a, 1, 1, 0⟩, ⟨c.rg a + BitVec.ofNat 64 (m.size + m.plen - 1), 1, 1, 0⟩])

/-- The core with element (r, col) of a tile written. -/
def Core.setTile (c : Core) (y wt r col x : Nat) : Core := c.setY y (putBits (c.yreg y) (256 * r + col * wt) wt x)

/-- Tile elements written in order, with the flags of each. -/
def Core.writeTile (c : Core) (y wt first : Nat) : List (Nat × Nat) → (Nat → Nat → Nat × Flags) → Core
  | [], _ => c
  | (i, e) :: xs, f => ((c.setTile y wt (first + i) e (f i e).1).raise (f i e).2).writeTile y wt first xs f

/-- TMVR (R176, R177): a tile's rows to vector rows, or with dir 1 the other way. -/
def execTmvr (y : BitVec 3) (v : BitVec 6) (i : BitVec 5) (t : BitVec 4) (r : BitVec 3) (d : BitVec 1) (s : State) :
    Host.Outcome State Fault Refusal :=
  let wt := fmtWidth t
  let vregs (c : Core) : Tbl Nat := c.rowRegs v.toNat c.grp c.w
  let yregs (c : Core) : Tbl Nat := tileParts y.toNat wt (c.positions.map fun x => (i.toNat + x.1, x.2))
  s.tile true (fun _ => 0)
    (fun c => decide (i.toNat + c.rcn ≤ 32) && decide (c.vln ≤ tileRows wt) && fits v.toNat c.grp c.rcn)
    (fun c => if d = 1 then vregs c else yregs c) (fun c => if d = 1 then yregs c else vregs c) fun s c =>
      let mode := modeOf r c.frm
      .ok (s.upd fun k =>
        if d = 1 then k.writeTile y.toNat wt i.toNat c.positions fun j e =>
          convert c.fmt t mode false (c.elem v.toNat c.grp c.w j e)
        else k.writeElems v.toNat c.grp c.w c.positions fun j e =>
          convert t c.fmt mode false (c.tileElem y.toNat wt (i.toNat + j) e), c.positions.length, [])

/-- TMVC (R176, R177): a tile's columns to vector rows. -/
def execTmvc (y : BitVec 3) (v : BitVec 6) (i : BitVec 5) (t : BitVec 4) (r : BitVec 3) (s : State) :
    Host.Outcome State Fault Refusal :=
  let wt := fmtWidth t
  s.tile true (fun _ => 0)
    (fun c => decide (i.toNat + c.rcn ≤ tileRows wt) && decide (c.vln ≤ 32) && fits v.toNat c.grp c.rcn)
    (fun c => tileParts y.toNat wt (c.positions.map fun x => (x.2, i.toNat + x.1)))
    (fun c => c.rowRegs v.toNat c.grp c.w) fun s c =>
      .ok (s.upd fun k => k.writeElems v.toNat c.grp c.w c.positions fun j e =>
        convert t c.fmt (modeOf r c.frm) false (c.tileElem y.toNat wt e (i.toNat + j)), c.positions.length, [])

/-- TZERO (R176). -/
def execTzero (y : BitVec 3) (s : State) : Host.Outcome State Fault Refusal :=
  s.tile false (fun _ => 0) (fun _ => true) (fun _ => []) (fun _ => wholeTile y) fun s _ =>
    .ok (s.upd fun k => k.setY y.toNat 0, 0, [])

/-- SCLD (R178, R179). -/
def execScld (g : BitVec 5) (k : BitVec 1) (slot : BitVec 4) (o : BitVec 12) (s : State) :
    Host.Outcome State Fault Refusal :=
  let m := 46 + k.toNat
  s.tile false (fun _ => 0) (fun _ => true) (fun _ => []) (fun _ => [(regM m, (2 ^ 32 - 1) * 2 ^ (32 * slot.toNat))]) fun s c => do
    let x : Access := ⟨c.rg g + BitVec.ofInt 64 (o.toInt * 4), 4, 4, 0⟩
    let (s, bs) ← s.loadAll [x]
    .ok (s.upd fun c => c.setM m (putBits (c.mreg m) (32 * slot.toNat) 32 (bytesNat bs.flatten)), 1, [x])

/-- The combinations of R180: the tile format, the segments (and accumulator grouping), and the tile registers. -/
def vmtShape (fs : BitVec 4) (t : BitVec 2) : Option (BitVec 4 × Nat × Nat) :=
  let pick (own : BitVec 4) : BitVec 4 := if t = 0 then own else if t = 1 then 0xB else 0xC
  if t = 3 then none
  else match fs.toNat with
  | 0xA => some (pick 0xA, 8, if t = 0 then 4 else 8)
  | 0xB | 0xC => some (pick fs, 4, 4)
  | 0xD | 0xE => some (pick fs, 2, if t = 0 then 4 else 2)
  | 0x1 => if t = 0 then some (fs, 8, 4) else none
  | 0x2 | 0x6 => if t = 0 then some (fs, 4, 4) else none
  | _ => none

/-- A scale slot of m46 or m47 (R178). -/
def Core.scaleSlot (c : Core) (m k : Nat) : Nat := getBits (c.mreg m) (32 * k) 32

/-- The K-elements of segment q that lie below VL (R181). -/
def Core.segment (c : Core) (q : Nat) : List Nat := (List.range 32).filter fun k => decide (32 * q + k < c.vln)

/-- Element (k, col) of weight block q (R180). -/
def Core.weight (c : Core) (y wt q k col : Nat) : Nat := c.tileBits y (8 * (128 * wt * q + 4 * wt * k) + col * wt) wt

/-- An accumulator element after a pass (R181). -/
def Core.vmtElem (c : Core) (d a y : Nat) (ft : BitVec 4) (n : Nat) (mode : Rmode) (scaled : Bool) (i e : Nat) :
    Nat × Flags :=
  let fs := c.fmt
  let wt := fmtWidth ft
  let q := e / 32
  let kb := q / 4
  let acc := c.elem d n 32 i e
  let src (k : Nat) : Nat := c.elem a 1 c.w i (32 * q + k)
  let wgt (k : Nat) : Nat := c.weight y wt q k (e % 32)
  if isFloat fs then
    let nb := if c.w = 4 then 2 else 1
    let scales : List Val := if scaled then [c32 (c.scaleSlot 46 (nb * i + kb)), c32 (c.scaleSlot 47 (2 * y + kb))] else []
    sumRule fmtF32 mode (Addend.of (c32 acc) ::
      (c.segment q).map fun k => product ([valOf fs (src k), valOf ft (wgt k)] ++ scales))
  else
    let x := (c.segment q).foldl (fun x k => x + intOf fs (src k) * intOf ft (wgt k)) (sext acc 32)
    (toField (sat x (-2 ^ 31) (2 ^ 31 - 1)) 32, 0)

/-- What VMT reads besides its accumulator and gates: of each segment of an active element the source elements, the weights,
and with scales their slots (R116, R181). -/
def Core.vmtReads (c : Core) (a y wt : Nat) (scaled : Bool) (m : BitVec 4) : Tbl Nat :=
  let nb := if c.w = 4 then 2 else 1
  let segs := ((c.active m false).map fun x => (x.1, x.2 / 32)).eraseDups
  segs.flatMap fun x =>
    c.elemRegs a 1 c.w ((c.segment x.2).map fun k => (x.1, 32 * x.2 + k))
      ++ ((c.segment x.2).map fun k => tilePart y (8 * (128 * wt * x.2 + 4 * wt * k)) (32 * wt))
      ++ if scaled then [(regM 46, (2 ^ 32 - 1) * 2 ^ (32 * (nb * x.1 + x.2 / 4))),
          (regM 47, (2 ^ 32 - 1) * 2 ^ (32 * (2 * y + x.2 / 4)))] else []

/-- VMT (R180 to R182). -/
def execVmt (d a : BitVec 6) (y r : BitVec 3) (m : BitVec 4) (_ sc : BitVec 1) (t : BitVec 2) (s : State) :
    Host.Outcome State Fault Refusal :=
  let ok (c : Core) : Bool :=
    match vmtShape c.fmt t with
    | none => false
    | some (_, n, regs) =>
      decide (c.grp = 1) && decide (y.toNat + regs ≤ 8) && (isFloat c.fmt || decide (sc = 0))
        && fits a.toNat 1 c.rcn && fits d.toNat n c.rcn
  let shape (c : Core) : BitVec 4 × Nat × Nat := (vmtShape c.fmt t).getD (0, 1, 0)
  let accRegs (c : Core) : Tbl Nat := c.actRegs m false d.toNat (shape c).2.1 32
  s.tile true (fun c => c.vln * c.rcn * 32) ok
    (fun c => c.vmtReads a.toNat y.toNat (fmtWidth (shape c).1) (isFloat c.fmt && decide (sc = 1)) m ++ accRegs c ++ c.gateRegs m)
    accRegs fun s c =>
      let (ft, n, _) := shape c
      .ok (s.upd fun k => k.writeElems d.toNat n 32 (c.active m false) fun i e =>
        c.vmtElem d.toNat a.toNat y.toNat ft n (modeOf r c.frm) (sc = 1) i e, (c.active m false).length, [])

end Sys2Proof.Machine
end

