-- ==== Sys2Proof/Machine/Dispatch.lean ====
section
/-! DEFINITION. The meaning of each operation: one arm per constructor, in the opcode table's order. -/

namespace Sys2Proof.Machine

def exec (i : Instr) (s : State) : Host.Outcome State Fault Refusal :=
  match i with
  | .add d a b => Sys2Proof.Machine.execAdd d a b s
  | .sub d a b => Sys2Proof.Machine.execSub d a b s
  | .and d a b => Sys2Proof.Machine.execAnd d a b s
  | .or d a b => Sys2Proof.Machine.execOr d a b s
  | .xor d a b => Sys2Proof.Machine.execXor d a b s
  | .sll d a b => Sys2Proof.Machine.execSll d a b s
  | .srl d a b => Sys2Proof.Machine.execSrl d a b s
  | .sra d a b => Sys2Proof.Machine.execSra d a b s
  | .rotl d a b => Sys2Proof.Machine.execRotl d a b s
  | .rotr d a b => Sys2Proof.Machine.execRotr d a b s
  | .min d a b => Sys2Proof.Machine.execMin d a b s
  | .max d a b => Sys2Proof.Machine.execMax d a b s
  | .minu d a b => Sys2Proof.Machine.execMinu d a b s
  | .maxu d a b => Sys2Proof.Machine.execMaxu d a b s
  | .slt d a b => Sys2Proof.Machine.execSlt d a b s
  | .sltu d a b => Sys2Proof.Machine.execSltu d a b s
  | .mul d a b => Sys2Proof.Machine.execMul d a b s
  | .mulh d a b => Sys2Proof.Machine.execMulh d a b s
  | .mulhu d a b => Sys2Proof.Machine.execMulhu d a b s
  | .div d a b => Sys2Proof.Machine.execDiv d a b s
  | .divu d a b => Sys2Proof.Machine.execDivu d a b s
  | .rem d a b => Sys2Proof.Machine.execRem d a b s
  | .remu d a b => Sys2Proof.Machine.execRemu d a b s
  | .clz d a => Sys2Proof.Machine.execClz d a s
  | .ctz d a => Sys2Proof.Machine.execCtz d a s
  | .cpop d a => Sys2Proof.Machine.execCpop d a s
  | .addsh d a b xs => Sys2Proof.Machine.execAddsh d a b xs s
  | .slli d a h g => Sys2Proof.Machine.execSlli d a h g s
  | .srli d a h g => Sys2Proof.Machine.execSrli d a h g s
  | .srai d a h g => Sys2Proof.Machine.execSrai d a h g s
  | .ldx d a b z xs => Sys2Proof.Machine.execLdx d a b z xs s
  | .stx d a b z xs => Sys2Proof.Machine.execStx d a b z xs s
  | .addi d a xi => Sys2Proof.Machine.execAddi d a xi s
  | .andi d a k => Sys2Proof.Machine.execAndi d a k s
  | .ori d a k => Sys2Proof.Machine.execOri d a k s
  | .xori d a k => Sys2Proof.Machine.execXori d a k s
  | .slti d a xi => Sys2Proof.Machine.execSlti d a xi s
  | .lui d xi => Sys2Proof.Machine.execLui d xi s
  | .aupc d xi => Sys2Proof.Machine.execAupc d xi s
  | .ld d a z o => Sys2Proof.Machine.execLd d a z o s
  | .st d a z o => Sys2Proof.Machine.execSt d a z o s
  | .jal d o => Sys2Proof.Machine.execJal d o s
  | .jalr d a xi => Sys2Proof.Machine.execJalr d a xi s
  | .crr d c => Sys2Proof.Machine.execCrr d c s
  | .crw d a c => Sys2Proof.Machine.execCrw d a c s
  | .crs d a c => Sys2Proof.Machine.execCrs d a c s
  | .crc d a c => Sys2Proof.Machine.execCrc d a c s
  | .svc c => Sys2Proof.Machine.execSvc c s
  | .brk c => Sys2Proof.Machine.execBrk c s
  | .nop => Sys2Proof.Machine.execNop s
  | .halt => Sys2Proof.Machine.execHalt s
  | .yield => Sys2Proof.Machine.execYield s
  | .wfe => Sys2Proof.Machine.execWfe s
  | .ifence => Sys2Proof.Machine.execIfence s
  | .rett => Sys2Proof.Machine.execRett s
  | .enrg d => Sys2Proof.Machine.execEnrg d s
  | .topo d xi => Sys2Proof.Machine.execTopo d xi s
  | .bany m o => Sys2Proof.Machine.execBany m o s
  | .ball m o => Sys2Proof.Machine.execBall m o s
  | .loop xs o => Sys2Proof.Machine.execLoop xs o s
  | .beq a b o => Sys2Proof.Machine.execBeq a b o s
  | .bne a b o => Sys2Proof.Machine.execBne a b o s
  | .blt a b o => Sys2Proof.Machine.execBlt a b o s
  | .bge a b o => Sys2Proof.Machine.execBge a b o s
  | .bltu a b o => Sys2Proof.Machine.execBltu a b o s
  | .bgeu a b o => Sys2Proof.Machine.execBgeu a b o s
  | .setvl d a r f g => Sys2Proof.Machine.execSetvl d a r f g s
  | .setvlq d r f g => Sys2Proof.Machine.execSetvlq d r f g s
  | .vld v b o m => Sys2Proof.Machine.execVld v b o m s
  | .vlds v b xs m => Sys2Proof.Machine.execVlds v b xs m s
  | .vldx v b x c m => Sys2Proof.Machine.execVldx v b x c m s
  | .vldf v b o m => Sys2Proof.Machine.execVldf v b o m s
  | .vst v b o c m => Sys2Proof.Machine.execVst v b o c m s
  | .vsts v b xs c m => Sys2Proof.Machine.execVsts v b xs c m s
  | .vstx v b x c m => Sys2Proof.Machine.execVstx v b x c m s
  | .vldz v b xs m => Sys2Proof.Machine.execVldz v b xs m s
  | .vstz v b xs c m => Sys2Proof.Machine.execVstz v b xs c m s
  | .vldm v b o => Sys2Proof.Machine.execVldm v b o s
  | .vstm v b o => Sys2Proof.Machine.execVstm v b o s
  | .vcvt d a t xs m c r => Sys2Proof.Machine.execVcvt d a t xs m c r s
  | .vmv d a m c n => Sys2Proof.Machine.execVmv d a m c n s
  | .vmvx d a c => Sys2Proof.Machine.execVmvx d a c s
  | .vbcast d xs m n => Sys2Proof.Machine.execVbcast d xs m n s
  | .vfsqrt d a m c n => Sys2Proof.Machine.execVfsqrt d a m c n s
  | .vfrcp d a m c n => Sys2Proof.Machine.execVfrcp d a m c n s
  | .vfrsq d a m c n => Sys2Proof.Machine.execVfrsq d a m c n s
  | .vfexp2 d a m c n => Sys2Proof.Machine.execVfexp2 d a m c n s
  | .vflog2 d a m c n => Sys2Proof.Machine.execVflog2 d a m c n s
  | .vfclass d a m c n => Sys2Proof.Machine.execVfclass d a m c n s
  | .vfkey d a m c n => Sys2Proof.Machine.execVfkey d a m c n s
  | .vredsum d a m c n => Sys2Proof.Machine.execVredsum d a m c n s
  | .vredmax d a m c n => Sys2Proof.Machine.execVredmax d a m c n s
  | .vredmin d a m c n => Sys2Proof.Machine.execVredmin d a m c n s
  | .vfredsum d a m c n => Sys2Proof.Machine.execVfredsum d a m c n s
  | .vfredmax d a m c n => Sys2Proof.Machine.execVfredmax d a m c n s
  | .mand d a b => Sys2Proof.Machine.execMand d a b s
  | .mor d a b => Sys2Proof.Machine.execMor d a b s
  | .mxor d a b => Sys2Proof.Machine.execMxor d a b s
  | .mandn d a b => Sys2Proof.Machine.execMandn d a b s
  | .mnot d a => Sys2Proof.Machine.execMnot d a s
  | .mset d => Sys2Proof.Machine.execMset d s
  | .mfirst d a => Sys2Proof.Machine.execMfirst d a s
  | .mpop d a => Sys2Proof.Machine.execMpop d a s
  | .mpopq a => Sys2Proof.Machine.execMpopq a s
  | .miota d a => Sys2Proof.Machine.execMiota d a s
  | .vsplit w => Sys2Proof.Machine.execVsplit w s
  | .vjoin => Sys2Proof.Machine.execVjoin s
  | .repf n v g xs => Sys2Proof.Machine.execRepf n v g xs s
  | .vmerge d a b m c e => Sys2Proof.Machine.execVmerge d a b m c e s
  | .vslideup d a xs m c n => Sys2Proof.Machine.execVslideup d a xs m c n s
  | .vslidedn d a xs m c n => Sys2Proof.Machine.execVslidedn d a xs m c n s
  | .vperm d a b m c e => Sys2Proof.Machine.execVperm d a b m c e s
  | .vcompress d a m c n => Sys2Proof.Machine.execVcompress d a m c n s
  | .vincx d a b m c e => Sys2Proof.Machine.execVincx d a b m c e s
  | .vidx d a b m n => Sys2Proof.Machine.execVidx d a b m n s
  | .vaddVv d a b m c e => Sys2Proof.Machine.execVaddVv d a b m c e s
  | .vsubVv d a b m c e => Sys2Proof.Machine.execVsubVv d a b m c e s
  | .vmulVv d a b m c e => Sys2Proof.Machine.execVmulVv d a b m c e s
  | .vmulhVv d a b m c e => Sys2Proof.Machine.execVmulhVv d a b m c e s
  | .vaddVs d a xs m c n => Sys2Proof.Machine.execVaddVs d a xs m c n s
  | .vsubVs d a xs m c n => Sys2Proof.Machine.execVsubVs d a xs m c n s
  | .vmulVs d a xs m c n => Sys2Proof.Machine.execVmulVs d a xs m c n s
  | .vmulhVs d a xs m c n => Sys2Proof.Machine.execVmulhVs d a xs m c n s
  | .vaddVi d a k m c n => Sys2Proof.Machine.execVaddVi d a k m c n s
  | .vsubVi d a k m c n => Sys2Proof.Machine.execVsubVi d a k m c n s
  | .vmulVi d a k m c n => Sys2Proof.Machine.execVmulVi d a k m c n s
  | .vmulhVi d a k m c n => Sys2Proof.Machine.execVmulhVi d a k m c n s
  | .vmacVv d a b m c e => Sys2Proof.Machine.execVmacVv d a b m c e s
  | .vminVv d a b m c e => Sys2Proof.Machine.execVminVv d a b m c e s
  | .vmaxVv d a b m c e => Sys2Proof.Machine.execVmaxVv d a b m c e s
  | .vabsdVv d a b m c e => Sys2Proof.Machine.execVabsdVv d a b m c e s
  | .vmacVs d a xs m c n => Sys2Proof.Machine.execVmacVs d a xs m c n s
  | .vminVs d a xs m c n => Sys2Proof.Machine.execVminVs d a xs m c n s
  | .vmaxVs d a xs m c n => Sys2Proof.Machine.execVmaxVs d a xs m c n s
  | .vabsdVs d a xs m c n => Sys2Proof.Machine.execVabsdVs d a xs m c n s
  | .vmacVi d a k m c n => Sys2Proof.Machine.execVmacVi d a k m c n s
  | .vminVi d a k m c n => Sys2Proof.Machine.execVminVi d a k m c n s
  | .vmaxVi d a k m c n => Sys2Proof.Machine.execVmaxVi d a k m c n s
  | .vabsdVi d a k m c n => Sys2Proof.Machine.execVabsdVi d a k m c n s
  | .vandVv d a b m c e => Sys2Proof.Machine.execVandVv d a b m c e s
  | .vorVv d a b m c e => Sys2Proof.Machine.execVorVv d a b m c e s
  | .vxorVv d a b m c e => Sys2Proof.Machine.execVxorVv d a b m c e s
  | .vsllVv d a b m c e => Sys2Proof.Machine.execVsllVv d a b m c e s
  | .vandVs d a xs m c n => Sys2Proof.Machine.execVandVs d a xs m c n s
  | .vorVs d a xs m c n => Sys2Proof.Machine.execVorVs d a xs m c n s
  | .vxorVs d a xs m c n => Sys2Proof.Machine.execVxorVs d a xs m c n s
  | .vsllVs d a xs m c n => Sys2Proof.Machine.execVsllVs d a xs m c n s
  | .vandVi d a k m c n => Sys2Proof.Machine.execVandVi d a k m c n s
  | .vorVi d a k m c n => Sys2Proof.Machine.execVorVi d a k m c n s
  | .vxorVi d a k m c n => Sys2Proof.Machine.execVxorVi d a k m c n s
  | .vsllVi d a k m c n => Sys2Proof.Machine.execVsllVi d a k m c n s
  | .vsrlVv d a b m c e => Sys2Proof.Machine.execVsrlVv d a b m c e s
  | .vsraVv d a b m c e => Sys2Proof.Machine.execVsraVv d a b m c e s
  | .vsaddVv d a b m c e => Sys2Proof.Machine.execVsaddVv d a b m c e s
  | .vssubVv d a b m c e => Sys2Proof.Machine.execVssubVv d a b m c e s
  | .vsrlVs d a xs m c n => Sys2Proof.Machine.execVsrlVs d a xs m c n s
  | .vsraVs d a xs m c n => Sys2Proof.Machine.execVsraVs d a xs m c n s
  | .vsaddVs d a xs m c n => Sys2Proof.Machine.execVsaddVs d a xs m c n s
  | .vssubVs d a xs m c n => Sys2Proof.Machine.execVssubVs d a xs m c n s
  | .vsrlVi d a k m c n => Sys2Proof.Machine.execVsrlVi d a k m c n s
  | .vsraVi d a k m c n => Sys2Proof.Machine.execVsraVi d a k m c n s
  | .vsaddVi d a k m c n => Sys2Proof.Machine.execVsaddVi d a k m c n s
  | .vssubVi d a k m c n => Sys2Proof.Machine.execVssubVi d a k m c n s
  | .vwaddVv d a b m c e => Sys2Proof.Machine.execVwaddVv d a b m c e s
  | .vwmulVv d a b m c e => Sys2Proof.Machine.execVwmulVv d a b m c e s
  | .vnsrVv d a b m c e => Sys2Proof.Machine.execVnsrVv d a b m c e s
  | .vbextVv d a b m c e => Sys2Proof.Machine.execVbextVv d a b m c e s
  | .vwaddVs d a xs m c n => Sys2Proof.Machine.execVwaddVs d a xs m c n s
  | .vwmulVs d a xs m c n => Sys2Proof.Machine.execVwmulVs d a xs m c n s
  | .vnsrVs d a xs m c n => Sys2Proof.Machine.execVnsrVs d a xs m c n s
  | .vbextVs d a xs m c n => Sys2Proof.Machine.execVbextVs d a xs m c n s
  | .vwaddVi d a k m c n => Sys2Proof.Machine.execVwaddVi d a k m c n s
  | .vwmulVi d a k m c n => Sys2Proof.Machine.execVwmulVi d a k m c n s
  | .vnsrVi d a k m c n => Sys2Proof.Machine.execVnsrVi d a k m c n s
  | .vbextVi d a k m c n => Sys2Proof.Machine.execVbextVi d a k m c n s
  | .vcmpVv d a b m c e q => Sys2Proof.Machine.execVcmpVv d a b m c e q s
  | .vcmpVs d a xs m c n q => Sys2Proof.Machine.execVcmpVs d a xs m c n q s
  | .vcmpVi d a k m c n q => Sys2Proof.Machine.execVcmpVi d a k m c n q s
  | .vfaddVv d a b m c e => Sys2Proof.Machine.execVfaddVv d a b m c e s
  | .vfsubVv d a b m c e => Sys2Proof.Machine.execVfsubVv d a b m c e s
  | .vfmulVv d a b m c e => Sys2Proof.Machine.execVfmulVv d a b m c e s
  | .vfmaVv d a b m c e => Sys2Proof.Machine.execVfmaVv d a b m c e s
  | .vfaddVs d a xs m c n => Sys2Proof.Machine.execVfaddVs d a xs m c n s
  | .vfsubVs d a xs m c n => Sys2Proof.Machine.execVfsubVs d a xs m c n s
  | .vfmulVs d a xs m c n => Sys2Proof.Machine.execVfmulVs d a xs m c n s
  | .vfmaVs d a xs m c n => Sys2Proof.Machine.execVfmaVs d a xs m c n s
  | .vfdivVv d a b m c e => Sys2Proof.Machine.execVfdivVv d a b m c e s
  | .vfminVv d a b m c e => Sys2Proof.Machine.execVfminVv d a b m c e s
  | .vfmaxVv d a b m c e => Sys2Proof.Machine.execVfmaxVv d a b m c e s
  | .vfdivVs d a xs m c n => Sys2Proof.Machine.execVfdivVs d a xs m c n s
  | .vfminVs d a xs m c n => Sys2Proof.Machine.execVfminVs d a xs m c n s
  | .vfmaxVs d a xs m c n => Sys2Proof.Machine.execVfmaxVs d a xs m c n s
  | .vfcmpVv d a b m c e q => Sys2Proof.Machine.execVfcmpVv d a b m c e q s
  | .vfcmpVs d a xs m c n q => Sys2Proof.Machine.execVfcmpVs d a xs m c n q s
  | .tld y a b => Sys2Proof.Machine.execTld y a b s
  | .tldt y a b => Sys2Proof.Machine.execTldt y a b s
  | .tldc y a b => Sys2Proof.Machine.execTldc y a b s
  | .tst y a b => Sys2Proof.Machine.execTst y a b s
  | .tstc y a b => Sys2Proof.Machine.execTstc y a b s
  | .tmvr y v xi t r d => Sys2Proof.Machine.execTmvr y v xi t r d s
  | .tmvc y v xi t r => Sys2Proof.Machine.execTmvc y v xi t r s
  | .tzero y => Sys2Proof.Machine.execTzero y s
  | .scld g k xs o => Sys2Proof.Machine.execScld g k xs o s
  | .vmt d a y r m c xs t => Sys2Proof.Machine.execVmt d a y r m c xs t s
  | .amoadd d a b o p z => Sys2Proof.Machine.execAmoadd d a b o p z s
  | .amoswap d a b o p z => Sys2Proof.Machine.execAmoswap d a b o p z s
  | .amocas d a b o p z => Sys2Proof.Machine.execAmocas d a b o p z s
  | .amomin d a b o p z => Sys2Proof.Machine.execAmomin d a b o p z s
  | .amomax d a b o p z => Sys2Proof.Machine.execAmomax d a b o p z s
  | .amoand d a b o p z => Sys2Proof.Machine.execAmoand d a b o p z s
  | .amoor d a b o p z => Sys2Proof.Machine.execAmoor d a b o p z s
  | .amoxor d a b o p z => Sys2Proof.Machine.execAmoxor d a b o p z s
  | .amofadd d a b o p => Sys2Proof.Machine.execAmofadd d a b o p s
  | .ldacq d a p z => Sys2Proof.Machine.execLdacq d a p z s
  | .strel a b p z => Sys2Proof.Machine.execStrel a b p z s
  | .fence k p => Sys2Proof.Machine.execFence k p s
  | .boinit a b => Sys2Proof.Machine.execBoinit a b s
  | .boexp d a b => Sys2Proof.Machine.execBoexp d a b s
  | .boadd d a b => Sys2Proof.Machine.execBoadd d a b s
  | .boarr d a b => Sys2Proof.Machine.execBoarr d a b s
  | .bowait d a b => Sys2Proof.Machine.execBowait d a b s
  | .cbar => Sys2Proof.Machine.execCbar s
  | .tbar => Sys2Proof.Machine.execTbar s
  | .scopy d a b => Sys2Proof.Machine.execScopy d a b s
  | .sfill d a b => Sys2Proof.Machine.execSfill d a b s
  | .sgath d a b => Sys2Proof.Machine.execSgath d a b s
  | .sscat d a b => Sys2Proof.Machine.execSscat d a b s
  | .launch d a b => Sys2Proof.Machine.execLaunch d a b s
  | .dtld a b => Sys2Proof.Machine.execDtld a b s
  | .cbload d a x opt => Sys2Proof.Machine.execCbload d a x opt s
  | .tbuild d a x opt => Sys2Proof.Machine.execTbuild d a x opt s
  | .bdtld d a x opt => Sys2Proof.Machine.execBdtld d a x opt s
  | .lkacc d a x opt => Sys2Proof.Machine.execLkacc d a x opt s
  | .lkrd d a x opt => Sys2Proof.Machine.execLkrd d a x opt s
  | .lkclr d a x opt => Sys2Proof.Machine.execLkclr d a x opt s
  | .rcopy d a x opt => Sys2Proof.Machine.execRcopy d a x opt s
  | .rfill d a x opt => Sys2Proof.Machine.execRfill d a x opt s
  | .sealarm d a x opt => Sys2Proof.Machine.execSealarm d a x opt s
  | .sealoff d a x opt => Sys2Proof.Machine.execSealoff d a x opt s
  | .stkpass d a x opt => Sys2Proof.Machine.execStkpass d a x opt s
  | .stkqry d a opt => Sys2Proof.Machine.execStkqry d a opt s
  | .stripClose c => Sys2Proof.Machine.execStripClose c s
  | .elementCauseTrap c t => Sys2Proof.Machine.execElementCauseTrap c t s
  | .asyncCauseTrap c => Sys2Proof.Machine.execAsyncCauseTrap c s
  | .wfeWake c => Sys2Proof.Machine.execWfeWake c s
  | .wfeTimeout c => Sys2Proof.Machine.execWfeTimeout c s
  | .bowaitReturn c => Sys2Proof.Machine.execBowaitReturn c s
  | .barrierRelease c => Sys2Proof.Machine.execBarrierRelease c s
  | .setvlqPopResume c => Sys2Proof.Machine.execSetvlqPopResume c s
  | .engineQueueRoom c => Sys2Proof.Machine.execEngineQueueRoom c s
  | .sequencerRoom c => Sys2Proof.Machine.execSequencerRoom c s
  | .sideLogRoom c => Sys2Proof.Machine.execSideLogRoom c s
  | .sealWaitDone c => Sys2Proof.Machine.execSealWaitDone c s
  | .gateRelease c => Sys2Proof.Machine.execGateRelease c s
  | .laneReclaimRequest victims => Sys2Proof.Machine.execLaneReclaimRequest victims s
  | .reclaimTimeout c => Sys2Proof.Machine.execReclaimTimeout c s
  | .preemptRequest m => Sys2Proof.Machine.execPreemptRequest m s
  | .forcedStop c => Sys2Proof.Machine.execForcedStop c s
  | .gangSaveDone m => Sys2Proof.Machine.execGangSaveDone m s
  | .crewResume m ps => Sys2Proof.Machine.execCrewResume m ps s
  | .streamCmdPerform die p id n => Sys2Proof.Machine.execStreamCmdPerform die p id n s
  | .bankCmdStart stack id => Sys2Proof.Machine.execBankCmdStart stack id s
  | .cbloadDone stack id => Sys2Proof.Machine.execCbloadDone stack id s
  | .bdtldDone stack id => Sys2Proof.Machine.execBdtldDone stack id s
  | .lkclrDone stack id => Sys2Proof.Machine.execLkclrDone stack id s
  | .tbuildTableDone stack id => Sys2Proof.Machine.execTbuildTableDone stack id s
  | .lkaccSegmentEnd stack id bank => Sys2Proof.Machine.execLkaccSegmentEnd stack id bank s
  | .lkrdDone stack id => Sys2Proof.Machine.execLkrdDone stack id s
  | .rcopyGranule stack id xi => Sys2Proof.Machine.execRcopyGranule stack id xi s
  | .rfillGranule stack id xi => Sys2Proof.Machine.execRfillGranule stack id xi s
  | .parkedCmdRejoin stack id => Sys2Proof.Machine.execParkedCmdRejoin stack id s
  | .lockageCmdsDrained stack => Sys2Proof.Machine.execLockageCmdsDrained stack s
  | .lockageWritesDrained stack => Sys2Proof.Machine.execLockageWritesDrained stack s
  | .lockageRecallDone stack => Sys2Proof.Machine.execLockageRecallDone stack s
  | .lockageBroadcastDone stack => Sys2Proof.Machine.execLockageBroadcastDone stack s
  | .redirectRetry c => Sys2Proof.Machine.execRedirectRetry c s
  | .nonhomeEviction die line => Sys2Proof.Machine.execNonhomeEviction die line s
  | .pageWalk die p va => Sys2Proof.Machine.execPageWalk die p va s
  | .tlbcmdWrite die v => Sys2Proof.Machine.execTlbcmdWrite die v s
  | .shootdownDone die => Sys2Proof.Machine.execShootdownDone die s
  | .slreplayWrite die v => Sys2Proof.Machine.execSlreplayWrite die v s
  | .hctlResume die => Sys2Proof.Machine.execHctlResume die s
  | .hctlForward die => Sys2Proof.Machine.execHctlForward die s
  | .hctlEndCrew die => Sys2Proof.Machine.execHctlEndCrew die s
  | .rtEntryWrite die bcast xi high v => Sys2Proof.Machine.execRtEntryWrite die bcast xi high v s
  | .hartContextWrite die off v => Sys2Proof.Machine.execHartContextWrite die off v s
  | .fqtailWrite die v => Sys2Proof.Machine.execFqtailWrite die v s
  | .regWrite die bcast off v => Sys2Proof.Machine.execRegWrite die bcast off v s
  | .powerGood temps => Sys2Proof.Machine.execPowerGood temps s
  | .romComplete => Sys2Proof.Machine.execRomComplete s
  | .heatExit temps => Sys2Proof.Machine.execHeatExit temps s
  | .trainingTempCheck temps => Sys2Proof.Machine.execTrainingTempCheck temps s
  | .linksDone => Sys2Proof.Machine.execLinksDone s
  | .loadDone => Sys2Proof.Machine.execLoadDone s
  | .dramTrainDone => Sys2Proof.Machine.execDramTrainDone s
  | .mapDone => Sys2Proof.Machine.execMapDone s
  | .bootHello f => Sys2Proof.Machine.execBootHello f s
  | .bootBegin f => Sys2Proof.Machine.execBootBegin f s
  | .bootData f => Sys2Proof.Machine.execBootData f s
  | .bootEnd f => Sys2Proof.Machine.execBootEnd f s
  | .bootStatus f => Sys2Proof.Machine.execBootStatus f s
  | .bootAttest f => Sys2Proof.Machine.execBootAttest f s
  | .bootUnknownOp f => Sys2Proof.Machine.execBootUnknownOp f s
  | .securityAlarm trigger => Sys2Proof.Machine.execSecurityAlarm trigger s
  | .rdmaWrite q data => Sys2Proof.Machine.execRdmaWrite q data s
  | .rdmaRead q len => Sys2Proof.Machine.execRdmaRead q len s
  | .rdmaCompareSwap q cmp swap => Sys2Proof.Machine.execRdmaCompareSwap q cmp swap s
  | .rdmaFetchAdd q add => Sys2Proof.Machine.execRdmaFetchAdd q add s
  | .rdmaUnsupportedOp q => Sys2Proof.Machine.execRdmaUnsupportedOp q s
  | .nonRcPacket port => Sys2Proof.Machine.execNonRcPacket port s
  | .ecnMarkedPacket qp => Sys2Proof.Machine.execEcnMarkedPacket qp s
  | .cnpReceived qp => Sys2Proof.Machine.execCnpReceived qp s
  | .cmReq qp port => Sys2Proof.Machine.execCmReq qp port s
  | .cmRep qp port => Sys2Proof.Machine.execCmRep qp port s
  | .cmRtu qp => Sys2Proof.Machine.execCmRtu qp s
  | .cmRej qp => Sys2Proof.Machine.execCmRej qp s
  | .cmDreq qp => Sys2Proof.Machine.execCmDreq qp s
  | .cmDrep qp => Sys2Proof.Machine.execCmDrep qp s
  | .outboundResponse id data => Sys2Proof.Machine.execOutboundResponse id data s
  | .outboundNak id => Sys2Proof.Machine.execOutboundNak id s
  | .configRequest => Sys2Proof.Machine.execConfigRequest s
  | .queueEnable q d0 d1 => Sys2Proof.Machine.execQueueEnable q d0 d1 s
  | .queueDisable q => Sys2Proof.Machine.execQueueDisable q s
  | .slotRead q => Sys2Proof.Machine.execSlotRead q s
  | .admissionDecision => Sys2Proof.Machine.execAdmissionDecision s
  | .placingComplete m => Sys2Proof.Machine.execPlacingComplete m s
  | .backfillBoundExpiry m => Sys2Proof.Machine.execBackfillBoundExpiry m s
  | .memberComplete m => Sys2Proof.Machine.execMemberComplete m s
  | .ceilingCommand => Sys2Proof.Machine.execCeilingCommand s
  | .mgmtPoll => Sys2Proof.Machine.execMgmtPoll s
  | .telemetryWrite t => Sys2Proof.Machine.execTelemetryWrite t s
  | .energyCharge die e => Sys2Proof.Machine.execEnergyCharge die e s
  | .drainHalve die => Sys2Proof.Machine.execDrainHalve die s
  | .drainDouble die => Sys2Proof.Machine.execDrainDouble die s
  | .heatMoveCheck temps => Sys2Proof.Machine.execHeatMoveCheck temps s
  | .thermalBudgetStep die temps => Sys2Proof.Machine.execThermalBudgetStep die temps s
  | .hardThermalLimit die temps => Sys2Proof.Machine.execHardThermalLimit die temps s
  | .thermalRecover die temps => Sys2Proof.Machine.execThermalRecover die temps s
  | .coldHeater temps => Sys2Proof.Machine.execColdHeater temps s
  | .laneGroupGate die p group => Sys2Proof.Machine.execLaneGroupGate die p group s
  | .laneGroupWake die p group => Sys2Proof.Machine.execLaneGroupWake die p group s
  | .supplyDroop die cycles => Sys2Proof.Machine.execSupplyDroop die cycles s
  | .voltageGuardUpdate die temps => Sys2Proof.Machine.execVoltageGuardUpdate die temps s
  | .linkRetrain die edge module ok => Sys2Proof.Machine.execLinkRetrain die edge module ok s
  | .dramRetrain stack group start => Sys2Proof.Machine.execDramRetrain stack group start s
  | .dramScrub => Sys2Proof.Machine.execDramScrub s
  | .sramScrub => Sys2Proof.Machine.execSramScrub s
  | .eccError e => Sys2Proof.Machine.execEccError e s
  | .dieDead die => Sys2Proof.Machine.execDieDead die s
  | .illegalInstruction w => Sys2Proof.Machine.execIllegalInstruction w s
  | .fetchFault t => Sys2Proof.Machine.execFetchFault t s
  | .powerOff => Sys2Proof.Machine.execPowerOff s
  | .localAckTimeout qp => Sys2Proof.Machine.execLocalAckTimeout qp s
  | .pfcPauseFrame port prio pause => Sys2Proof.Machine.execPfcPauseFrame port prio pause s
  | .cmMraTimeout qp => Sys2Proof.Machine.execCmMraTimeout qp s
  | .linkFlitError die lost => Sys2Proof.Machine.execLinkFlitError die lost s
  | .coldHeaterStop temps => Sys2Proof.Machine.execColdHeaterStop temps s

end Sys2Proof.Machine
end

