-- ==== Sys2Proof/Machine/Place.lean ====
section
/-! DEFINITION. Putting one instruction where a core fetches next (log 8): what stands for loading a program. -/

namespace Sys2Proof.Machine

/-- The member, crew and hart that run a placed instruction when no core has the turn. -/
def placeMember : MemberId := ⟨0, 0, 0⟩

def placeCrew : Crew where
  ref := ⟨placeMember, 0⟩
  die := 0
  cells := [(0, 0)]
  resident := true
  placedAt := 0
  movedAt := 0
  stoodAt := 0
  save := 0
  energy := 0
  log := []
  streams := []
  held := []
  stops := []
  phys := []
  halted := []

def placeHart : Core :=
  { Core.start (.hart 0 0 0) (some (⟨placeMember, 0⟩, 0)) .user 0x100000000 0 16 with
    crewReg := 0x100010001
    holdsize := 0x80000 }

/-- The state with a core that can take the turn: the one that has it, else a crew of one hart. -/
def State.withCore (s : State) : State :=
  match s.core? s.cur with
  | some _ => s
  | none =>
    { s with
      cur := placeHart.id
      cores := s.cores.filter (fun c => !decide (c.id = placeHart.id)) ++ [placeHart]
      members := ⟨placeMember, .resident, [placeCrew], 0, false, [], 0, [], [], 0, false⟩ ::
        s.members.filter fun m => !decide (m.id = placeMember) }

/-- The entry that maps a fetch address that does not translate: a cacheable R page of stack 0. -/
def placeLeaf : Word := 0x107F

/-- The core made ready to fetch at its program counter: nothing waits, nothing is pending. -/
def Core.readyToFetch (c : Core) : Core :=
  { c with
    pc := c.pc &&& ~~~(3 : Word)
    split := .off
    wait := .none
    parked := none
    pending := ⟨none, none, false⟩
    frame := none
    stepwise := false
    around := false
    stopAsked := false
    stopped := false
    fetched := []
    remote := []
    readySince := 0 }

/-- The core whose turn it is is the next of its cell to issue (R250). -/
def State.nextToIssue (s : State) : State :=
  if s.cores.any fun c => decide (c.id = s.cur) && c.isSteward then s
  else s.modCell s.cur.cell fun y => { y with lastSlot := (s.cur.slot + 3) % 4 }

/-- The place the core fetches from, with an entry put into its TLB where its program counter does not translate. -/
def State.fetchPlace (s : State) : State × Place :=
  let c := s.me
  match s.resolve false .fetch c.pc 4 4 with
  | .ok (s, p) => (s, p)
  | .error _ =>
    let va := if bits c.pc 63 52 = 0 && decide (2 ^ 32 ≤ c.pc.toNat) then c.pc else 0x100000000
    let e : TlbEntry := ⟨false, bits va 51 16, placeLeaf⟩
    let s := s.upd fun c => { c with pc := va }
    (s.modCell c.id.cell fun y => { y with tlb := e :: y.tlb.filter fun x => x.huge || !decide (x.vpn = e.vpn) },
      ⟨leafPa false placeLeaf va, some placeLeaf⟩)

/-- The state with a word stored where the core whose turn it is fetches next, at home and in no other copy, and that
core to issue next. -/
def State.placeWord (s : State) (w : Nat) : State :=
  let s := s.withCore
  let s := ({ s with schedule := [.issue s.cur] }.upd Core.readyToFetch).nextToIssue
  let (s, p) := s.fetchPlace
  if isRemote p.loc then
    s.upd fun c => { c with fetched := tblSet p.loc (BitVec.ofNat 32 w) [] }
  else
  let s := s.setStack (stackOf p.loc) { s.stack (stackOf p.loc) with lock := none, retrain := [], orphan := false }
  let s := s.dropNonHome s.cur.die (p.loc / 64)
  let s := (s.copies s.cur.die p).foldl (fun s a => s.setLocBytes a (whole (natBytes 4 w))) s
  s.upd fun c => { c with code := s.codeView }

end Sys2Proof.Machine
end

