-- ==== Sys2Proof/Machine/Schedule.lean ====
section
/-! DEFINITION. Whose turn it is, and what a turn runs (R244, R250, R251, R255; log 4). -/

namespace Sys2Proof.Machine

/-- What the turn of a core runs: an encoded instruction, or a state that the turn has already made. -/
inductive Turn where
  | run (i : Instr) (s : State)
  | done (s : State)
  deriving DecidableEq, Repr

/-- The instruction at the program counter, fetched and decoded, or the trap of fetching or decoding it (R69, R105). -/
def State.fetchTurn (s : State) : Turn :=
  match s.fetch with
  | (s, .fault t) => .done (s.fetchTrap t)
  | (s, .wait w) => .done (s.upd fun c => c.waitFor w)
  | (s, .word w) =>
    match decode w.toNat with
    | .ok i => .run i s
    | .error _ => .done s.illegalTrap

/-- What a ready core runs: the next word of its repeat frame, or the instruction at its program counter. -/
def State.issueTurn (s : State) : Turn :=
  match s.me.frame with
  | some f =>
    match f.instr with
    | some i => .run i s
    | none => .done s
  | none => s.fetchTurn

/-- A pending cause is taken before the next instruction issues; an instruction that has asked remote memory has issued
(R87, R386). -/
def Core.asyncNow (c : Core) : Bool := c.asyncDue && !c.asksRemote

/-- A steward core that a machine interrupt is pending for and that takes it (R361), between instructions and outside repeat
frames (R167). -/
def Core.interrupted (c : Core) : Bool := c.isSteward && c.st.mip && c.st.mie && c.frame.isNone && !c.asksRemote

/-- The turn of the core `s.cur`, which is there and not split, or split with its lane chosen. A wait is looked at again; one
that holds no instruction is over, and so is that of the gate once it opens, and the instruction issues. -/
def State.coreTurn (s : State) : Turn :=
  let c := s.me
  if c.interrupted then .done (s.upd Core.machineInterrupt)
  else if c.asyncNow then .done s.asyncTrap
  else if c.split.on then
    if c.split.wfe.getLsbD c.split.lane then .done s.wfeWake else s.issueTurn
  else
    match c.wait with
    | .none => s.issueTurn
    | .lqPush | .replay | .covered _ _ _ | .scoreboard _ _ _ | .lockage _ | .remote _ | .retrain _ _ | .gate _ =>
      if s.wakeable c then s.wake.issueTurn else .done s
    | .wfe | .phase _ _ _ _ | .barrier _ _ _ | .lqPop _ _ _ _ | .engine _ _ _ _ | .sequencer _ _ _ _ _ | .sideLog
    | .seal _ _ _ _ => .done (if s.wakeable c then s.wake else s)

/-- The turn of a core (R250, R251): a parked or stopped one does nothing, nor one at a natural stop point that it is asked to
stop at; a split hart issues from its next lane. -/
def State.turnOf (s : State) (id : CoreId) : Turn :=
  match s.core? id with
  | none => .done s
  | some c =>
    let s := { s with cur := id }
    if c.stopped || c.parked.isSome || (c.stopAsked && c.atStop) then .done s
    else if c.split.on then
      match s.nextLane c with
      | none => .done (if c.asyncNow then s.asyncTrap else s)
      | some j => (s.upd fun c => { c with split := { c.split with lane := j }, laneWaits := tblErase j.val c.laneWaits }).coreTurn
    else s.coreTurn

/-- The harts that are asked to stop and stand at a natural stop point stop there, outside the slots of their cells (R250,
R255). -/
def State.stopHarts (s : State) : State :=
  (s.cores.filter fun c => c.stopAsked && !c.stopped && c.atStop).foldl (fun s c =>
    { (({ s with cur := c.id }.tryStop).getD s) with cur := s.cur }) s

/-- What goes on by itself as soon as it can: caches keep their size, harts stop, requests of hosts and of stewards, replays,
late writes, fault records and Active segments that waited go on, dependences of launches that whatever write has met are noticed
(R207), and completed batches that waited go on (log 4). -/
def State.agents (s : State) : State :=
  s.fitCaches.stopHarts.rdmaResume.serveControl.replayAsked.settleLate.settleFaults.deliverAll.settleDeps.settleBatches

/-- A cell's dispatch bucket drained by so many units (R252). -/
def Cell.drained (y : Cell) (units : Nat) : Cell := if y.bucket = 0 then y else { y with bucket := y.bucket - units }

/-- The units that a cell of a die drains in `n` cycles (R404): its share, one in 64, of the die's drain, of which 0 is read
as 1 (log 25). -/
def Die.drainUnits (x : Die) (n : Nat) : Nat := n * Nat.max 1 x.drain.toNat / 64

/-- Time passes, buckets drain, and the counter of free values moves on (R29, R252; logs 1 and 4). -/
def State.tick (s : State) : State :=
  { s with
    time := s.time + Config.elapsed s.ticks
    ticks := s.ticks + 1
    cells := s.cells.map fun y => (y.1, y.2.drained ((s.die (y.1 / 64)).drainUnits (Config.cycles s.ticks))) }

/-- What a step does. -/
inductive Chosen where
  | event (i : Instr) (s : State)
  | turn (t : Turn)
  deriving DecidableEq, Repr

/-- A core that may be chosen to issue (R250); none in HEAT, in which no access to the stacks is made (R350). -/
def State.ready (s : State) (c : Core) : Bool :=
  !s.inHeat && !c.stopped && c.parked.isNone && !(c.stopAsked && c.atStop)
    && (c.interrupted || c.asyncNow || (if c.split.on then (s.nextLane c).isSome else s.wakeable c))

/-- The cores that may issue by R250, one for each cell or steward that has a ready one. -/
def State.candidatesToIssue (s : State) : List Core :=
  let rs := s.cores.filter s.ready
  rs.filter fun c =>
    let mates := rs.filter fun k => k.id.cell = c.id.cell && k.isSteward = c.isSteward
    let best := mates.foldl (earlier (s.cell c.id.cell).lastSlot) c
    decide (best.id = c.id)

/-- The core that issues by default (log 4). -/
def State.pickCore (s : State) : Option (CoreId × State) :=
  match s.candidatesToIssue with
  | [] => none
  | [c] => some (c.id, s)
  | c :: rest =>
    some (((c :: rest)[Config.nextCell s.ticks % (rest.length + 1)]?.getD c).id, { s with ticks := s.ticks + 1 })

/-- Ready times before a step: a core that is not ready starts to wait anew (R250). -/
def State.refresh (s : State) : State :=
  { s with
    turn := s.turn + 1
    cores := s.cores.map fun c => if s.ready c then c else { c with readySince := s.turn + 1 } }

/-- A core takes the turn: its slot is its cell's last, and its ready time starts anew (R250). -/
def State.slotTaken (s : State) (id : CoreId) : State :=
  let s := s.modCore id fun c => { c with readySince := s.turn }
  if s.cores.any fun c => decide (c.id = id) && c.isSteward then s
    else s.modCell id.cell fun y => { y with lastSlot := id.slot }

/-- A core's turn, the turn counted (R250). -/
def State.issueNow (s : State) (id : CoreId) : Turn := (s.slotTaken id).turnOf id

/-- What the panel's other agents may do on their own (log 4). -/
inductive Act where
  | stream (d p id : Nat)
  | bank (stack id : Nat)
  | rejoin (stack id : Nat)
  | lockage (stack : Nat)
  | shootdown (die : Nat)
  | slot (q : Nat)
  | admitNext
  | placed (m : MemberId)
  | save (m : MemberId)
  | complete (m : MemberId)
  | resume
  deriving DecidableEq, Repr

/-- The acts that have something to act on. -/
def State.acts (s : State) : List Act :=
  (s.cells.flatMap fun (y : Nat × Cell) => y.2.queue.map fun x => .stream (y.1 / 64) (y.1 % 64) x.id)
    ++ (s.stackTbl.flatMap fun (y : Nat × Stack) => (y.2.seqr.map fun x => .bank y.1 x.id) ++ (y.2.parked.map fun x => .rejoin y.1 x.id)
        ++ (if y.2.lock.isSome then [.lockage y.1] else []))
    ++ ((s.dies.filter fun (y : Nat × Die) => y.2.tlbBusy).map fun y => .shootdown y.1)
    ++ (((List.range 64).filter fun q => bit (quadAt q s.queues).d0 63).map .slot)
    ++ (if s.batches.isEmpty then [] else [.admitNext])
    ++ (if s.members.any fun m => decide (m.state = .saved) then [.resume] else [])
    ++ s.members.filterMap fun m => match m.state with
      | .placing => some (.placed m.id)
      | .stopping => some (.save m.id)
      | .resident => some (.complete m.id)
      | .reserving | .saved | .done | .killed => none

/-- A bank command started, or taken one piece further (R213, R215). -/
def State.bankAct (s : State) (stack id : Nat) : State :=
  match s.bankCmd? stack id with
  | none => s
  | some x =>
    if !x.started then s.bankStart stack id
    else
      match x.work with
      | .cbload _ _ _ => s.cbloadDone stack id
      | .bdtld _ _ => s.bdtldDone stack id
      | .lkclr _ => s.lkclrDone stack id
      | .tbuild _ _ _ _ => s.tbuildTable stack id
      | .lkrd _ _ _ _ _ => s.lkrdDone stack id
      | .rcopy _ _ _ _ _ => s.rcopyGranule stack id x.done.length
      | .rfill _ _ _ => s.rfillGranule stack id x.done.length
      | .lkacc _ _ _ _ _ _ _ _ _ _ =>
        match x.banks.find? fun b => !(b.2.done || b.2.fault || b.2.parked) with
        | some b => s.segmentEnd stack id b.1
        | none => s

/-- The next step of a lockage (R306). -/
def State.lockageAct (s : State) (k : Nat) : State :=
  match (s.stack k).lock with
  | none => s
  | some l => match l.step with
    | 1 => s.cmdsDrained k
    | 3 => s.writesDrained k
    | 4 => s.recallDone k
    | _ => s.broadcastDone k

/-- An act performed. A member that is not done yet, a save that is not ready, and the like leave the state as it is. -/
def State.act (s : State) : Act → State
  | .stream d p id => s.streamPerform d p id 1
  | .bank k id => s.bankAct k id
  | .rejoin k id => s.rejoin k id
  | .lockage k => s.lockageAct k
  | .shootdown d => s.shootdownDone d
  | .slot q => s.slotRead q
  | .admitNext => s.admission
  | .placed m => s.placed m
  | .save m => s.gangSave m
  | .complete m => s.memberComplete m
  | .resume => s.resumeNext

/-- The act of this turn by default: each in its turn (log 4). -/
def State.pickAct (s : State) : Option Act :=
  let xs := s.acts
  xs[s.turn / 2 % xs.length]?

/-- Who moves next: the head of the schedule given, a core only if R250 lets it issue; else cores and other agents in alternate
turns. -/
def State.choose (s : State) (schedule : List Choice) : Chosen :=
  match schedule with
  | .event i :: rest => .event i { s with schedule := rest }
  | .issue c :: rest =>
    let s := { s with schedule := rest }.refresh
    .turn (if s.candidatesToIssue.any fun k => decide (k.id = c) then s.issueNow c else .done s)
  | [] =>
    let s := s.refresh
    match s.pickAct, s.pickCore with
    | some a, some (id, t) => if s.turn % 2 = 0 then .turn (.done (s.act a)) else .turn (t.issueNow id)
    | some a, none => .turn (.done (s.act a))
    | none, some (id, t) => .turn (t.issueNow id)
    | none, none => .turn (.done s)

end Sys2Proof.Machine
end

