-- ==== Sys2Proof/Machine/Step.lean ====
section
/-! DEFINITION. One step of the panel: time passes, and the schedule, or the default order, chooses who moves (log 4).
Also where an instruction is put to be the next that runs. -/

namespace Sys2Proof.Machine

/-- One step: time passes, what waited and need not goes on by itself, and one choice is made. -/
def step (s : State) : Host.Outcome State Fault Refusal :=
  match s.tick.agents.choose s.schedule with
  | .event i s => exec i s
  | .turn t =>
    match t with
    | .run i s => exec i s
    | .done s => .next s

/-- `s` with an instruction of `nbits` bits stored where the core whose turn it is fetches next, and that core to issue
next. -/
def State.withFetchWord (s : State) (nbits w : Nat) : State := s.placeWord (w % 2 ^ nbits)

end Sys2Proof.Machine
end

