-- ==== Sys2Proof/Safety.lean ====
section
/-! DEFINITION. What counts as a safe run, and the terms claims are stated in: where an instruction runs as plain code,
and what it leaves as it was. -/

namespace Sys2Proof.Machine

/-- The memories are in their canonical form, the home caches' bytes stand in rising order of address, and a die holds at
most one non-home copy of a line. -/
abbrev State.Canonical (s : State) : Prop :=
  Memory.wf s.hold = true ∧ Memory.wf s.dram = true ∧ Memory.wf s.mailbox = true ∧
    (s.homeCache.Pairwise fun a b => a.1 < b.1) ∧ ∀ x ∈ s.dies, (x.2.nonHome.map NonHome.line).Nodup

/-- A step is safe when it answers a next state: no fault, no refusal. -/
def State.Safe (s : State) : Prop := ∃ t, step s = .next t

/-- The core whose turn it is stands at an instruction outside split mode, outside a repeat frame, and outside the time
from VJOIN to the next SETVL (R166). -/
abbrev State.Plain (s : State) (c : Core) : Prop :=
  s.core? s.cur = some c ∧ c.split.on = false ∧ c.stepwise = false ∧ c.frame = none ∧ c.around = false

/-- Besides, a strip that closes here releases nothing, and no scheduler asks the core to stop. -/
abbrev State.Calm (s : State) (c : Core) : Prop :=
  s.Plain c ∧ c.strip.buf = [] ∧ c.stopAsked = false

/-- A lane thread whose turn it is. -/
abbrev State.InLane (s : State) (c : Core) : Prop :=
  s.core? s.cur = some c ∧ c.split.on = true ∧ c.stepwise = false ∧ c.frame = none ∧ c.around = false

/-- Every byte of memory reads as before: at its coherence point, in the die caches and in the scalar caches. -/
def State.SameMemory (s t : State) : Prop :=
  (∀ loc, t.locByte loc = s.locByte loc) ∧ (∀ d, (t.die d).nonHome = (s.die d).nonHome) ∧
    ∀ k, (t.cell k).sdc = (s.cell k).sdc

/-- Nothing but the core whose turn it is has changed. -/
def State.OnlyCore (s t : State) : Prop :=
  t = { s with cores := t.cores } ∧ ∀ id, id ≠ s.cur → t.core? id = s.core? id

/-- Nothing but that core and the dispatch bucket of its cell has changed (R252). -/
def State.OnlyCoreAndGate (s t : State) : Prop :=
  t = { s with cores := t.cores, cells := t.cells } ∧ (∀ id, id ≠ s.cur → t.core? id = s.core? id) ∧
    (∀ k, k ≠ s.cur.cell → t.cell k = s.cell k) ∧ ∃ b, t.cell s.cur.cell = { s.cell s.cur.cell with bucket := b }

/-- The vector, mask and tile registers are as before. -/
def Core.SameVector (c k : Core) : Prop := k.v = c.v ∧ k.m = c.m ∧ k.y = c.y

/-- The special registers are as before, but for fflags, the program counter, cr.ckpt, the length queue and the event
latch: the user trap registers, the vector state, the decoder table, what placement set, and the supervisor and machine
registers. -/
def Core.SameSpecial (c k : Core) : Prop :=
  k.id = c.id ∧ k.crew = c.crew ∧ k.level = c.level ∧ k.frm = c.frm ∧ k.tvec = c.tvec ∧ k.epc = c.epc ∧ k.cause = c.cause ∧
  k.eaddr = c.eaddr ∧ k.eelem = c.eelem ∧ k.moved = c.moved ∧ k.scratch = c.scratch ∧ k.vl = c.vl ∧ k.rc = c.rc ∧
  k.ill = c.ill ∧ k.glog = c.glog ∧ k.fmt = c.fmt ∧ k.grant = c.grant ∧ k.dtab = c.dtab ∧
  k.crewReg = c.crewReg ∧ k.rank = c.rank ∧ k.holdsize = c.holdsize ∧ k.holdbase = c.holdbase ∧
  k.cellphys = c.cellphys ∧ k.energy = c.energy ∧ k.st = c.st ∧ k.parked = c.parked ∧
  k.pending = c.pending ∧ k.cbars = c.cbars ∧ k.tbars = c.tbars

/-- The scalar registers as the core reads them (R11, R26): `d` holds `x`, unless it is field 0; all others are as
before. -/
def Core.WritesScalar (c k : Core) (d : BitVec 5) (x : Word) : Prop :=
  ∀ r, k.rg r = if r = d ∧ d ≠ 0#5 then x else c.rg r

/-- All that an instruction has done that writes `x` to `d` and goes on at `a`: outside split mode no vector register has
changed, and in split mode neither the hart's scalar registers, nor another vector register, nor another lane's part of
any. -/
def Core.AfterScalar (c k : Core) (d : BitVec 5) (x a : Word) : Prop :=
  k.curPc = a ∧ c.WritesScalar k d x ∧ k.m = c.m ∧ k.y = c.y ∧ k.fflags = c.fflags ∧ k.ckpt = c.ckpt ∧
  k.lq = c.lq ∧ k.latch = c.latch ∧ c.SameSpecial k ∧
  if c.split.on then
    k.g = c.g ∧ (∀ n, n ≠ c.lnum d → k.vreg n = c.vreg n) ∧
      ∀ n j, j < 16 → j ≠ c.split.lane.val → getBits (k.vreg n) (64 * j) 64 = getBits (c.vreg n) (64 * j) 64
  else k.v = c.v

/-- An instruction of the core answers a next state that has changed that core alone, as `p` says. -/
def State.RunsTo (s : State) (i : Instr) (p : Core → Prop) : Prop :=
  ∃ t k, exec i s = .next t ∧ s.OnlyCore t ∧ t.core? t.cur = some k ∧ p k

/-- A hart's byte at an offset of its own hold window (R248, R267). -/
def State.windowByte (s : State) (c : Core) (off : Nat) : Byte :=
  s.locByte (holdLoc c.id.die c.id.pos (c.holdbase.toNat * 2 ^ 16 + off))

/-- An access of `n` bytes at an address of the hold-local window that the crew's blocks hold (R101, R248). -/
abbrev Core.InWindow (c : Core) (va : Word) (n : Nat) : Prop :=
  c.isSteward = false ∧ va.toNat + n ≤ 2 ^ 19 ∧ va.toNat + n ≤ c.holdsize.toNat

/-- Nothing holds back the core's accesses to a hold window: no side-log entry of the cell, no stream command, and no bank
command in any stack (R201, R214, R288). -/
abbrev State.NoCommands (s : State) (c : Core) : Prop :=
  (s.cell c.id.cell).log = [] ∧ (s.cell c.id.cell).queue = [] ∧ ∀ k ∈ s.stackTbl, k.2.seqr = [] ∧ k.2.parked = []

/-- The cell's dispatch gate lets a chargeable instruction pass (R252). -/
abbrev State.GateOpen (s : State) (c : Core) : Prop :=
  c.released = true ∨ (s.cell c.id.cell).bucket < (s.die c.id.die).level.toNat

end Sys2Proof.Machine
end

