-- ==== Sys2Proof/Certificates/Slice0/Obligations.lean ====
section
/-! DEFINITION. The statements about the model that are to be proved. -/

namespace Sys2Proof.Rules

open Sys2Proof.Machine

/-- What an instruction of the scalar integer families writes, and where (R96 to R99): its destination and the value, from
the operands as the core reads them. -/
def scalarValue (c : Core) : Instr → Option (BitVec 5 × Word)
  | .add d a b => some (d, c.rg a + c.rg b)
  | .sub d a b => some (d, c.rg a - c.rg b)
  | .and d a b => some (d, c.rg a &&& c.rg b)
  | .or d a b => some (d, c.rg a ||| c.rg b)
  | .xor d a b => some (d, c.rg a ^^^ c.rg b)
  | .sll d a b => some (d, c.rg a <<< ((c.rg b).toNat % 64))
  | .srl d a b => some (d, c.rg a >>> ((c.rg b).toNat % 64))
  | .sra d a b => some (d, (c.rg a).sshiftRight ((c.rg b).toNat % 64))
  | .rotl d a b =>
    let n := (c.rg b).toNat % 64
    some (d, c.rg a <<< n ||| c.rg a >>> (64 - n))
  | .rotr d a b =>
    let n := (c.rg b).toNat % 64
    some (d, c.rg a >>> n ||| c.rg a <<< (64 - n))
  | .min d a b => some (d, if (c.rg a).toInt ≤ (c.rg b).toInt then c.rg a else c.rg b)
  | .max d a b => some (d, if (c.rg a).toInt ≤ (c.rg b).toInt then c.rg b else c.rg a)
  | .minu d a b => some (d, if (c.rg a).toNat ≤ (c.rg b).toNat then c.rg a else c.rg b)
  | .maxu d a b => some (d, if (c.rg a).toNat ≤ (c.rg b).toNat then c.rg b else c.rg a)
  | .slt d a b => some (d, if (c.rg a).toInt < (c.rg b).toInt then 1 else 0)
  | .sltu d a b => some (d, if (c.rg a).toNat < (c.rg b).toNat then 1 else 0)
  | .mul d a b => some (d, BitVec.ofNat 64 ((c.rg a).toNat * (c.rg b).toNat))
  | .mulh d a b => some (d, BitVec.ofInt 64 ((c.rg a).toInt * (c.rg b).toInt / 2 ^ 64))
  | .mulhu d a b => some (d, BitVec.ofNat 64 ((c.rg a).toNat * (c.rg b).toNat / 2 ^ 64))
  | .div d a b => some (d, if c.rg b = 0 then -1 else BitVec.ofInt 64 ((c.rg a).toInt.tdiv (c.rg b).toInt))
  | .divu d a b => some (d, if c.rg b = 0 then -1 else BitVec.ofNat 64 ((c.rg a).toNat / (c.rg b).toNat))
  | .rem d a b => some (d, if c.rg b = 0 then c.rg a else BitVec.ofInt 64 ((c.rg a).toInt.tmod (c.rg b).toInt))
  | .remu d a b => some (d, if c.rg b = 0 then c.rg a else BitVec.ofNat 64 ((c.rg a).toNat % (c.rg b).toNat))
  | .clz d a => some (d, BitVec.ofNat 64 ((List.range 64).countP fun k => (c.rg a).toNat < 2 ^ k))
  | .ctz d a => some (d, BitVec.ofNat 64 ((List.range 64).countP fun k => (c.rg a).toNat % 2 ^ (k + 1) = 0))
  | .cpop d a => some (d, BitVec.ofNat 64 ((List.range 64).countP fun k => (c.rg a).getLsbD k))
  | .addsh d a b s => some (d, c.rg a + c.rg b <<< s.toNat)
  | .slli d a h g => some (d, c.rg a <<< (32 * g.toNat + h.toNat))
  | .srli d a h g => some (d, c.rg a >>> (32 * g.toNat + h.toNat))
  | .srai d a h g => some (d, (c.rg a).sshiftRight (32 * g.toNat + h.toNat))
  | .addi d a i => some (d, c.rg a + i.signExtend 64)
  | .andi d a k => some (d, c.rg a &&& k.signExtend 64)
  | .ori d a k => some (d, c.rg a ||| k.signExtend 64)
  | .xori d a k => some (d, c.rg a ^^^ k.signExtend 64)
  | .slti d a i => some (d, if (c.rg a).toInt < i.toInt then 1 else 0)
  | .lui d i => some (d, i.signExtend 64 * 4096)
  | .aupc d i => some (d, c.curPc + i.signExtend 64 * 4096)
  | .nop => some (0#5, 0)
  | _ => none

/-- Where a branch, a jump or a LOOP goes on, and what it writes (R106, R108, R109); none for a JALR whose target is not a
multiple of 4. -/
def jumpTarget (c : Core) : Instr → Option (BitVec 5 × Word × Word)
  | .beq a b o => some (0#5, 0, if c.rg a = c.rg b then c.curPc + o.signExtend 64 * 4 else c.curPc + 4)
  | .bne a b o => some (0#5, 0, if c.rg a ≠ c.rg b then c.curPc + o.signExtend 64 * 4 else c.curPc + 4)
  | .blt a b o => some (0#5, 0, if (c.rg a).toInt < (c.rg b).toInt then c.curPc + o.signExtend 64 * 4 else c.curPc + 4)
  | .bge a b o => some (0#5, 0, if (c.rg b).toInt ≤ (c.rg a).toInt then c.curPc + o.signExtend 64 * 4 else c.curPc + 4)
  | .bltu a b o => some (0#5, 0, if (c.rg a).toNat < (c.rg b).toNat then c.curPc + o.signExtend 64 * 4 else c.curPc + 4)
  | .bgeu a b o => some (0#5, 0, if (c.rg b).toNat ≤ (c.rg a).toNat then c.curPc + o.signExtend 64 * 4 else c.curPc + 4)
  | .jal d o => some (d, c.curPc + 4, c.curPc + o.signExtend 64 * 4)
  | .jalr d a i =>
    let t := c.rg a + i.signExtend 64
    if t.toNat % 4 = 0 then some (d, c.curPc + 4, t) else none
  | .loop r o =>
    let t := (c.rg r).toNat % 2 ^ 32
    if t ≠ 0 then some (r, BitVec.ofNat 64 (t - 1), c.curPc + o.signExtend 64 * 4) else some (r, 0, c.curPc + 4)
  | _ => none

/-- The value a load of size code `z` makes of its bytes, the first least significant (R73, R100): sign-extended for the
.i sizes, zero-extended for the .n sizes. -/
def loaded (z : BitVec 3) (bs : List Byte) : Word :=
  let x := (bs.zipIdx.map fun e => e.1.toNat * 2 ^ (8 * e.2)).sum
  if z.toNat < 4 then (BitVec.ofNat (8 * bs.length) x).signExtend 64 else BitVec.ofNat 64 x

/-- The bytes a load or store of a size code moves. -/
def sizeOf (z : Nat) : Nat := 2 ^ (z % 4)

/-- The control registers a user writes, and what a write leaves in each (R29, R31, R111). -/
def userWrites : Nat → Word → Option Word
  | 0x000, x => some (x &&& 3)
  | 0x001, x => some (x &&& 0x1F)
  | 0x002, x => some (x &&& ~~~3)
  | 0x003, x => some x
  | 0x004, x => some (x &&& 0x81F100FF)
  | 0x005, x => some x
  | 0x006, x => some (x &&& 0x7FFFF)
  | 0x008, x => some x
  | _, _ => none

end Sys2Proof.Rules

open Sys2Proof Sys2Proof.Machine

/-- Words written out from the manual's encodings and worked examples (R64, R71 to R85) decode to the instructions they stand
for, and reserved ones to none. -/
def Obligations.SpecWordsDecode : Prop :=
  (decode 0x04E70001).toOption = some (.addi 7 7 1) ∧ (decode 0x08A54100).toOption = some (.ori 5 5 0x100) ∧
  (decode 0x00A6405C).toOption = some (.slli 5 6 8 1) ∧ (decode 0x00A63BE0).toOption = some (.ldx 5 6 7 3 3) ∧
  (decode 0x14E8B000).toOption = some (.st 7 8 3 0) ∧ (decode 0x28600002).toOption = some (.beq 3 0 2) ∧
  (decode 0x2452FFFF).toOption = some (.loop 5 0xFFFF) ∧ (decode 0x20641002).toOption = some (.crw 3 4 2) ∧
  (decode 0x20006003).toOption = some .wfe ∧ (decode 0x40A61E00).toOption = some (.setvl 5 6 0 15 0) ∧
  (decode 0x0800C000).toOption = none ∧ (decode 0x00000000).toOption = none ∧ (decode 0xFFFFFFFF).toOption = none

/-- Every well-formed instruction's word decodes to it, with every operand at every value. -/
def Obligations.DecodeOfEncode : Prop :=
  ∀ i w, i.wellFormed = true → encode i = some w → w < 2 ^ 32 ∧ decode w = .ok i

/-- A 32-bit word that decodes has one meaning: it is the word of the instruction it decodes to, which is well formed. -/
def Obligations.EncodeOfDecode : Prop :=
  ∀ w i, w < 2 ^ 32 → decode w = .ok i → i.wellFormed = true ∧ encode i = some w

namespace Sys2Proof.Rules

/-- The step's state when a scheduled core comes to its turn: what goes on by itself has gone on, and the turn is counted
(R250; log 4). -/
def turnState (s : State) (rest : List Choice) (id : CoreId) : State :=
  { ({ s.tick.agents with schedule := rest }.refresh).slotTaken id with cur := id }

/-- The schedule gives the turn to the core `c` of that name, which R250 lets issue, which no scheduler stops, and for which no
pending cause and no interrupt is taken first. -/
def itsTurn (s : State) (rest : List Choice) (id : CoreId) (c : Core) : Prop :=
  s.schedule = .issue id :: rest ∧
    (∃ k ∈ ({ s.tick.agents with schedule := rest }.refresh).candidatesToIssue, k.id = id) ∧
    (turnState s rest id).core? id = some c ∧ c.stopped = false ∧ c.stopAsked = false ∧ c.parked = none ∧
    c.interrupted = false ∧ c.asyncNow = false

end Sys2Proof.Rules

/-- A step runs the instruction that its agent stands at (R69, R250, R251; the model's schedule, log 4): for a scheduled core
that is not split the word fetched at its program counter, decoded; a wait that holds no instruction is over first, once what
it waits for has come; for a split core the lane next in turn; a word that does not decode traps; a scheduled event is that
event. -/
def Obligations.StepRunsDecodedInstruction : Prop :=
  (∀ (s : State) (i : Instr) (rest : List Choice), s.schedule = .event i :: rest →
    step s = exec i { s.tick.agents with schedule := rest }) ∧
  (∀ (s : State) (id : CoreId) (rest : List Choice) (c : Core), Rules.itsTurn s rest id c → c.frame = none → c.split.on = false → c.wait = .none →
    let r := Rules.turnState s rest id
    (∀ t w i, r.fetch = (t, .word w) → decode w.toNat = .ok i → step s = exec i t) ∧
    (∀ t w e, r.fetch = (t, .word w) → decode w.toNat = .error e → step s = .next t.illegalTrap) ∧
    ∀ t f, r.fetch = (t, .fault f) → step s = .next (t.fetchTrap f)) ∧
  (∀ (s : State) (id : CoreId) (rest : List Choice) (c : Core), Rules.itsTurn s rest id c → c.frame = none → c.split.on = false →
    (c.wait = .lqPush ∨ c.wait = .replay ∨ (∃ l n w, c.wait = .scoreboard l n w) ∨ (∃ k g, c.wait = .retrain k g) ∨
      (∃ f a n, c.wait = .covered f a n) ∨ ∃ k, c.wait = .lockage k) → (Rules.turnState s rest id).wakeable c = true →
    ∀ t w i, ((Rules.turnState s rest id).upd fun c => { c with wait := .none }).fetch = (t, .word w) →
      decode w.toNat = .ok i → step s = exec i t) ∧
  ∀ (s : State) (id : CoreId) (rest : List Choice) (c : Core) (j : Fin 16), Rules.itsTurn s rest id c → c.frame = none → c.split.on = true →
    (Rules.turnState s rest id).nextLane c = some j → c.split.wfe.getLsbD j = false →
    ∀ t w i, ((Rules.turnState s rest id).upd fun c =>
        { c with split := { c.split with lane := j }, laneWaits := tblErase j.val c.laneWaits }).fetch = (t, .word w) →
      decode w.toNat = .ok i → step s = exec i t

/-- What stands after reset that the manual gives (R4, R29, R349, R363, R399, R404, R411): stage ROM, no core, each stack owned by
its first candidate, and the registers of every die. -/
def Obligations.ResetValues : Prop :=
  State.reset.boot.stage = 1 ∧ State.reset.cores = [] ∧ State.reset.time = 0 ∧ State.reset.panel = 0 ∧
  State.reset.eventSerial = 0 ∧
  (∀ k, State.reset.owner k = (candidates k).1) ∧
  (∀ d, let x := State.reset.die d
    x.dbudget = 0xFFFFFFFF ∧ x.pcell = 1100 ∧ x.level = 0x100000 ∧ x.drain = 65536 ∧ x.vfsel = 0 ∧ x.thot = 95 ∧
    x.ptroot = 0 ∧ x.fqbase = 0 ∧ x.fqhead = 0 ∧ x.fqtail = 0 ∧ x.rt = [] ∧ x.fmap = [] ∧ x.sealt = 0 ∧ x.rset = [] ∧
    x.denergy = 0 ∧ x.dpower = 0 ∧ x.stretch = 0 ∧ x.dce = 0 ∧ x.cce = 0 ∧ x.lrt = 0 ∧ x.ue = 0 ∧ x.retire = 0) ∧
  ∀ q, quadAt q State.reset.queues = ⟨0, 0, 0, 0⟩

/-- The memories and caches are in their canonical form at reset (the model's form of memory, log 2). -/
def Obligations.ResetMemoryCanonical : Prop := State.reset.Canonical

/-- Every step keeps the memories in their canonical form, so that equal memories are equal data, the home caches' bytes in rising
order, and at most one non-home copy of a line in a die (R271). -/
def Obligations.StepKeepsMemoryCanonical : Prop :=
  ∀ s t : State, s.Canonical → step s = .next t → t.Canonical

/-- An instruction of a resident core answers a next state, whatever it is and whatever state it meets; so does every event. No
rule of the manual stops the panel: every trap is a next state (R86, R117). -/
def Obligations.EveryInstructionAnswersNext : Prop :=
  (∀ (i : Instr) (s : State) (c : Core), s.core? s.cur = some c → ∃ t, exec i s = .next t) ∧
  (∀ i s, encode i = none → ∃ t, exec i s = .next t) ∧
  ∀ i s w, encode i = some w → s.core? s.cur = none → exec i s = .fault .noCore

/-- The scalar integer instructions and NOP (R95 to R99, R118): each writes its destination with the value of its row, raises no
flag, changes nothing else, and goes on at the next instruction. In a lane thread the fields name its own registers (R26). -/
def Obligations.ScalarArithmeticResult : Prop :=
  ∀ (s : State) (c : Core) (i : Instr) (d : BitVec 5) (x : Word), s.Plain c ∨ s.InLane c → Rules.scalarValue c i = some (d, x) →
    s.RunsTo i fun k => c.AfterScalar k d x (c.curPc + 4)

/-- Division never traps: the special cases of R97. -/
def Obligations.DivisionSpecialCases : Prop :=
  ∀ (s : State) (c : Core) (d a b : BitVec 5), s.Plain c ∨ s.InLane c → d ≠ 0#5 →
    (c.rg b = 0 →
      (s.RunsTo (.div d a b) fun k => k.rg d = BitVec.ofInt 64 (-1)) ∧
      (s.RunsTo (.divu d a b) fun k => k.rg d = BitVec.ofNat 64 (2 ^ 64 - 1)) ∧
      (s.RunsTo (.rem d a b) fun k => k.rg d = c.rg a) ∧
      (s.RunsTo (.remu d a b) fun k => k.rg d = c.rg a)) ∧
    (c.rg a = BitVec.ofInt 64 (-(2 ^ 63)) → c.rg b = BitVec.ofInt 64 (-1) →
      (s.RunsTo (.div d a b) fun k => k.rg d = BitVec.ofInt 64 (-(2 ^ 63))) ∧
      (s.RunsTo (.rem d a b) fun k => k.rg d = 0))

/-- Branches, jumps and LOOP (R106, R108, R109): the next program counter and what is written, all else as before; a JALR to an
address that is not a multiple of 4 traps ALIGN with that address and writes nothing. -/
def Sys2Proof.Rules.branchAndJumpResult : Prop :=
  (∀ (s : State) (c : Core) (i : Instr) (d : BitVec 5) (x a : Word), s.Plain c ∨ s.InLane c → Rules.jumpTarget c i = some (d, x, a) →
    s.RunsTo i fun k => c.AfterScalar k d x a) ∧
  ∀ (s : State) (c : Core) (d a : BitVec 5) (i : BitVec 16), s.Plain c ∨ s.InLane c → (c.rg a + i.signExtend 64).toNat % 4 ≠ 0 →
    exec (.jalr d a i) s = .next (s.takeTrap { cause := .align, addr := c.rg a + i.signExtend 64 } c.curPc false)

/-- BANY and BALL (R107): outside split mode they examine the bits e·σ for e below VL of the named register; a lane thread its own
predicate, bit 32·lane; while VTYPE is ill they trap VTYPE outside split mode. -/
def Sys2Proof.Rules.maskBranchResult : Prop :=
  (∀ (s : State) (c : Core) (m : BitVec 6) (o : BitVec 16), s.Calm c → c.ill = false →
    let yes (e : Nat) : Bool := (c.mreg m.toNat).getLsbD (e * (fmtWidth c.fmt / (2 * 2 ^ c.glog.toNat)))
    (s.RunsTo (.bany m o) fun k =>
      k.curPc = (if ∃ e, e < c.vl.toNat ∧ yes e = true then c.curPc + o.signExtend 64 * 4 else c.curPc + 4) ∧
      k.g = c.g ∧ c.SameVector k ∧ c.SameSpecial k ∧ k.fflags = c.fflags) ∧
    s.RunsTo (.ball m o) fun k =>
      k.curPc = (if ∀ e, e < c.vl.toNat → yes e = true then c.curPc + o.signExtend 64 * 4 else c.curPc + 4) ∧
      k.g = c.g ∧ c.SameVector k ∧ c.SameSpecial k ∧ k.fflags = c.fflags) ∧
  (∀ (s : State) (c : Core) (m : BitVec 6) (o : BitVec 16), s.InLane c →
    let a := if (c.mreg m.toNat).getLsbD (32 * c.split.lane) then c.curPc + o.signExtend 64 * 4 else c.curPc + 4
    (s.RunsTo (.bany m o) fun k => c.AfterScalar k 0#5 0 a) ∧ s.RunsTo (.ball m o) fun k => c.AfterScalar k 0#5 0 a) ∧
  ∀ (s : State) (c : Core) (m : BitVec 6) (o : BitVec 16), s.Plain c → c.ill = true →
    exec (.bany m o) s = .next (s.takeTrap { cause := .vtype } c.curPc false) ∧
    exec (.ball m o) s = .next (s.takeTrap { cause := .vtype } c.curPc false)

/-- Branches, jumps, LOOP, BANY and BALL (R106 to R109). -/
def Obligations.BranchResult : Prop := Rules.branchAndJumpResult ∧ Rules.maskBranchResult

/-- Field 0 of a scalar register reads zero and its writes are discarded (R11); m0 reads all ones and its writes are discarded
(R16); any other register reads what was last written to it. -/
def Obligations.HardwiredRegisters : Prop :=
  (∀ c : Core, c.rg 0#5 = 0 ∧ c.mreg 0 = BitVec.allOnes 512) ∧
  (∀ (c : Core) x, c.wg 0#5 x = c) ∧ (∀ (c : Core) x, c.setM 0 x = c) ∧
  (∀ (c : Core) (d r : BitVec 5) x, (c.wg d x).rg r = if r = d ∧ d ≠ 0#5 then x else c.rg r) ∧
  ∀ (c : Core) n k x, 0 < n → n < 48 → (c.setM n x).mreg k = if k = n then x else c.mreg k

namespace Sys2Proof.Rules

open Sys2Proof.Machine

/-- Bits [hi:lo] of a word. -/
def fld (w : Word) (hi lo : Nat) : Nat := w.toNat / 2 ^ lo % 2 ^ (hi + 1 - lo)

/-- A page-table pointer (R365): valid, no leaf, its reserved bits zero; then where it points. -/
def tablePointer (w : Word) : Prop :=
  w.getLsbD 0 = true ∧ w.getLsbD 5 = false ∧ fld w 14 1 = 0 ∧ (w.getLsbD 47 = true ∨ fld w 46 43 = 0)

/-- The walk of an address on a die finds a leaf that is well formed (R365, R366): at level 2 of a huge page, at level 3 of a base
page. -/
def walksTo (s : State) (d : Nat) (va : Word) (huge : Bool) (w : Word) : Prop :=
  let e1 := s.readWord (fld (s.die d).ptroot 47 15 * 2 ^ 15 + 8 * fld va 51 40)
  let e2 := s.readWord (fld e1 47 15 * 2 ^ 15 + 8 * fld va 39 28)
  let e3 := s.readWord (fld e2 47 15 * 2 ^ 15 + 8 * fld va 27 16)
  tablePointer e1 ∧ w.getLsbD 0 = true ∧ w.getLsbD 5 = true ∧ s.badLeaf d (if huge then 2 else 3) w = false ∧
    if huge then w = e2 else tablePointer e2 ∧ w = e3

/-- No stack is in lockage or retraining, and none has lost both its candidates (R306, R307, R410, R413). -/
def stacksOpen (s : State) : Prop := ∀ k ∈ s.stackTbl, k.2.lock = none ∧ k.2.retrain = [] ∧ k.2.orphan = false

/-- Where a hart's scalar access or fetch finds its page entry (R365, R368, R370): in its cell's TLB, in its die's, in the one resident
entry, or by a walk of the tables. -/
def mapped (s : State) (c : Core) (va : Word) (huge : Bool) (w : Word) : Prop :=
  let hit (t : List TlbEntry) := (tlbFind va t).map fun e => (e.huge, e.leaf)
  hit (s.cell c.id.cell).tlb = some (huge, w) ∨
    hit (s.cell c.id.cell).tlb = none ∧ (hit (s.die c.id.die).tlb = some (huge, w) ∨
      hit (s.die c.id.die).tlb = none ∧ ((s.die c.id.die).residents va = [w] ∧ huge = true ∨
        (∀ x, (s.die c.id.die).residents va ≠ [x]) ∧ walksTo s c.id.die va huge w))

/-- The device address that a page entry gives (R366). -/
def pageAddr (huge : Bool) (w va : Word) : Nat :=
  if huge then fld w 47 28 * 2 ^ 28 + fld va 27 0 else fld w 47 16 * 2 ^ 16 + fld va 15 0

/-- A page entry grants a hart the right of bit `right` (R366: 1 read, 2 write, 3 fetch) to bytes of the stacks that stand once,
at `va` in translated memory, aligned (R101, R267, R269, R286). -/
def grants (huge : Bool) (w va : Word) (n right : Nat) : Prop :=
  2 ^ 32 ≤ va.toNat ∧ va.toNat < 2 ^ 52 ∧ va.toNat % n = 0 ∧ w.getLsbD 4 = true ∧ w.getLsbD right = true ∧
    w.getLsbD 8 = false ∧ pageAddr huge w va < 2 ^ 42

/-- A hart outside split mode may access `n` bytes of translated memory that a scalar translation finds. -/
def pageReady (s : State) (c : Core) (va : Word) (n right : Nat) (huge : Bool) (w : Word) : Prop :=
  c.isSteward = false ∧ c.split.on = false ∧ stacksOpen s ∧ mapped s c va huge w ∧ grants huge w va n right

/-- An S page, kind 3 counting as S (log 6), or one with the no-speculation bit (R276, R281). -/
def strongPage (w : Word) : Prop := fld w 7 6 = 0 ∨ fld w 7 6 = 3 ∨ w.getLsbD 10 = true

/-- A core with its strip closed (R112): its length-queue pushes are permanent. -/
def closed (c : Core) : Core :=
  if c.isSteward then c else { c with lq := c.lq.map fun e => { e with tentative := false } }

/-- A core after a checkpoint around an instruction at `c.pc` (R115). -/
def around (c : Core) : Core := if c.isSteward then c else { closed c with ckpt := c.pc + 4 }

/-- The state in which an instruction that takes a checkpoint around it traps: its hart's strip is closed, and cr.ckpt is at the
instruction (R115). -/
def begun (s : State) : State := s.upd fun k => { (closed k).putCkpt k.pc with strip := .empty }

/-- The state past the dispatch gate, which charges `cost` once (R252). -/
def gated (s : State) (c : Core) (cost : Nat) : State := if c.released then s else s.releaseGate c.id cost

/-- A byte as a die sees it (R271, R272): of its copy of the line, else where it is coherent. -/
def dieByte (s : State) (d loc : Nat) : Byte :=
  if 2 ^ 49 ≤ loc then s.locByte loc
  else match (s.die d).nonHome.find? fun x => decide (x.line = loc / 64) with
    | some x => BitVec.ofNat 8 (getBits x.data (8 * (loc % 64)) 8)
    | none => s.locByte loc

/-- The number that `n` bytes stand for as a die sees them. -/
def dieNat (s : State) (d loc n : Nat) : Nat := ((List.range n).map fun j => (dieByte s d (loc + j)).toNat * 2 ^ (8 * j)).sum

/-- The frame of a device byte is not sealed for a die (R373). -/
def unsealedFor (s : State) (d loc : Nat) : Prop := 2 ^ 49 ≤ loc ∨ (s.die d).sealt.getLsbD (loc / 2 ^ 28 % 2 ^ 14) = false

/-- Where a vector element of `n` bytes lies (R138, R267, R368): in the hart's own hold window, or in the one resident huge page that
maps it and grants the right. -/
def vectorAt (s : State) (c : Core) (va : Word) (n right loc : Nat) : Prop :=
  c.InWindow va n ∧ loc = holdLoc c.id.die c.id.pos (c.holdbase.toNat * 2 ^ 16 + va.toNat) ∨
    ∃ w, (s.die c.id.die).residents va = [w] ∧ grants true w va n right ∧ loc = pageAddr true w va

/-- The word a core fetches at an address, as its last IFENCE left memory (R105, R118; log 13): a steward core's physical, a hart's by
an entry of its cell's TLB; no store that an IFENCE of its followed waits for the word's bytes in its side log. -/
def codeWord (s : State) (c : Core) (a : Word) (x : BitVec 32) : Prop :=
  stacksOpen s ∧ a.toNat % 4 = 0 ∧ s.fenceCovers c.id a 4 = false ∧ ∃ (pa : Nat) (w : Word), x = BitVec.ofNat 32 (bytesNat ((s.asOf c.code).peek c.id.die ⟨pa, some w⟩ 4)) ∧
    if c.isSteward then pa = a.toNat ∧ pa < 2 ^ 42 ∧ w = 0x3F
    else c.split.on = false ∧ ∃ e, tlbFind a (s.cell c.id.cell).tlb = some e ∧ e.leaf = w ∧ grants e.huge w a 4 3 ∧
      pa = pageAddr e.huge w a

end Sys2Proof.Rules

/-- LD and LDX of the hart's own hold window (R100, R101): any byte address, the value by the size code, nothing else changed. -/
def Sys2Proof.Rules.windowLoadResult : Prop :=
  (∀ (s : State) (c : Core) (d a : BitVec 5) (z : BitVec 3) (o : BitVec 12), s.Calm c → z.toNat < 7 →
    let va := c.rg a + o.signExtend 64
    c.InWindow va (Rules.sizeOf z.toNat) → s.NoCommands c →
    s.RunsTo (.ld d a z o) fun k => c.AfterScalar k d
      (Rules.loaded z ((List.range (Rules.sizeOf z.toNat)).map fun i => s.windowByte c (va.toNat + i))) (c.pc + 4)) ∧
  ∀ (s : State) (c : Core) (d a b : BitVec 5) (z : BitVec 3) (j : BitVec 2), s.Calm c → z.toNat < 7 →
    let va := c.rg a + c.rg b <<< j.toNat
    c.InWindow va (Rules.sizeOf z.toNat) → s.NoCommands c →
    s.RunsTo (.ldx d a b z j) fun k => c.AfterScalar k d
      (Rules.loaded z ((List.range (Rules.sizeOf z.toNat)).map fun i => s.windowByte c (va.toNat + i))) (c.pc + 4)

/-- ST and STX to the hart's own hold window: the store is held in the strip's buffer with its address and the low bytes of its
register (R100, R113), a load of the same bytes then returns them (R102), memory stays as it is, and once the strip closes the
hold has them and no other byte differs (R112). -/
def Sys2Proof.Rules.windowStoreResult : Prop :=
  ∀ (s : State) (c : Core) (i : Instr) (g : BitVec 5) (va : Word) (n : Nat), s.Calm c → s.NoCommands c →
    ((∃ (a : BitVec 5) (z : BitVec 2) (o : BitVec 12), i = .st g a z o ∧ va = c.rg a + o.signExtend 64 ∧ n = 2 ^ z.toNat) ∨
      ∃ (a b : BitVec 5) (z j : BitVec 2), i = .stx g a b z j ∧ va = c.rg a + c.rg b <<< j.toNat ∧ n = 2 ^ z.toNat) →
    c.InWindow va n → s.Canonical →
    let byte (j : Nat) : Byte := BitVec.ofNat 8 ((c.rg g).toNat / 2 ^ (8 * j))
    let loc := holdLoc c.id.die c.id.pos (c.holdbase.toNat * 2 ^ 16 + va.toNat)
    ∃ (t : State) (k : Core), exec i s = .next t ∧ s.OnlyCore t ∧ t.core? t.cur = some k ∧ c.AfterScalar k 0#5 0 (c.pc + 4) ∧
      (∀ (d a : BitVec 5) (z : BitVec 3) (o : BitVec 12), d ≠ 0#5 → z.toNat < 7 → Rules.sizeOf z.toNat = n → k.rg a + o.signExtend 64 = va →
        t.RunsTo (.ld d a z o) fun j => j.rg d = Rules.loaded z ((List.range n).map byte)) ∧
      ∃ u, t.closeStrip = .ok u ∧ (∀ j, j < n → u.locByte (loc + j) = byte j) ∧
        ∀ l, l < loc ∨ loc + n ≤ l → u.locByte l = s.locByte l

/-- LD, LDX, ST and STX of translated memory (R100 to R103, R115, R267 to R272, R276, R277, R281, R365 to R370): by whichever of the
TLBs, the resident entry or the walk gives the page, of kind S, R or U. A load takes the bytes as its die sees them; a store to an S
page or one without speculation is performed as it executes, any other once the strip closes; S takes a checkpoint around itself.
Said of a line that no scalar data cache of the cell holds, and, where the access is performed at home, that the die holds no
copy of. -/
def Sys2Proof.Rules.pageAccessResult : Prop :=
  (∀ (s : State) (c : Core) (i : Instr) (d : BitVec 5) (z : BitVec 3) (va : Word) (huge : Bool) (w : Word), s.Calm c → s.NoCommands c →
    z.toNat < 7 →
    ((∃ (a : BitVec 5) (o : BitVec 12), i = .ld d a z o ∧ va = c.rg a + o.signExtend 64) ∨
      ∃ (a b : BitVec 5) (j : BitVec 2), i = .ldx d a b z j ∧ va = c.rg a + c.rg b <<< j.toNat) →
    let n := Rules.sizeOf z.toNat
    let pa := Rules.pageAddr huge w va
    Rules.pageReady s c va n 1 huge w → (∀ y ∈ (s.cell c.id.cell).sdc, y.line ≠ pa / 64) →
    ((w.getLsbD 12 = true ∧ ¬ Rules.strongPage w) ∨ ∀ x ∈ (s.die c.id.die).nonHome, x.line ≠ pa / 64) →
    ∃ t k, exec i s = .next t ∧ t.core? t.cur = some k ∧ (∀ l, t.locByte l = s.locByte l) ∧
      (∀ id, id ≠ s.cur → t.core? id = s.core? id) ∧
      (Rules.strongPage w → (Rules.around c).AfterScalar k d
        (Rules.loaded z ((List.range n).map fun j => Rules.dieByte s c.id.die (pa + j))) (c.pc + 4)) ∧
      (¬ Rules.strongPage w → c.AfterScalar k d
        (Rules.loaded z ((List.range n).map fun j => Rules.dieByte s c.id.die (pa + j))) (c.pc + 4))) ∧
  ∀ (s : State) (c : Core) (i : Instr) (g : BitVec 5) (va : Word) (n : Nat) (huge : Bool) (w : Word), s.Calm c → s.NoCommands c →
    ((∃ (a : BitVec 5) (z : BitVec 2) (o : BitVec 12), i = .st g a z o ∧ va = c.rg a + o.signExtend 64 ∧ n = 2 ^ z.toNat) ∨
      ∃ (a b : BitVec 5) (z j : BitVec 2), i = .stx g a b z j ∧ va = c.rg a + c.rg b <<< j.toNat ∧ n = 2 ^ z.toNat) →
    let pa := Rules.pageAddr huge w va
    let byte (j : Nat) : Byte := BitVec.ofNat 8 ((c.rg g).toNat / 2 ^ (8 * j))
    Rules.pageReady s c va n 2 huge w → Rules.unsealedFor s c.id.die pa → (∀ x ∈ (s.die c.id.die).nonHome, x.line ≠ pa / 64) →
    ∃ t k u, exec i s = .next t ∧ t.core? t.cur = some k ∧ (∀ id, id ≠ s.cur → t.core? id = s.core? id) ∧ t.closeStrip = .ok u ∧
      (Rules.strongPage w → (Rules.around c).AfterScalar k 0#5 0 (c.pc + 4) ∧ ∀ j, j < n → t.locByte (pa + j) = byte j) ∧
      (¬ Rules.strongPage w → c.AfterScalar k 0#5 0 (c.pc + 4) ∧ ∀ l, t.locByte l = s.locByte l) ∧
      (∀ j, j < n → Rules.dieByte u c.id.die (pa + j) = byte j) ∧ ∀ l, l < pa ∨ pa + n ≤ l → u.locByte l = s.locByte l

/-- LD, LDX, ST and STX of the hart's own hold window, and of translated memory (R100 to R103, R112, R113, R115, R267 to R272, R276,
R277, R281, R365 to R370). Where the rules leave room it follows the model's choices of log 6. -/
def Obligations.WindowAccessResult : Prop := Rules.windowLoadResult ∧ Rules.windowStoreResult ∧ Rules.pageAccessResult

namespace Sys2Proof.Rules

open Sys2Proof.Machine

/-- Who may use a control register (R28): bits [11:10] of its number give its class. -/
def mayUse (l : Level) (n : Nat) (write : Bool) : Prop :=
  n < 0x400 ∨ (n < 0x800 ∧ (write = false ∨ l ≠ .user)) ∨ (n < 0xC00 ∧ l ≠ .user) ∨ l = .machine

/-- What a supervisor's or the machine's write of `x` leaves in its own registers that held `o` (R361, R364). -/
def stewardWrites : Nat → Word → Word → Option Word
  | 0x880, o, x => some ((o &&& ~~~0x100) ||| (x &&& 0x100))
  | 0x881, _, x => some x
  | 0x882, _, x => some x
  | 0x883, _, x => some (x &&& 0x81F100FF)
  | 0x884, _, x => some x
  | 0x885, _, x => some (x &&& 0xFF)
  | 0xC00, o, x =>
    some ((o &&& ~~~0xC1) ||| (x &&& 1) ||| if x.toNat / 64 % 4 = 3 then 0x40 else x &&& 0xC0)
  | 0xC01, _, x => some x
  | 0xC02, _, x => some x
  | 0xC03, _, x => some (x &&& 0x81F100FF)
  | 0xC04, _, x => some x
  | _, _, _ => none

/-- The resume PC of a steward-bound trap (R121). -/
def resume (c : Core) (i : TrapInfo) (pc : Word) (unwinds : Bool) : Word :=
  if unwinds then c.ckpt else if i.cause = .svc then pc + 4 else pc

/-- The doublewords of the fault record of a hart's trap (R376). -/
def record (s : State) (c : Core) (i : TrapInfo) (pc : Word) (unwinds : Bool) : List Word :=
  let b (x : Bool) := if x then 1 else 0
  [BitVec.ofNat 64 (i.cause.code.toNat + 2 ^ 8 * b unwinds + 2 ^ 16 * (i.reason % 4) + 2 ^ 18 * (i.level % 4)
      + 2 ^ 32 * ((4 * c.id.pos + c.id.slot) % 256)
      + if c.split.on then 2 ^ 40 * c.split.lane.val + 2 ^ 44 else 0),
    i.addr, BitVec.ofNat 64 (i.elem % 2 ^ 32), pc, resume c i pc unwinds,
    match c.crew with
    | some (r, _) => BitVec.ofNat 64 (r.mem.queue * 2 ^ 58 + r.mem.seq % 2 ^ 26 * 2 ^ 32 + r.mem.index % 2 ^ 32)
    | none => 0,
    BitVec.ofNat 64 s.time, 0]

/-- Where a die's next fault record goes (R376). -/
def ringSlot (s : State) (d : Nat) : Nat :=
  (s.die d).fqbase.toNat % 2 ^ 48 / 2 ^ 14 * 2 ^ 14 + 64 * ((s.die d).fqhead.toNat % 256)

/-- A fault record has been written to the ring, and the steward's event latch set; or it waits while the ring is full
(R376). Said of a ring that no lockage holds and whose frame is not sealed (logs 26 and 34). -/
def reported (s t : State) (d : Nat) (r : List Word) : Prop :=
  s.Canonical → (s.die d).faultWait = [] → (s.homeWait d (ringSlot s d)).isNone → s.sealedAt (ringSlot s d) = false →
    if ((s.die d).fqhead - (s.die d).fqtail).toNat < 256 then
      (t.die d).fqhead = (s.die d).fqhead + 1 ∧ (t.die d).faultWait = [] ∧
        (∀ j, j < 8 → some (t.readWord (ringSlot s d + 8 * j)) = r[j]?) ∧
        ∀ w, s.core? (.steward d) = some w → t.core? (.steward d) = some { w with latch := true }
    else (t.die d).fqhead = (s.die d).fqhead ∧ (t.die d).faultWait = [r] ∧ ∀ l, t.locByte l = s.locByte l

/-- Memory is as before, but for the slot that a new fault record of die `d` takes in its ring (R376), which is no hold. -/
def ringOnly (s t : State) (d : Nat) : Prop :=
  ∀ l, 2 ^ 49 ≤ l ∨ (s.Canonical ∧ (s.die d).faultWait = [] ∧ (l < ringSlot s d ∨ ringSlot s d + 64 ≤ l)) →
    t.locByte l = s.locByte l

/-- A hart has trapped at its program counter (R117, R120, R121): a cause bound for cr.tvec has it in its handler, with memory as
before, where one is set and none runs; any other parks it, with memory as before but for its fault record. Nothing has been queued,
no stack has changed, and the hart's vector registers are as before. -/
def trapped (s t : State) (c : Core) (x : Cause) (va : Word) (elem : Nat) (unwinds : Bool) : Prop :=
  t.stackTbl = s.stackTbl ∧ t.binds = s.binds ∧ (∀ j, (t.cell j).queue = (s.cell j).queue) ∧
    (∀ d, (t.die d).sealt = (s.die d).sealt) ∧
    ∃ k, t.core? s.cur = some k ∧ c.SameVector k ∧ k.dtab = c.dtab ∧ k.fflags = c.fflags ∧
      if x ∈ [Cause.brk, .sparse, .stream, .layout, .bobj] ∧ c.tvec &&& ~~~3 ≠ 0 ∧ c.cause.active = false then
        k.pc = c.tvec &&& ~~~3 ∧ k.epc = c.pc ∧ k.cause.code = x.code ∧ k.cause.active = true ∧ k.cause.restart = unwinds ∧
          k.eaddr = va ∧ k.eelem = BitVec.ofNat 19 elem ∧ k.parked = c.parked ∧ ∀ l, t.locByte l = s.locByte l
      else
        ringOnly s t c.id.die ∧ k.epc = c.epc ∧ k.cause = c.cause ∧ ∃ p, k.parked = some p ∧ p.info.cause = x ∧ p.info.addr = va ∧
          p.info.elem = elem ∧ p.unwind = unwinds ∧ p.tpc = c.pc ∧ p.rpc = if unwinds then k.ckpt else c.pc

/-- VL, ill, grouping and format that SETVL makes of a request (R22). -/
def vectorState (grant avl : Nat) (f : BitVec 4) (g : BitVec 2) : Nat × Bool × BitVec 2 × BitVec 4 :=
  if 2 ^ g.toNat > fmtWidth f / 2 then (0, true, 0, 0)
  else (Nat.min avl (2 ^ g.toNat * grant * 64 / fmtWidth f), false, g, f)

/-- The core stands at an instruction outside split mode and repeat frames, and a strip that closes there releases
nothing. -/
def atStrip (s : State) (c : Core) : Prop :=
  s.core? s.cur = some c ∧ c.split.on = false ∧ c.frame = none ∧ c.around = false ∧ c.strip.buf = [] ∧
    c.stopAsked = false

/-- An instruction of the core answers a next state that has changed that core and its cell's dispatch bucket alone, as `p`
says. -/
def vectorRuns (s : State) (i : Instr) (p : Core → Prop) : Prop :=
  ∃ t k, exec i s = .next t ∧ s.OnlyCoreAndGate t ∧ t.core? s.cur = some k ∧ p k

/-- What SETVL and SETVLQ leave in a core (R22): the vector state, VL in `d`, cr.ckpt at a hart's new strip. -/
def vectorSet (c k : Core) (grant : BitVec 5) (d : BitVec 5) (avl : Nat) (r : BitVec 3) (f : BitVec 4) (g : BitVec 2) : Prop :=
  let v := vectorState grant.toNat avl f g
  k.vl.toNat = v.1 ∧ k.ill = v.2.1 ∧ k.glog = v.2.2.1 ∧ k.fmt = v.2.2.2 ∧ k.rc.toNat = r.toNat + 1 ∧ k.grant = grant ∧
    k.pc = c.pc + 4 ∧ k.ckpt = (if c.isSteward then c.ckpt else c.pc) ∧ k.stepwise = false ∧ k.strip.buf = [] ∧
    c.WritesScalar k d (BitVec.ofNat 64 v.1) ∧ c.SameVector k

end Sys2Proof.Rules

/-- CRR, CRW, CRS and CRC (R28, R110, R111, R115): the old value to gd; a write leaves the writable bits, changes no other control
register but cr.ckpt, by the checkpoint around it, and keeps memory and vector registers; CRS and CRC with g0 only read; cr.moved
clears by ones; ILLEGAL for an unassigned number, PRIV beyond the level. Where the rules leave room it follows the model's choices of
log 9. -/
def Obligations.ControlRegisterResult : Prop :=
  (∀ (s : State) (c : Core) (d : BitVec 5) (n : BitVec 12) (x : Word) (i : Instr), s.Plain c ∨ s.InLane c →
    s.crRead c n.toNat = some x → Rules.mayUse c.level n.toNat false →
    i = .crr d n ∨ i = .crs d 0#5 n ∨ i = .crc d 0#5 n → s.RunsTo i fun k => c.AfterScalar k d x (c.curPc + 4)) ∧
  (∀ (s : State) (c : Core) (d a : BitVec 5) (n : BitVec 12) (x y z : Word) (i : Instr), s.Calm c ∨ s.InLane c →
    s.crRead c n.toNat = some x → Rules.mayUse c.level n.toNat true →
    (i = .crw d a n ∧ y = c.rg a ∨ i = .crs d a n ∧ a ≠ 0#5 ∧ y = x ||| c.rg a ∨
      i = .crc d a n ∧ a ≠ 0#5 ∧ y = x &&& ~~~c.rg a) →
    (Rules.userWrites n.toNat y = some z ∨ Rules.stewardWrites n.toNat x y = some z ∨
      n = 7#12 ∧ z = if i = .crc d a n then x else x &&& ~~~c.rg a) →
    s.RunsTo i fun k => k.curPc = c.curPc + 4 ∧ c.WritesScalar k d x ∧ k.m = c.m ∧ k.y = c.y ∧
      (c.split.on = false → k.v = c.v) ∧
      ∀ j, s.crRead k j = if j = n.toNat then some z
        else if j = 0x404 ∧ c.split.on = false ∧ c.isSteward = false then some (c.pc + 4) else s.crRead c j) ∧
  ∀ (s : State) (c : Core) (d a : BitVec 5) (n : BitVec 12) (i : Instr) (w : Bool), s.Plain c ∨ s.InLane c →
    (i = .crr d n ∧ w = false ∨ i = .crw d a n ∧ w = true ∨ (i = .crs d a n ∨ i = .crc d a n) ∧ w = decide (a ≠ 0#5)) →
    (s.crRead c n.toNat = none → exec i s = .next (s.takeTrap { cause := .illegal } c.curPc false)) ∧
    ((s.crRead c n.toNat).isSome → ¬ Rules.mayUse c.level n.toNat w →
      exec i s = .next (s.takeTrap { cause := .priv } c.curPc false))

/-- A trap bound for cr.tvec (R120): with cr.tvec set and no handler active the registers of R120 are written and the hart goes on at
cr.tvec; after any unwind all other state is as it was. Where the rules leave room it follows the model's choices of log 15. -/
def Obligations.UserTrapEntry : Prop :=
  ∀ (s : State) (c : Core) (i : TrapInfo) (pc : Word) (u : Bool), s.core? s.cur = some c → c.isSteward = false →
    i.cause ∈ [Cause.brk, .sparse, .stream, .layout, .bobj] → c.tvec &&& ~~~3 ≠ 0 → c.cause.active = false →
    let t := s.takeTrap i pc u
    ∃ k, t.core? s.cur = some k ∧ k.curPc = c.tvec &&& ~~~3 ∧ k.epc = pc ∧ k.cause.code = i.cause.code ∧
      k.cause.active = true ∧ k.cause.restart = (u && !c.split.on) ∧ k.cause.split = c.split.on ∧
      k.cause.lane = (if c.split.on then BitVec.ofNat 4 c.split.lane else 0) ∧ k.eaddr = i.addr ∧
      k.eelem = BitVec.ofNat 19 i.elem ∧ k.parked = c.parked ∧ c.SameVector k ∧ k.frm = c.frm ∧ k.fflags = c.fflags ∧
      k.tvec = c.tvec ∧ k.scratch = c.scratch ∧ k.moved = c.moved ∧ k.vl = c.vl ∧ k.rc = c.rc ∧ k.ill = c.ill ∧
      k.glog = c.glog ∧ k.fmt = c.fmt ∧ k.grant = c.grant ∧ k.ckpt = c.ckpt ∧ k.dtab = c.dtab ∧
      ((u && !c.split.on) = false → k.g = c.g ∧ k.lq = c.lq ∧ k.strip = c.strip) ∧
      s.SameMemory t ∧ ∀ id, id ≠ s.cur → t.core? id = s.core? id

/-- A steward-bound trap of a hart (R117, R120, R121, R376): it parks with its resume PC, the registers of R120 are not
written, and its fault record is reported. Where the rules leave room it follows the model's choices of logs 15 and 21. -/
def Obligations.StewardTrapParks : Prop :=
  ∀ (s : State) (c : Core) (i : TrapInfo) (pc : Word) (u : Bool), s.core? s.cur = some c → c.isSteward = false →
    (i.cause ∉ [Cause.brk, .sparse, .stream, .layout, .bobj] ∨ c.tvec &&& ~~~3 = 0 ∨ c.cause.active = true) →
    let t := s.takeTrap i pc u
    let un := u && !c.split.on
    ∃ k, t.core? s.cur = some k ∧
      k.parked = some ⟨i, un, pc, Rules.resume c i pc un, if c.split.on then c.split.lane.val else 0, c.split.on⟩ ∧
      k.curPc = Rules.resume c i pc un ∧ k.epc = c.epc ∧ k.cause = c.cause ∧ k.eaddr = c.eaddr ∧ k.eelem = c.eelem ∧
      c.SameVector k ∧ (un = false → k.g = c.g ∧ k.lq = c.lq ∧ k.strip = c.strip) ∧
      Rules.reported s t s.cur.die (Rules.record s c i pc un)

/-- An unwind (R114, R134): each scalar register that the strip wrote has its strip-entry value again, the others theirs; buffered
stores and tentative pushes are gone and the entry SETVLQ popped is back at the head; vector, mask and tile registers, the
decoder table and cr.fflags keep their values. -/
def Obligations.UnwindRestoresStripEntry : Prop :=
  ∀ (s : State) (c : Core) (i : TrapInfo) (pc : Word), s.core? s.cur = some c → c.isSteward = false →
    c.split.on = false →
    ∃ k, (s.takeTrap i pc true).core? s.cur = some k ∧
      (∀ r : Fin 32, k.g.get r = ((c.strip.hist.reverse.find? fun e => e.1 = r.val).map Prod.snd).getD (c.g.get r)) ∧
      k.strip = .empty ∧ k.ckpt = c.ckpt ∧ c.SameVector k ∧ k.dtab = c.dtab ∧ k.fflags = c.fflags ∧
      k.lq = (match c.strip.popped with | some v => [⟨v, false⟩] | none => []) ++ c.lq.filter fun e => !e.tentative

/-- SVC and BRK (R119): SVC parks the hart with its code and with the address after it in cr.ckpt and as resume PC; BRK enters
the user handler with its code in cr.eaddr and its own address in cr.epc, or parks. A steward core's traps have handlers of their
own (R361, R364), and R119 says nothing of its SVC: by the model's choice (log 15) SVC enters cr.svec there, cr.mvec at machine
level, with its own address saved. -/
def Obligations.SvcAndBrkResult : Prop :=
  (∀ (s : State) (c : Core) (n : BitVec 12), s.Calm c → c.isSteward = false →
    ∃ t k, exec (.svc n) s = .next t ∧ t.core? s.cur = some k ∧
      k.parked = some ⟨{ cause := .svc, addr := n.setWidth 64 }, false, c.pc, c.pc + 4, 0, false⟩ ∧
      k.pc = c.pc + 4 ∧ k.ckpt = c.pc + 4 ∧ k.g = c.g ∧ c.SameVector k ∧ k.fflags = c.fflags ∧ k.epc = c.epc ∧
      k.cause = c.cause ∧ k.eaddr = c.eaddr ∧ k.eelem = c.eelem ∧
      Rules.reported s t s.cur.die (Rules.record s c { cause := .svc, addr := n.setWidth 64 } c.pc false)) ∧
  (∀ (s : State) (c : Core) (n : BitVec 12), s.Plain c ∨ s.InLane c → c.isSteward = false →
    c.tvec &&& ~~~3 ≠ 0 → c.cause.active = false →
    ∃ t k, exec (.brk n) s = .next t ∧ t.core? s.cur = some k ∧ s.SameMemory t ∧
      k.epc = c.curPc ∧ k.eaddr = n.setWidth 64 ∧ k.eelem = 0 ∧
      k.cause = ⟨0x05, c.split.on, if c.split.on then BitVec.ofNat 4 c.split.lane else 0, false, true⟩ ∧
      k.curPc = c.tvec &&& ~~~3 ∧ k.g = c.g ∧ c.SameVector k ∧ k.strip = c.strip ∧ k.ckpt = c.ckpt) ∧
  (∀ (s : State) (c : Core) (n : BitVec 12), s.Plain c ∨ s.InLane c →
    exec (.brk n) s = .next (s.takeTrap { cause := .brk, addr := n.setWidth 64 } c.curPc false)) ∧
  (∀ (s : State) (c : Core) (n : BitVec 12), s.Calm c → c.isSteward = true → c.level ≠ .machine →
    ∃ t k, exec (.svc n) s = .next t ∧ t.core? s.cur = some k ∧ s.SameMemory t ∧ k.level = .supervisor ∧
      k.pc = c.st.svec ∧ k.st.sepc = c.pc ∧ k.st.scause.code = 0x06 ∧ k.st.spp = decide (c.level = .supervisor) ∧
      k.g = c.g) ∧
  ∀ (s : State) (c : Core) (n : BitVec 12), s.Calm c → c.isSteward = true → c.level = .machine →
    ∃ t k, exec (.svc n) s = .next t ∧ t.core? s.cur = some k ∧ s.SameMemory t ∧ k.level = .machine ∧
      k.pc = c.st.mvec ∧ k.st.mepc = c.pc ∧ k.st.mcause.code = 0x06 ∧ k.st.mpp = 2 ∧ k.g = c.g

/-- RETT (R122, R361, R364): from a user handler to cr.ckpt after an unwinding trap and to cr.epc after a precise one, with
active cleared and nothing else changed; ILLEGAL with no handler active; a steward core returns from cr.sepc or cr.mepc to the
level before. -/
def Obligations.ReturnFromTrap : Prop :=
  (∀ (s : State) (c : Core), s.Plain c ∨ s.InLane c → c.isSteward = false ∨ c.level = .user →
    (c.cause.active = true → s.RunsTo .rett fun k =>
      ({ c with cause := { c.cause with active := false } }).AfterScalar k 0#5 0
        (if c.cause.restart then c.ckpt else c.epc)) ∧
    (c.cause.active = false → exec .rett s = .next (s.takeTrap { cause := .illegal } c.curPc false))) ∧
  ∀ (s : State) (c : Core), s.Plain c → c.isSteward = true → c.level ≠ .user →
    s.RunsTo .rett fun k => k.g = c.g ∧ k.st = c.st ∧ c.SameVector k ∧
      if c.level = .machine then
        k.pc = c.st.mepc ∧ k.level = (if c.st.mpp = 0 then .user else if c.st.mpp = 2 then .machine else .supervisor)
      else k.pc = c.st.sepc ∧ k.level = if c.st.spp then .supervisor else .user

/-- YIELD, WFE and IFENCE (R118, R255): YIELD closes the strip and goes on, or stops there for a pre-emption; WFE takes the event
latch and goes on, or waits; IFENCE closes the strip, and fetches see memory as it is then (log 13). -/
def Sys2Proof.Rules.yieldWfeIfenceResult : Prop :=
  (∀ (s : State) (c : Core), s.Calm c → s.RunsTo .yield fun k => (Rules.closed c).AfterScalar k 0#5 0 (c.pc + 4) ∧
    (c.isSteward = false → k.strip = .empty) ∧ k.stopped = c.stopped) ∧
  (∀ (s : State) (c : Core), s.Plain c → c.strip.buf = [] → c.stopAsked = true → s.RunsTo .yield fun k =>
    k.stopped = true ∧ k.pc = c.pc + 4 ∧ k.ckpt = c.pc + 4 ∧ k.g = c.g ∧ c.SameVector k) ∧
  (∀ (s : State) (c : Core), s.InLane c → s.RunsTo .yield fun k => c.AfterScalar k 0#5 0 (c.curPc + 4)) ∧
  (∀ (s : State) (c : Core), s.Plain c ∨ s.InLane c → c.latch = true →
    s.RunsTo .wfe fun k => ({ c with latch := false }).AfterScalar k 0#5 0 (c.curPc + 4)) ∧
  (∀ (s : State) (c : Core), s.Plain c → c.latch = false →
    s.RunsTo .wfe fun k => k = { c with wait := .wfe }) ∧
  (∀ (s : State) (c : Core), s.InLane c → c.latch = false →
    s.RunsTo .wfe fun k => k.curPc = c.curPc ∧ k.split.wfe = c.split.wfe ||| BitVec.ofNat 16 (2 ^ c.split.lane.val) ∧
      k.g = c.g ∧ c.SameVector k) ∧
  ∀ (s : State) (c : Core), s.Calm c →
    ∃ t k, exec .ifence s = .next t ∧ t = { s with cores := t.cores, cells := t.cells } ∧
      (∀ id, id ≠ s.cur → t.core? id = s.core? id) ∧ (∀ n, n ≠ c.id.cell → t.cell n = s.cell n) ∧
      t.cell c.id.cell = { s.cell c.id.cell with
        log := (s.cell c.id.cell).log.map fun e => if e.core = c.id ∧ e.crew = c.crew then { e with fenced := true } else e } ∧
      t.core? t.cur = some k ∧ (Rules.closed c).AfterScalar k 0#5 0 (c.pc + 4) ∧ k.fetched = [] ∧ k.code = s.codeView ∧
      (c.isSteward = false → k.strip = .empty)

/-- HALT (R118): the hart's slot is free and its crew counts it as halted; memory and the other cores' registers are as before; a
lane thread leaves the active set and counts as having reached every later VJOIN. Said of a hart whose stores stand in no dirty
copy of its die; such lines go home first, which they may at any time (R271; log 14). -/
def Sys2Proof.Rules.haltResult : Prop :=
  (∀ (s : State) (c : Core), s.Calm c → s.heldFault c false = none → (∀ a, s.homeWait c.id.die a = none) →
    ∃ t, exec .halt s = .next t ∧ t.core? s.cur = none ∧
    ∀ r h x, c.crew = some (r, h) → s.crew? r = some x → x.held = [] →
      t.crew? r = some { x with halted := x.halted ++ [h] } ∧
      ((∀ y ∈ (s.die c.id.die).nonHome, c.id ∈ y.writers → y.dirty = 0) → s.SameMemory t) ∧
      ∀ id k, id ≠ s.cur → s.core? id = some k → ∃ g, t.core? id = some { k with target := g }) ∧
  ∀ (s : State) (c : Core), s.InLane c → c.split.active &&& ~~~(BitVec.ofNat 16 (2 ^ c.split.lane.val)) ≠ 0 →
    (∀ y ∈ (s.die c.id.die).nonHome, c.id ∈ y.writers → y.dirty = 0) → s.RunsTo .halt fun k => k.g = c.g ∧ c.SameVector k ∧ k.pc = c.pc ∧
      k.split = { c.split with
        active := c.split.active &&& ~~~(BitVec.ofNat 16 (2 ^ c.split.lane.val))
        halted := c.split.halted ||| BitVec.ofNat 16 (2 ^ c.split.lane.val) }

/-- YIELD, WFE, IFENCE and HALT (R118, R255). Where the rules leave room it follows the model's choices of logs 13 and 14. -/
def Obligations.ExecutionControlResult : Prop := Rules.yieldWfeIfenceResult ∧ Rules.haltResult

/-- ENRG and TOPO (R115, R124 to R126): ENRG posts what is measured and not yet posted (log 1) and writes the crew's account in µJ,
with a checkpoint around it; a member that this takes past its ceiling is held and asked to stop (R403); TOPO writes the items of R125,
and traps ILLEGAL from 0x00B on. Where the rules leave room it follows the model's choices of log 25. -/
def Obligations.EnergyAndTopologyResult : Prop :=
  (∀ (s : State) (c : Core) (d : BitVec 5), s.Calm c → (∀ m ∈ (s.postShare c).members, m.pastCeiling = true → m.energyHeld = true) →
    ∃ t k, exec (.enrg d) s = .next t ∧ t = { s with ticks := t.ticks, cores := t.cores, members := t.members } ∧
      (∀ id, id ≠ s.cur → t.core? id = s.core? id) ∧ t.core? s.cur = some k ∧
      ∃ x, (Rules.around c).AfterScalar k d x (c.pc + 4) ∧ (c.crew = none → x = 0 ∧ t.members = s.members) ∧
        ∀ r h y, c.crew = some (r, h) → s.crew? r = some y →
          x = BitVec.ofNat 64 ((y.energy + Config.unposted s.ticks) / 1000) ∧
          t.crew? r = some { y with energy := y.energy + Config.unposted s.ticks }) ∧
  (∀ (s : State) (c : Core) (d : BitVec 5) (r : CrewRef) (h : Nat) (m : Member), s.Calm c → c.crew = some (r, h) →
    (s.postShare c).member? r.mem = some m → m.pastCeiling = true → m.energyHeld = false → m.state = .resident →
    (∃ y ∈ m.crews, y.ref = r) →
    ∃ t k z, exec (.enrg d) s = .next t ∧ t.core? s.cur = some k ∧ k.stopAsked = true ∧ k.pc = c.pc + 4 ∧
      (d ≠ 0 → k.rg d = (s.postShare c).account c) ∧ (h = 0 → k.pending.energy = true) ∧
      t.member? r.mem = some z ∧ z.energyHeld = true ∧ z.state = .stopping) ∧
  (∀ (s : State) (c : Core) (d : BitVec 5) (i : BitVec 12) (x : Nat), s.Plain c ∨ s.InLane c →
    (i = 0 ∧ x = s.part.grade ∨ i = 1 ∧ x = 128 ∨
      s.part.grade = 8192 ∧ (i = 2 ∧ x = 64 ∨ i = 3 ∧ x = 63 ∨ i = 4 ∧ x = 128 ∨ i = 5 ∧ x = 128) ∨
      s.part.grade = 7840 ∧ (i = 2 ∧ x = 61 ∨ i = 3 ∧ x = 61 ∨ i = 4 ∧ x = 32 ∨ i = 5 ∧ x = 123) ∨
      i = 6 ∧ c.isSteward = true ∧ x = 2 ^ 64 - 1 ∨
      i = 6 ∧ c.isSteward = false ∧ (∃ l, s.logicalDie? c.id.die = some l ∧ x = 64 * l + c.id.pos) ∨
      i = 7 ∧ x = c.id.die ∨
      i = 8 ∧ (∃ l h, l < h ∧ h < 128 ∧ isCandidate c.id.die l = true ∧ isCandidate c.id.die h = true ∧ x = 256 * h + l) ∨
      i = 9 ∧ x = s.panel.toNat ∨
      i = 10 ∧ x = if c.isSteward then 0 else s.cellsOfDie c.id.die) →
    s.RunsTo (.topo d i) fun k => c.AfterScalar k d (BitVec.ofNat 64 x) (c.curPc + 4)) ∧
  ∀ (s : State) (c : Core) (d : BitVec 5) (i : BitVec 12), s.Plain c ∨ s.InLane c → 0x00B ≤ i.toNat →
    exec (.topo d i) s = .next (s.takeTrap { cause := .illegal } c.curPc false)

/-- SETVL (R22, R23, R112): VL, RC, VTYPE and cr.grant in one step, VL in gd, and a hart's new strip at its own address;
a pending reclaim or return is the grant that counts. It never traps; while the dispatch gate of its cell is closed it waits
(R252). -/
def Sys2Proof.Rules.setvlResult : Prop :=
  (∀ (s : State) (c : Core) (d a : BitVec 5) (r : BitVec 3) (f : BitVec 4) (g : BitVec 2), Rules.atStrip s c → c.target = none →
    (c.isSteward = true ∨ s.GateOpen c →
      Rules.vectorRuns s (.setvl d a r f g) fun k => Rules.vectorSet c k c.grant d (c.rg a).toNat r f g ∧ k.fflags = c.fflags ∧
        k.lq = (Rules.closed c).lq) ∧
    (c.isSteward = false → ¬ s.GateOpen c →
      s.RunsTo (.setvl d a r f g) fun k => k.wait = .gate 0 ∧ k.pc = c.pc ∧ k.g = c.g ∧ c.SameVector k ∧ k.vl = c.vl)) ∧
  ∀ (s : State) (c : Core) (d a : BitVec 5) (r : BitVec 3) (f : BitVec 4) (g : BitVec 2) (n : BitVec 5), Rules.atStrip s c →
    c.target = some n → c.isSteward = true ∨ s.GateOpen c →
    ∃ t k, exec (.setvl d a r f g) s = .next t ∧ t.core? s.cur = some k ∧ s.SameMemory t ∧
      Rules.vectorSet c k n d (c.rg a).toNat r f g

/-- SETVLQ (R134): as SETVL with the count at the head of the length queue, which it removes and its strip remembers; it
waits while the queue is empty. -/
def Sys2Proof.Rules.setvlqResult : Prop :=
  (∀ (s : State) (c : Core) (d : BitVec 5) (r : BitVec 3) (f : BitVec 4) (g : BitVec 2) (e : LqEntry) (rest : List LqEntry),
    Rules.atStrip s c → c.target = none → c.lq = e :: rest → c.isSteward = true ∨ s.GateOpen c →
    Rules.vectorRuns s (.setvlq d r f g) fun k => Rules.vectorSet c k c.grant d e.val.toNat r f g ∧ k.fflags = c.fflags ∧
      (k.lq.map LqEntry.val = rest.map LqEntry.val) ∧ (c.isSteward = false → k.strip.popped = some e.val)) ∧
  ∀ (s : State) (c : Core) (d : BitVec 5) (r : BitVec 3) (f : BitVec 4) (g : BitVec 2), Rules.atStrip s c → c.lq = [] →
    s.RunsTo (.setvlq d r f g) fun k => k.wait = .lqPop d r f g ∧ k.pc = c.pc ∧ k.g = c.g ∧ c.SameVector k

/-- SETVL and SETVLQ (R22, R23, R112, R134, R252). -/
def Obligations.VectorSetResult : Prop := Rules.setvlResult ∧ Rules.setvlqResult

namespace Sys2Proof.Rules

open Sys2Proof.Machine

/-- The vector state as SETVL leaves it (R21, R22): a supported width and grouping, VL at most VLMAX, 1 to 16 lanes, 1 to 8 rows. -/
def vectorLegal (c : Core) : Prop :=
  c.ill = false ∧ 2 * 2 ^ c.glog.toNat ≤ fmtWidth c.fmt ∧ c.vl.toNat * fmtWidth c.fmt ≤ 2 ^ c.glog.toNat * c.grant.toNat * 64 ∧
    1 ≤ c.grant.toNat ∧ c.grant.toNat ≤ 16 ∧ 1 ≤ c.rc.toNat ∧ c.rc.toNat ≤ 8

/-- Element e of row i is active (R127). -/
def active (c : Core) (m : BitVec 4) (inv : Bool) (i e : Nat) : Bool :=
  decide (i < c.rc.toNat) && decide (e < c.vl.toNat) && c.gateOn m inv i e

/-- What a vector instruction leaves but for the vector and mask registers, the scalar registers and the flags. -/
def vectorFrame (c k : Core) : Prop :=
  k.pc = c.pc + 4 ∧ k.y = c.y ∧ c.SameSpecial k ∧ k.latch = c.latch ∧ (k.ckpt = c.ckpt ∨ k.ckpt = c.pc + 4)

/-- A sweep (R13, R127): whether its formats and registers are accepted (R14, R129), its destination with grouping and width, the
elements it writes, and the value and flags of each. -/
structure Sweep where
  legal : Bool
  d : Nat
  g : Nat
  w : Nat
  on : Nat → Nat → Bool
  value : Nat → Nat → Nat × Flags

/-- The elements of a sweep hold their values, no other bit of a vector register has changed, and each flag raised is in fflags. -/
def swept (c k : Core) (z : Sweep) : Prop :=
  (∀ i e, z.on i e = true → k.elem z.d z.g z.w i e = (z.value i e).1) ∧
  (∀ n b, n < 64 → b < 1024 →
    (∀ i e, z.on i e = true → ¬ (n = c.elemReg z.d z.g z.w i e ∧ c.elemBit z.w e ≤ b ∧ b < c.elemBit z.w e + z.w)) →
    (k.vreg n).getLsbD b = (c.vreg n).getLsbD b) ∧
  ∀ b, b < 5 → (k.fflags.getLsbD b = true ↔ c.fflags.getLsbD b = true ∨ ∃ i e, z.on i e = true ∧ (z.value i e).2.getLsbD b = true)

/-- Rows of a mask register destination (R16): bit e·σ of element e below VL as `f` says, the other bits below VL·σ zero, the
rest and all other mask registers as before. -/
def masked (c k : Core) (d : Nat) (f : Nat → Nat → Bool) : Prop :=
  let sg := fmtWidth c.fmt / (2 * 2 ^ c.glog.toNat)
  (∀ i b, i < c.rc.toNat → d + i ≠ 0 → b < 512 → (k.mreg (d + i)).getLsbD b =
    if b < c.vl.toNat * sg then decide (b % sg = 0) && f i (b / sg) else (c.mreg (d + i)).getLsbD b) ∧
  ∀ n, (∀ i, i < c.rc.toNat → n ≠ d + i) → k.mreg n = c.mreg n

/-- What holds of an instruction that is a sweep: its result and its frame, and the VTYPE trap where it is not accepted (R14,
R22, R129). -/
def sweeps (form : Core → Instr → Option Sweep) : Prop :=
  (∀ (s : State) (c : Core) (i : Instr) (z : Sweep), s.Calm c → vectorLegal c → s.GateOpen c → form c i = some z →
    z.legal = true → vectorRuns s i fun k => swept c k z ∧ vectorFrame c k ∧ k.g = c.g ∧ k.m = c.m ∧
      k.lq.map LqEntry.val = c.lq.map LqEntry.val) ∧
  ∀ (s : State) (c : Core) (i : Instr) (z : Sweep), s.Plain c → form c i = some z → c.ill = true ∨ z.legal = false →
    exec i s = .next (s.takeTrap { cause := .vtype } c.curPc false)

/-- A clamp to a format's range (R42). -/
def clamp (f : BitVec 4) (x : Int) : Nat := toField (max (leastOf f) (min x (greatestOf f))) (fmtWidth f)

/-- The operations of R144 and R153 on the elements a, b and the old destination, as bits of the format's width. -/
def vAdd (f : BitVec 4) (a b _ : Nat) : Nat := (a + b) % 2 ^ fmtWidth f
def vSub (f : BitVec 4) (a b _ : Nat) : Nat := (a + 2 ^ fmtWidth f - b) % 2 ^ fmtWidth f
def vMul (f : BitVec 4) (a b _ : Nat) : Nat := a * b % 2 ^ fmtWidth f
def vMulh (f : BitVec 4) (a b _ : Nat) : Nat := toField (intOf f a * intOf f b / 2 ^ fmtWidth f) (fmtWidth f)
def vMac (f : BitVec 4) (a b old : Nat) : Nat := (old + a * b) % 2 ^ fmtWidth f
def vMin (f : BitVec 4) (a b _ : Nat) : Nat := if intOf f a ≤ intOf f b then a else b
def vMax (f : BitVec 4) (a b _ : Nat) : Nat := if intOf f b ≤ intOf f a then a else b
def vAbsd (f : BitVec 4) (a b _ : Nat) : Nat := (intOf f a - intOf f b).natAbs
def vAnd (_ : BitVec 4) (a b _ : Nat) : Nat := a &&& b
def vOr (_ : BitVec 4) (a b _ : Nat) : Nat := a ||| b
def vXor (_ : BitVec 4) (a b _ : Nat) : Nat := a ^^^ b
def vSll (f : BitVec 4) (a b _ : Nat) : Nat := a * 2 ^ (b % fmtWidth f) % 2 ^ fmtWidth f
def vSrl (f : BitVec 4) (a b _ : Nat) : Nat := a / 2 ^ (b % fmtWidth f)
def vSra (f : BitVec 4) (a b _ : Nat) : Nat := toField (intOf f a / 2 ^ (b % fmtWidth f)) (fmtWidth f)
def vSadd (f : BitVec 4) (a b _ : Nat) : Nat := clamp f (intOf f a + intOf f b)
def vSsub (f : BitVec 4) (a b _ : Nat) : Nat := clamp f (intOf f a - intOf f b)
def vBext (f : BitVec 4) (a b _ : Nat) : Nat := a / 2 ^ (4 * (b % (fmtWidth f / 4))) % 16

/-- A two-operand sweep whose destination has its sources' width. -/
def same (c : Core) (ok : Bool) (d a : BitVec 6) (x : Second) (m : BitVec 4) (inv : Bool)
    (op : Nat → Nat → Nat → Nat × Flags) : Sweep :=
  let g := 2 ^ c.glog.toNat
  let w := fmtWidth c.fmt
  ⟨ok && fits d.toNat g c.rc.toNat && fits a.toNat g c.rc.toNat && x.fits g c.rc.toNat, d.toNat, g, w, active c m inv,
    fun i e => op (c.elem a.toNat g w i e) (c.second x i e) (c.elem d.toNat g w i e)⟩

/-- The integer sweeps (R129, R144, R153). -/
def integerSweep (c : Core) (i : Instr) : Option Sweep :=
  let anyInt := c.fmt.toNat < 10
  let of (ok : Bool) (op : BitVec 4 → Nat → Nat → Nat → Nat) (d a : BitVec 6) (x : Second) (m : BitVec 4) (n : BitVec 1) :=
    some (same c ok d a x m (n = 1) fun a b o => (op c.fmt a b o, 0))
  match i with
  | .vaddVv d a b m _ _ => of anyInt vAdd d a (.vv b) m 0
  | .vaddVs d a r m _ n => of anyInt vAdd d a (.vs r) m n
  | .vaddVi d a k m _ n => of anyInt vAdd d a (.vi k) m n
  | .vsubVv d a b m _ _ => of anyInt vSub d a (.vv b) m 0
  | .vsubVs d a r m _ n => of anyInt vSub d a (.vs r) m n
  | .vsubVi d a k m _ n => of anyInt vSub d a (.vi k) m n
  | .vmulVv d a b m _ _ => of anyInt vMul d a (.vv b) m 0
  | .vmulVs d a r m _ n => of anyInt vMul d a (.vs r) m n
  | .vmulVi d a k m _ n => of anyInt vMul d a (.vi k) m n
  | .vmulhVv d a b m _ _ => of anyInt vMulh d a (.vv b) m 0
  | .vmulhVs d a r m _ n => of anyInt vMulh d a (.vs r) m n
  | .vmulhVi d a k m _ n => of anyInt vMulh d a (.vi k) m n
  | .vmacVv d a b m _ _ => of anyInt vMac d a (.vv b) m 0
  | .vmacVs d a r m _ n => of anyInt vMac d a (.vs r) m n
  | .vmacVi d a k m _ n => of anyInt vMac d a (.vi k) m n
  | .vminVv d a b m _ _ => of anyInt vMin d a (.vv b) m 0
  | .vminVs d a r m _ n => of anyInt vMin d a (.vs r) m n
  | .vminVi d a k m _ n => of anyInt vMin d a (.vi k) m n
  | .vmaxVv d a b m _ _ => of anyInt vMax d a (.vv b) m 0
  | .vmaxVs d a r m _ n => of anyInt vMax d a (.vs r) m n
  | .vmaxVi d a k m _ n => of anyInt vMax d a (.vi k) m n
  | .vabsdVv d a b m _ _ => of anyInt vAbsd d a (.vv b) m 0
  | .vabsdVs d a r m _ n => of anyInt vAbsd d a (.vs r) m n
  | .vabsdVi d a k m _ n => of anyInt vAbsd d a (.vi k) m n
  | .vandVv d a b m _ _ => of true vAnd d a (.vv b) m 0
  | .vandVs d a r m _ n => of true vAnd d a (.vs r) m n
  | .vandVi d a k m _ n => of true vAnd d a (.vi k) m n
  | .vorVv d a b m _ _ => of true vOr d a (.vv b) m 0
  | .vorVs d a r m _ n => of true vOr d a (.vs r) m n
  | .vorVi d a k m _ n => of true vOr d a (.vi k) m n
  | .vxorVv d a b m _ _ => of true vXor d a (.vv b) m 0
  | .vxorVs d a r m _ n => of true vXor d a (.vs r) m n
  | .vxorVi d a k m _ n => of true vXor d a (.vi k) m n
  | .vsllVv d a b m _ _ => of anyInt vSll d a (.vv b) m 0
  | .vsllVs d a r m _ n => of anyInt vSll d a (.vs r) m n
  | .vsllVi d a k m _ n => of anyInt vSll d a (.vi k) m n
  | .vsrlVv d a b m _ _ => of anyInt vSrl d a (.vv b) m 0
  | .vsrlVs d a r m _ n => of anyInt vSrl d a (.vs r) m n
  | .vsrlVi d a k m _ n => of anyInt vSrl d a (.vi k) m n
  | .vsraVv d a b m _ _ => of anyInt vSra d a (.vv b) m 0
  | .vsraVs d a r m _ n => of anyInt vSra d a (.vs r) m n
  | .vsraVi d a k m _ n => of anyInt vSra d a (.vi k) m n
  | .vsaddVv d a b m _ _ => of anyInt vSadd d a (.vv b) m 0
  | .vsaddVs d a r m _ n => of anyInt vSadd d a (.vs r) m n
  | .vsaddVi d a k m _ n => of anyInt vSadd d a (.vi k) m n
  | .vssubVv d a b m _ _ => of anyInt vSsub d a (.vv b) m 0
  | .vssubVs d a r m _ n => of anyInt vSsub d a (.vs r) m n
  | .vssubVi d a k m _ n => of anyInt vSsub d a (.vi k) m n
  | .vbextVv d a b m _ _ => of (anyInt && 4 ≤ fmtWidth c.fmt) vBext d a (.vv b) m 0
  | .vbextVs d a r m _ n => of (anyInt && 4 ≤ fmtWidth c.fmt) vBext d a (.vs r) m n
  | .vbextVi d a k m _ n => of (anyInt && 4 ≤ fmtWidth c.fmt) vBext d a (.vi k) m n
  | _ => none

/-- VWADD, VWMUL and VNSR (R145). -/
def wideSweep (c : Core) (i : Instr) : Option Sweep :=
  let g := 2 ^ c.glog.toNat
  let w := fmtWidth c.fmt
  let r := c.rc.toNat
  let ok := c.fmt.toNat < 10 && w ≤ 32
  let up (op : Int → Int → Int) (d a : BitVec 6) (x : Second) (m : BitVec 4) (n : BitVec 1) : Option Sweep :=
    some ⟨ok && fits d.toNat (2 * g) r && fits a.toNat g r && x.fits g r, d.toNat, 2 * g, 2 * w, active c m (n = 1), fun i e =>
      (toField (op (intOf c.fmt (c.elem a.toNat g w i e)) (intOf c.fmt (c.second x i e))) (2 * w), 0)⟩
  let down (d a : BitVec 6) (x : Second) (m : BitVec 4) (n : BitVec 1) : Option Sweep :=
    some ⟨ok && fits d.toNat g r && fits a.toNat (2 * g) r && x.fits g r, d.toNat, g, w, active c m (n = 1), fun i e =>
      let b := c.elem a.toNat (2 * g) (2 * w) i e
      let y : Int := if c.fmt.toNat ≤ 5 then sext b (2 * w) else b
      let k := c.second x i e % (2 * w)
      (clamp c.fmt (if k = 0 then y else (y + 2 ^ (k - 1)) / 2 ^ k), 0)⟩
  match i with
  | .vwaddVv d a b m _ _ => up (fun x y => x + y) d a (.vv b) m 0
  | .vwaddVs d a r m _ n => up (fun x y => x + y) d a (.vs r) m n
  | .vwaddVi d a k m _ n => up (fun x y => x + y) d a (.vi k) m n
  | .vwmulVv d a b m _ _ => up (fun x y => x * y) d a (.vv b) m 0
  | .vwmulVs d a r m _ n => up (fun x y => x * y) d a (.vs r) m n
  | .vwmulVi d a k m _ n => up (fun x y => x * y) d a (.vi k) m n
  | .vnsrVv d a b m _ _ => down d a (.vv b) m 0
  | .vnsrVs d a r m _ n => down d a (.vs r) m n
  | .vnsrVi d a k m _ n => down d a (.vi k) m n
  | _ => none

/-- The floating-point sweeps (R55 to R60, R147, R150 to R152) and VMV (R158): one rounding of the exact result by cr.frm. -/
def floatSweep (c : Core) (i : Instr) : Option Sweep :=
  let f := c.fmt
  let mode := modeOfFrm c.frm
  let fp := 10 ≤ f.toNat
  let two (op : Val → Val → Val → Nat × Flags) (d a : BitVec 6) (x : Second) (m : BitVec 4) (n : BitVec 1) :=
    some (same c fp d a x m (n = 1) fun a b o => op (valOf f a) (valOf f b) (valOf f o))
  let one (ok : Bool) (op : Nat → Nat × Flags) (d a : BitVec 6) (m : BitVec 4) (n : BitVec 1) :=
    some (same c ok d a (.vi 0) m (n = 1) fun a _ _ => op a)
  match i with
  | .vfaddVv d a b m _ _ => two (fun a b _ => sumRule f mode [.of a, .of b]) d a (.vv b) m 0
  | .vfaddVs d a r m _ n => two (fun a b _ => sumRule f mode [.of a, .of b]) d a (.vs r) m n
  | .vfsubVv d a b m _ _ => two (fun a b _ => sumRule f mode [.of a, .of b.negate]) d a (.vv b) m 0
  | .vfsubVs d a r m _ n => two (fun a b _ => sumRule f mode [.of a, .of b.negate]) d a (.vs r) m n
  | .vfmulVv d a b m _ _ => two (fun a b _ => mulRule f mode a b) d a (.vv b) m 0
  | .vfmulVs d a r m _ n => two (fun a b _ => mulRule f mode a b) d a (.vs r) m n
  | .vfmaVv d a b m _ _ => two (fun a b o => sumRule f mode [product [a, b], .of o]) d a (.vv b) m 0
  | .vfmaVs d a r m _ n => two (fun a b o => sumRule f mode [product [a, b], .of o]) d a (.vs r) m n
  | .vfdivVv d a b m _ _ => two (fun a b _ => divRule f mode a b) d a (.vv b) m 0
  | .vfdivVs d a r m _ n => two (fun a b _ => divRule f mode a b) d a (.vs r) m n
  | .vfminVv d a b m _ _ => two (fun a b _ => minRule f a b) d a (.vv b) m 0
  | .vfminVs d a r m _ n => two (fun a b _ => minRule f a b) d a (.vs r) m n
  | .vfmaxVv d a b m _ _ => two (fun a b _ => maxRule f a b) d a (.vv b) m 0
  | .vfmaxVs d a r m _ n => two (fun a b _ => maxRule f a b) d a (.vs r) m n
  | .vfsqrt d a m _ n => one fp (fun a => sqrtRule f mode (valOf f a)) d a m n
  | .vfrcp d a m _ n => one fp (fun a => rcpRule f mode (valOf f a)) d a m n
  | .vfrsq d a m _ n => one fp (fun a => rsqRule f mode (valOf f a)) d a m n
  | .vfexp2 d a m _ n => one fp (fun a => exp2Rule f mode (valOf f a)) d a m n
  | .vflog2 d a m _ n => one fp (fun a => log2Rule f mode (valOf f a)) d a m n
  | .vfclass d a m _ n => one fp (fun a => (classRule f a, 0)) d a m n
  | .vfkey d a m _ n => one true (fun a => (keyRule f a, 0)) d a m n
  | .vmv d a m _ n => one true (fun a => (a, 0)) d a m n
  | .vcvt d a t k m _ r =>
    let g := 2 ^ c.glog.toNat
    let h := max 1 (g * fmtWidth t / fmtWidth f)
    some ⟨fits d.toNat h c.rc.toNat && fits a.toNat g c.rc.toNat, d.toNat, h, fmtWidth t, active c m false, fun i e =>
      convert f t (modeOf r c.frm) (k = 1) (c.elem a.toNat g (fmtWidth f) i e)⟩
  | _ => none

/-- The reductions (R54, R128, R154, R155): element 0 of each row of the destination takes its start combined with the row's
active elements; at VL = 0 nothing is written (R15). -/
def reductionSweep (c : Core) (i : Instr) : Option Sweep :=
  let f := c.fmt
  let g := 2 ^ c.glog.toNat
  let w := fmtWidth f
  let on (i e : Nat) : Bool := decide (i < c.rc.toNat ∧ e = 0 ∧ c.vl ≠ 0)
  let legal (ok : Bool) (d a : BitVec 6) := ok && fits d.toNat g c.rc.toNat && fits a.toNat g c.rc.toNat
  let row (a : BitVec 6) (m : BitVec 4) (n : BitVec 1) (i : Nat) : List Nat :=
    ((List.range c.vl.toNat).filter fun e => c.gateOn m (n = 1) i e).map fun e => c.elem a.toNat g w i e
  let int (comb : Nat → Nat → Nat) (d a : BitVec 6) (m : BitVec 4) (n : BitVec 1) : Option Sweep :=
    some ⟨legal (f.toNat < 10) d a, d.toNat, g, w, on, fun i _ => ((row a m n i).foldl comb (c.elem d.toNat g w i 0), 0)⟩
  let float (isMax : Bool) (d a : BitVec 6) (m : BitVec 4) (n : BitVec 1) : Option Sweep :=
    some ⟨legal (10 ≤ f.toNat) d a, d.toNat, g, 32, on, fun i _ =>
      c.floatRow isMax a m (n = 1) i (getBits (c.vreg (d.toNat + i * g)) 0 32)⟩
  match i with
  | .vredsum d a m _ n => int (fun x y => (x + y) % 2 ^ w) d a m n
  | .vredmax d a m _ n => int (fun x y => if intOf f y ≤ intOf f x then x else y) d a m n
  | .vredmin d a m _ n => int (fun x y => if intOf f x ≤ intOf f y then x else y) d a m n
  | .vfredsum d a m _ n => float false d a m n
  | .vfredmax d a m _ n => float true d a m n
  | _ => none

/-- VBCAST, the permutes, VIDX, VCOMPRESS, VINCX and MIOTA (R157 to R162). -/
def permuteSweep (c : Core) (i : Instr) : Option Sweep :=
  let g := 2 ^ c.glog.toNat
  let w := fmtWidth c.fmt
  let vl := c.vl.toNat
  let r := c.rc.toNat
  let at_ (b : BitVec 6) (i e : Nat) := c.elem b.toNat g w i e
  let of (legal : Bool) (d : BitVec 6) (on : Nat → Nat → Bool) (v : Nat → Nat → Nat) : Option Sweep :=
    some ⟨legal && fits d.toNat g r, d.toNat, g, w, on, fun i e => (v i e, 0)⟩
  match i with
  | .vbcast d a m n => of true d (active c m (n = 1)) fun _ _ => (c.rg a).toNat % 2 ^ w
  | .vmerge d a b m _ _ => of (fits a.toNat g r && fits b.toNat g r) d (active c m false) fun i e =>
      at_ (if e % 2 = 0 then a else b) i (e / 2)
  | .vslideup d a k m _ n => of (fits a.toNat g r) d (fun i e => active c m (n = 1) i e && decide ((c.rg k).toNat ≤ e)) fun i e =>
      at_ a i (e - (c.rg k).toNat)
  | .vslidedn d a k m _ n => of (fits a.toNat g r) d (active c m (n = 1)) fun i e =>
      if e + (c.rg k).toNat < vl then at_ a i (e + (c.rg k).toNat) else 0
  | .vperm d a b m _ _ => of (fits a.toNat g r && fits b.toNat g r) d (active c m false) fun i e =>
      if at_ b i e < vl then at_ a i (at_ b i e) else 0
  | .vidx d a b m n => of (c.fmt.toNat < 10) d (active c m (n = 1)) fun i e =>
      ((c.rg a).toNat + (i * vl + e) * (c.rg b).toNat) % 2 ^ w
  | .vcompress d a m _ n =>
    let chosen (i : Nat) := (List.range vl).filter fun e => c.gateOn m (n = 1) i e
    of (fits a.toNat g r) d (fun i j => decide (i < r ∧ j < (chosen i).length)) fun i j => at_ a i ((chosen i).getD j 0)
  | .vincx d a b m _ _ =>
    of (c.fmt.toNat < 10 && fits a.toNat g r && fits b.toNat g r) d (fun i j => decide (i < r ∧ j < vl)) fun i j =>
      (at_ d i j + (((List.range vl).filter fun e => c.gateOn m false i e && at_ a i e = j).map (at_ b i)).sum) % 2 ^ w
  | .miota d a =>
    of (a.toNat + r ≤ 48) d (fun i e => decide (i < r ∧ e < vl)) fun i e =>
      (((List.range e).filter fun x => (c.mreg (a.toNat + i)).getLsbD (x * (w / (2 * g)))).length) % 2 ^ w
  | _ => none

/-- A mask instruction's bit for element e of row i, from its sources' bits (R157), and its sources. -/
def maskForm : Instr → Option (BitVec 6 × List (BitVec 6) × (List Bool → Bool))
  | .mand d a b => some (d, [a, b], fun x => x == [true, true])
  | .mor d a b => some (d, [a, b], fun x => x != [false, false])
  | .mxor d a b => some (d, [a, b], fun x => x == [true, false] || x == [false, true])
  | .mandn d a b => some (d, [a, b], fun x => x == [true, false])
  | .mnot d a => some (d, [a], fun x => x == [false])
  | .mset d => some (d, [], fun _ => true)
  | _ => none

/-- The compares (R146, R148): destination, first and second operand, gate, whether the format is accepted, and the condition with
its flags. -/
def compareForm (c : Core) (i : Instr) :
    Option (BitVec 6 × BitVec 6 × Second × BitVec 4 × Bool × Bool × (Nat → Nat → Bool × Flags)) :=
  let int (q : BitVec 2) (a b : Nat) : Bool × Flags :=
    let x := intOf c.fmt a
    let y := intOf c.fmt b
    (if q = 0 then decide (x = y) else if q = 1 then decide (x ≠ y) else if q = 2 then decide (x < y) else decide (x ≤ y), 0)
  let fp (q : BitVec 2) (a b : Nat) := fcmpRule q (valOf c.fmt a) (valOf c.fmt b)
  match i with
  | .vcmpVv d a b m _ _ q => some (d, a, .vv b, m, false, decide (c.fmt.toNat < 10), int q)
  | .vcmpVs d a r m _ n q => some (d, a, .vs r, m, decide (n = 1), decide (c.fmt.toNat < 10), int q)
  | .vcmpVi d a k m _ n q => some (d, a, .vi k, m, decide (n = 1), decide (c.fmt.toNat < 10), int q)
  | .vfcmpVv d a b m _ _ q => some (d, a, .vv b, m, false, decide (10 ≤ c.fmt.toNat), fp q)
  | .vfcmpVs d a r m _ n q => some (d, a, .vs r, m, decide (n = 1), decide (10 ≤ c.fmt.toNat), fp q)
  | _ => none

end Sys2Proof.Rules

/-- The integer vector instructions (R13 to R15, R127, R129, R144, R153): each active element takes its row's value, no other bit of
a register changes; VTYPE where a format or register is not accepted. -/
def Sys2Proof.Rules.vectorIntegerSweeps : Prop := Rules.sweeps Rules.integerSweep

/-- The widening adds and multiplies, and the narrowing shift with rounding and saturation (R145). -/
def Sys2Proof.Rules.vectorWideningResult : Prop := Rules.sweeps Rules.wideSweep

/-- The integer vector instructions, and those that widen or narrow (R13 to R15, R127, R129, R144, R145, R153). Where the rules leave
room it follows the model's choices of log 30. -/
def Obligations.VectorIntegerResult : Prop := Rules.vectorIntegerSweeps ∧ Rules.vectorWideningResult

/-- The floating-point arithmetic, functions, conversions and keys, and VMV (R47, R55 to R60, R147 to R152, R158): each active
element, and the flags of all active elements in cr.fflags. Where the rules leave room it follows the model's choices of log 30. -/
def Obligations.VectorFloatResult : Prop := Rules.sweeps Rules.floatSweep

/-- The reductions (R54, R128, R154, R155). -/
def Sys2Proof.Rules.vectorReductionResult : Prop := Rules.sweeps Rules.reductionSweep

/-- VBCAST, the permutes, VIDX, VCOMPRESS, VINCX (R128, R158 to R162) and MIOTA (R157). -/
def Sys2Proof.Rules.vectorPermuteResult : Prop := Rules.sweeps Rules.permuteSweep

/-- The reductions, the permutes, VBCAST, VIDX, VCOMPRESS, VINCX and MIOTA (R54, R128, R154, R155, R157 to R162). Where the rules leave
room it follows the model's choices of log 30. -/
def Obligations.VectorReductionAndPermuteResult : Prop := Rules.vectorReductionResult ∧ Rules.vectorPermuteResult

/-- VCMP and VFCMP (R16, R146, R148): the mask rows, the flags of the active elements, and VTYPE where not accepted. -/
def Obligations.VectorCompareResult : Prop :=
  ∀ (s : State) (c : Core) (i : Instr) (d a : BitVec 6) (x : Second) (m : BitVec 4) (inv ok : Bool)
    (p : Nat → Nat → Bool × Flags), Rules.compareForm c i = some (d, a, x, m, inv, ok, p) →
    let g := 2 ^ c.glog.toNat
    let w := fmtWidth c.fmt
    let legal := ok && decide (d.toNat + c.rc.toNat ≤ 48) && fits a.toNat g c.rc.toNat && x.fits g c.rc.toNat
    let value (i e : Nat) := p (c.elem a.toNat g w i e) (c.second x i e)
    (s.Calm c → Rules.vectorLegal c → s.GateOpen c → legal = true → Rules.vectorRuns s i fun k =>
      Rules.masked c k d.toNat (fun i e => if c.gateOn m inv i e then (value i e).1
        else (c.mreg (d.toNat + i)).getLsbD (e * (w / (2 * g)))) ∧
      (∀ b, b < 5 → (k.fflags.getLsbD b = true ↔
        c.fflags.getLsbD b = true ∨ ∃ i e, Rules.active c m inv i e = true ∧ (value i e).2.getLsbD b = true)) ∧
      Rules.vectorFrame c k ∧ k.g = c.g ∧ k.v = c.v) ∧
    (s.Plain c → c.ill = true ∨ legal = false → exec i s = .next (s.takeTrap { cause := .vtype } c.curPc false))

/-- The mask instructions (R16, R156, R157): MAND, MOR, MXOR, MANDN, MNOT and MSET bit by bit; MFIRST the lowest element of row 0
whose bit is one, or −1; MPOP the count over all rows; MPOPQ one push for each row, waiting while the queue has no room; VTYPE past
m47. -/
def Sys2Proof.Rules.maskInstructionResult : Prop :=
  (∀ (s : State) (c : Core) (i : Instr) (d : BitVec 6) (as : List (BitVec 6)) (f : List Bool → Bool),
    Rules.maskForm i = some (d, as, f) →
    (s.Calm c → Rules.vectorLegal c → s.GateOpen c → (∀ a ∈ d :: as, a.toNat + c.rc.toNat ≤ 48) → Rules.vectorRuns s i fun k =>
      Rules.masked c k d.toNat (fun i e => f (as.map fun a =>
        (c.mreg (a.toNat + i)).getLsbD (e * (fmtWidth c.fmt / (2 * 2 ^ c.glog.toNat))))) ∧
      Rules.vectorFrame c k ∧ k.g = c.g ∧ k.v = c.v ∧ k.fflags = c.fflags) ∧
    (s.Plain c → c.ill = true ∨ (∃ a ∈ d :: as, 48 < a.toNat + c.rc.toNat) →
      exec i s = .next (s.takeTrap { cause := .vtype } c.curPc false))) ∧
  ∀ (s : State) (c : Core) (d : BitVec 5) (a : BitVec 6),
    let on (i e : Nat) : Bool := (c.mreg (a.toNat + i)).getLsbD (e * (fmtWidth c.fmt / (2 * 2 ^ c.glog.toNat)))
    let count (i : Nat) : Nat := ((List.range c.vl.toNat).filter fun e => on i e).length
    (s.Calm c → Rules.vectorLegal c → s.GateOpen c → a.toNat + c.rc.toNat ≤ 48 →
      (∀ x : Word, (∀ e, e < c.vl.toNat → on 0 e = true → (∀ j, j < e → on 0 j = false) → x = BitVec.ofNat 64 e) →
        ((∀ e, e < c.vl.toNat → on 0 e = false) → x = BitVec.allOnes 64) → Rules.vectorRuns s (.mfirst d a) fun k =>
          c.WritesScalar k d x ∧ Rules.vectorFrame c k ∧ k.v = c.v ∧ k.m = c.m ∧ k.fflags = c.fflags) ∧
      (Rules.vectorRuns s (.mpop d a) fun k => c.WritesScalar k d (BitVec.ofNat 64 ((List.range c.rc.toNat).map count).sum) ∧
        Rules.vectorFrame c k ∧ k.v = c.v ∧ k.m = c.m ∧ k.fflags = c.fflags) ∧
      (c.lq.length + c.rc.toNat ≤ 8 → Rules.vectorRuns s (.mpopq a) fun k =>
        k.lq.map LqEntry.val = c.lq.map LqEntry.val ++ (List.range c.rc.toNat).map (fun i => BitVec.ofNat 13 (count i)) ∧
        Rules.vectorFrame c k ∧ k.g = c.g ∧ k.v = c.v ∧ k.m = c.m ∧ k.fflags = c.fflags) ∧
      (8 < c.lq.length + c.rc.toNat → Rules.vectorRuns s (.mpopq a) fun k =>
        k.wait = .lqPush ∧ k.pc = c.pc ∧ k.lq.map LqEntry.val = c.lq.map LqEntry.val ∧ k.g = c.g ∧ c.SameVector k)) ∧
    (s.Plain c → c.ill = true ∨ 48 < a.toNat + c.rc.toNat → ∀ i, i = .mfirst d a ∨ i = .mpop d a ∨ i = .mpopq a →
      exec i s = .next (s.takeTrap { cause := .vtype } c.curPc false))

/-- VMVX (R158): element 0 of row 0 to gd, sign-extended for the .i formats; nothing at VL = 0. -/
def Sys2Proof.Rules.vectorToScalarResult : Prop :=
  ∀ (s : State) (c : Core) (d : BitVec 5) (a : BitVec 6) (b : BitVec 1), s.Calm c → Rules.vectorLegal c → s.GateOpen c →
    fits a.toNat (2 ^ c.glog.toNat) 1 = true →
    let w := fmtWidth c.fmt
    let x := getBits (c.vreg a.toNat) 0 w
    Rules.vectorRuns s (.vmvx d a b) fun k =>
      c.WritesScalar k (if c.vl = 0 then 0#5 else d)
        (if c.fmt.toNat ≤ 5 ∧ 2 ^ (w - 1) ≤ x then BitVec.ofInt 64 ((x : Int) - 2 ^ w) else BitVec.ofNat 64 x) ∧
      Rules.vectorFrame c k ∧ k.v = c.v ∧ k.m = c.m ∧ k.fflags = c.fflags

/-- The mask instructions and VMVX (R16, R156 to R158). Where the rules leave room it follows the model's choices of log 30. -/
def Obligations.MaskAndScalarResult : Prop := Rules.maskInstructionResult ∧ Rules.vectorToScalarResult

/-- Special cases of the floating-point rules in the formats with infinities and signalling NaNs (R41, R48, R55): x ÷ 0 raises DZ
and gives a signed infinity, 0 ÷ 0, ∞ − ∞ and the root of a negative number raise NV and give NaN, a quiet NaN raises nothing, a
signalling one NV. Where the rules leave room it follows the model's choices of log 30. -/
def Obligations.FloatSpecialCases : Prop :=
  ∀ (f : BitVec 4) (r : Rmode), f = 12 ∨ f = 13 ∨ f = 14 ∨ f = 15 →
    let inf (neg : Bool) : Nat := (floatFmt f).greatest + 1 + if neg then 2 ^ (fmtWidth f - 1) else 0
    (∀ (a b : Bool) (m : Nat) (e x : Int), 0 < m →
      divRule f r (.fin a m e) (.fin b 0 x) = (inf (a != b), flagDZ)) ∧
    (∀ (a b : Bool) (e x : Int), divRule f r (.fin a 0 e) (.fin b 0 x) = ((floatFmt f).nan, flagNV)) ∧
    sumRule f r [.of (.inf false), .of (.inf true)] = ((floatFmt f).nan, flagNV) ∧
    (∀ n : Bool, sumRule f r [.of (.inf n), .of (.inf n)] = (inf n, 0)) ∧
    (∀ (v : Val) (q : Bool), (∀ z, v ≠ .nan z) →
      sumRule f r [.of v, .of (.nan q)] = ((floatFmt f).nan, if q then flagNV else 0)) ∧
    ∀ m e, 0 < m → sqrtRule f r (.fin true m e) = ((floatFmt f).nan, flagNV)

namespace Sys2Proof.Rules

open Sys2Proof.Machine

/-- Bytes of the hart's own hold window as a number, the first least significant. -/
def windowNat (s : State) (c : Core) (a n : Nat) : Nat :=
  ((List.range n).map fun j => (s.windowByte c (a + j)).toNat * 2 ^ (8 * j)).sum

/-- Bytes that an element of a width moves (R38). -/
def elemBytes (w : Nat) : Nat := max 1 (w / 8)

/-- Where element e of row i of a vector load or store starts: a byte address and a bit of that byte (R38, R80, R135). -/
def packedAt (c : Core) (b : BitVec 5) (o : BitVec 6) (i e : Nat) : Word × Nat :=
  let bit := (i * c.vl.toNat + e) * fmtWidth c.fmt
  (c.rg b + BitVec.ofInt 64 (64 * o.toInt) + BitVec.ofNat 64 (bit / 8), bit % 8)

def stridedAt (c : Core) (b r : BitVec 5) (i e : Nat) : Word × Nat :=
  (c.rg b + BitVec.ofNat 64 i * c.rg r + BitVec.ofNat 64 (e * fmtWidth c.fmt / 8), e * fmtWidth c.fmt % 8)

def indexedAt (c : Core) (b : BitVec 5) (x : BitVec 6) (i e : Nat) : Word × Nat :=
  let w := fmtWidth c.fmt
  let g := 2 ^ c.glog.toNat
  (c.rg b + BitVec.ofNat 64 (if w ≤ 32 then c.elem x.toNat (g * 32 / w) 32 i e else c.elem x.toNat g 64 i e), 0)

/-- The index operand of an indexed form (R14, R129, R135). -/
def indexOk (c : Core) (x : BitVec 6) : Bool :=
  let w := fmtWidth c.fmt
  let g := 2 ^ c.glog.toNat
  decide (8 ≤ w) && fits x.toNat (if w ≤ 32 then g * 32 / w else g) c.rc.toNat

/-- The vector loads, and the vector stores: whether the form is accepted, the register, the gate, and the elements' places. -/
def loadForm (c : Core) : Instr → Option (Bool × BitVec 6 × BitVec 4 × (Nat → Nat → Word × Nat))
  | .vld v b o m => some (true, v, m, packedAt c b o)
  | .vlds v b r m => some (true, v, m, stridedAt c b r)
  | .vldx v b x _ m => some (indexOk c x, v, m, indexedAt c b x)
  | _ => none

def storeForm (c : Core) : Instr → Option (Bool × BitVec 6 × BitVec 4 × (Nat → Nat → Word × Nat))
  | .vst v b o _ m => some (true, v, m, packedAt c b o)
  | .vsts v b r _ m => some (true, v, m, stridedAt c b r)
  | .vstx v b x _ m => some (indexOk c x, v, m, indexedAt c b x)
  | _ => none

/-- The sweep of a load from the hart's own window. -/
def loadSweep (s : State) (c : Core) (v : BitVec 6) (m : BitVec 4) (below : Nat) (at_ : Nat → Nat → Word × Nat) : Sweep :=
  let w := fmtWidth c.fmt
  ⟨true, v.toNat, 2 ^ c.glog.toNat, w, fun i e => active c m false i e && decide (e < below), fun i e =>
    (windowNat s c (at_ i e).1.toNat (elemBytes w) / 2 ^ (at_ i e).2 % 2 ^ w, 0)⟩

/-- A hart ready for a vector access of its own hold window: its state legal, its gate open, nothing before it in the way. -/
def windowReady (s : State) (c : Core) : Prop :=
  s.Calm c ∧ c.isSteward = false ∧ vectorLegal c ∧ s.GateOpen c ∧ s.NoCommands c

/-- The crew's hold blocks lie in the cell's hold (R248). -/
def holdFits (c : Core) : Prop := c.holdbase.toNat * 2 ^ 16 + c.holdsize.toNat ≤ 2 ^ 19

/-- After a store to the hart's own window: its buffer holds the bytes, and once the strip closes window bit `n` is `f n` where
that says something, and every other bit, and every byte of memory outside the window, is as before. -/
def windowStored (s t : State) (c : Core) (f : Nat → Option Bool) : Prop :=
  ∃ u, t.closeStrip = .ok u ∧
    (∀ n, n < 2 ^ 22 → (u.windowByte c (n / 8)).getLsbD (n % 8) = (f n).getD ((s.windowByte c (n / 8)).getLsbD (n % 8))) ∧
    ∀ l, (∀ a, a < 2 ^ 19 → l ≠ holdLoc c.id.die c.id.pos (c.holdbase.toNat * 2 ^ 16 + a)) → u.locByte l = s.locByte l

/-- Later in the order of an instruction's elements (R137). -/
def laterElem (i e j k : Nat) : Prop := i < j ∨ i = j ∧ e < k

/-- The address causes of a hart's scalar access of `n` bytes that need no translation (R87, R101, R104, R248, R267, R268). -/
def scalarCause (c : Core) (va : Word) (n : Nat) : Option Cause :=
  let a := va.toNat
  if 2 ^ 52 ≤ a then some .perm
  else if a < 2 ^ 19 then
    if 2 ^ 19 < a + n then some .straddle else if c.holdsize.toNat < a + n then some .perm else none
  else if a < 0x1000000 ∨ 0x3000000 ≤ a ∧ a < 2 ^ 32 then some .perm
  else if a < 2 ^ 32 then none
  else if a % n ≠ 0 then some .align
  else if c.split.on then some .perm
  else none

/-- A doubleword of the hart's own window. -/
def windowWord (s : State) (c : Core) (a : Nat) : Nat := windowNat s c a 8

/-- The size of a sparse block (R141). -/
def sparseSize (vl w k : Nat) : Nat := 8 + 8 * ((vl + 63) / 64) + 8 * ((k * w + 63) / 64)

/-- A sparse block stands at byte `a` of the window: its header, its bitmask with no bit from VL on, and as many ones as it says
(R141). -/
def sparseBlock (s : State) (c : Core) (a k : Nat) (mask : Nat → Bool) : Prop :=
  let vl := c.vl.toNat
  windowWord s c a = sparseSize vl (fmtWidth c.fmt) k + 2 ^ 32 * vl + 2 ^ 48 * k ∧
  (∀ e, e < 64 * ((vl + 63) / 64) → mask e = (windowWord s c (a + 8 + 8 * (e / 64))).testBit (e % 64)) ∧
  (∀ e, vl ≤ e → mask e = false) ∧ ((List.range vl).filter mask).length = k

/-- The value at position `p` of a block's packed values (R38, R141). -/
def sparseValue (s : State) (c : Core) (a p : Nat) : Nat :=
  let w := fmtWidth c.fmt
  windowWord s c (a + 8 + 8 * ((c.vl.toNat + 63) / 64) + 8 * (p * w / 64)) / 2 ^ (p * w % 64) % 2 ^ w

/-- What lane threads execute (R164). -/
def laneSubset : Instr → Bool
  | .svc _ | .ifence | .enrg _ | .setvl _ _ _ _ _ | .setvlq _ _ _ _ | .vsplit _ | .repf _ _ _ _ => false
  | .add _ _ _ | .sub _ _ _ | .and _ _ _ | .or _ _ _ | .xor _ _ _ | .sll _ _ _ | .srl _ _ _ | .sra _ _ _ | .rotl _ _ _
  | .rotr _ _ _ | .min _ _ _ | .max _ _ _ | .minu _ _ _ | .maxu _ _ _ | .slt _ _ _ | .sltu _ _ _ | .mul _ _ _ | .mulh _ _ _
  | .mulhu _ _ _ | .div _ _ _ | .divu _ _ _ | .rem _ _ _ | .remu _ _ _ | .clz _ _ | .ctz _ _ | .cpop _ _ | .addsh _ _ _ _
  | .slli _ _ _ _ | .srli _ _ _ _ | .srai _ _ _ _ | .ldx _ _ _ _ _ | .stx _ _ _ _ _ | .addi _ _ _ | .andi _ _ _
  | .ori _ _ _ | .xori _ _ _ | .slti _ _ _ | .lui _ _ | .aupc _ _ | .ld _ _ _ _ | .st _ _ _ _ | .jal _ _ | .jalr _ _ _
  | .crr _ _ | .crw _ _ _ | .crs _ _ _ | .crc _ _ _ | .brk _ | .nop | .halt | .yield | .wfe | .rett | .topo _ _
  | .bany _ _ | .ball _ _ | .loop _ _ | .beq _ _ _ | .bne _ _ _ | .blt _ _ _ | .bge _ _ _ | .bltu _ _ _ | .bgeu _ _ _ => true
  | .vjoin => true
  | .ldacq _ _ _ _ | .strel _ _ _ _ | .fence _ _ => true
  | .amoadd _ _ _ _ _ _ | .amoand _ _ _ _ _ _ | .amoor _ _ _ _ _ _ | .amoxor _ _ _ _ _ _ | .amomin _ _ _ _ _ _
  | .amomax _ _ _ _ _ _ | .amofadd _ _ _ _ _ | .amoswap _ _ _ _ _ _ | .amocas _ _ _ _ _ _ => true
  | _ => false

end Sys2Proof.Rules

/-- VLD, VLDS, VLDX and VLDF of the hart's own hold window (R38, R135, R139): each active element takes the bits of memory at its
place, nothing else changes; VLDF that meets a cause above its lowest active element loads the elements below, shortens VL to it
and names it in cr.eelem. -/
def Sys2Proof.Rules.vectorWindowLoads : Prop :=
  (∀ (s : State) (c : Core) (i : Instr) (ok : Bool) (v : BitVec 6) (m : BitVec 4) (at_ : Nat → Nat → Word × Nat),
    Rules.loadForm c i = some (ok, v, m, at_) →
    let legal := ok && fits v.toNat (2 ^ c.glog.toNat) c.rc.toNat
    (Rules.windowReady s c → legal = true →
      (∀ i e, Rules.active c m false i e = true → c.InWindow (at_ i e).1 (Rules.elemBytes (fmtWidth c.fmt))) →
      Rules.vectorRuns s i fun k => Rules.swept c k (Rules.loadSweep s c v m 1024 at_) ∧ Rules.vectorFrame c k ∧
        k.g = c.g ∧ k.m = c.m) ∧
    (s.Plain c → c.ill = true ∨ legal = false → exec i s = .next (s.takeTrap { cause := .vtype } c.curPc false))) ∧
  (∀ (s : State) (c : Core) (v : BitVec 6) (b : BitVec 5) (o : BitVec 6) (m : BitVec 4), Rules.windowReady s c →
    c.rc = 1 → fits v.toNat (2 ^ c.glog.toNat) 1 = true →
    (∀ e, Rules.active c m false 0 e = true →
      c.InWindow (Rules.packedAt c b o 0 e).1 (Rules.elemBytes (fmtWidth c.fmt))) →
    Rules.vectorRuns s (.vldf v b o m) fun k => Rules.swept c k (Rules.loadSweep s c v m 1024 (Rules.packedAt c b o)) ∧
      Rules.vectorFrame c k ∧ k.g = c.g ∧ k.m = c.m) ∧
  ∀ (s : State) (c : Core) (v : BitVec 6) (b : BitVec 5) (o : BitVec 6) (m : BitVec 4) (y l : Nat), Rules.windowReady s c →
    c.rc = 1 → fits v.toNat (2 ^ c.glog.toNat) 1 = true → Rules.active c m false 0 y = true →
    (Rules.packedAt c b o 0 y).1.toNat < 2 ^ 24 → c.holdsize.toNat < (Rules.packedAt c b o 0 y).1.toNat + Rules.elemBytes (fmtWidth c.fmt) →
    l < y → Rules.active c m false 0 l = true →
    (∀ e, e < y → Rules.active c m false 0 e = true →
      c.InWindow (Rules.packedAt c b o 0 e).1 (Rules.elemBytes (fmtWidth c.fmt))) →
    Rules.vectorRuns s (.vldf v b o m) fun k => k.vl = BitVec.ofNat 10 y ∧ k.eelem = BitVec.ofNat 19 y ∧ k.pc = c.pc + 4 ∧
      Rules.swept c k (Rules.loadSweep s c v m y (Rules.packedAt c b o)) ∧ k.g = c.g ∧ k.m = c.m

/-- VLD, VLDS and VLDX with elements in the hart's own hold window or in resident huge pages of any kind (R38, R135, R138, R267 to R272,
R276, R280, R281, R368): each active element takes the bits at its place, nothing else of the vector state changes, and memory stays
as it is. Said of a die that holds no copy of another die's line, in which an S page could read older or newer bytes than an R
page. -/
def Sys2Proof.Rules.vectorPageLoads : Prop :=
  ∀ (s : State) (c : Core) (i : Instr) (v : BitVec 6) (m : BitVec 4) (at_ : Nat → Nat → Word × Nat) (place : Nat → Nat → Nat),
    Rules.loadForm c i = some (true, v, m, at_) → Rules.windowReady s c → Rules.stacksOpen s → (s.die c.id.die).nonHome = [] →
    fits v.toNat (2 ^ c.glog.toNat) c.rc.toNat = true →
    let w := fmtWidth c.fmt
    (∀ i e, Rules.active c m false i e = true → Rules.vectorAt s c (at_ i e).1 (Rules.elemBytes w) 1 (place i e)) →
    ∃ t k, exec i s = .next t ∧ t.core? s.cur = some k ∧ Rules.vectorFrame c k ∧ k.g = c.g ∧ k.m = c.m ∧
      Rules.swept c k ⟨true, v.toNat, 2 ^ c.glog.toNat, w, Rules.active c m false, fun i e =>
        (Rules.dieNat s c.id.die (place i e) (Rules.elemBytes w) / 2 ^ (at_ i e).2 % 2 ^ w, 0)⟩ ∧
      (∀ l, t.locByte l = s.locByte l) ∧ ∀ id, id ≠ s.cur → t.core? id = s.core? id

/-- The vector loads of the hart's own hold window and of resident huge pages, and VLDF (R38, R135, R138, R139, R267 to R272, R276, R280,
R281, R368). Where the rules leave room it follows the model's choices of log 6. -/
def Obligations.VectorLoadResult : Prop := Rules.vectorWindowLoads ∧ Rules.vectorPageLoads

/-- VST, VSTS and VSTX to the hart's own hold window (R112, R113, R135, R137): registers are as before, the elements wait in the
strip's buffer, and once it closes each bit of the window holds the last active element that covers it, or what it held; no other
byte of memory changes. -/
def Sys2Proof.Rules.vectorWindowStores : Prop :=
  ∀ (s : State) (c : Core) (i : Instr) (ok : Bool) (v : BitVec 6) (m : BitVec 4) (at_ : Nat → Nat → Word × Nat),
    Rules.storeForm c i = some (ok, v, m, at_) →
    let w := fmtWidth c.fmt
    let g := 2 ^ c.glog.toNat
    let legal := ok && fits v.toNat g c.rc.toNat
    let start (i e : Nat) : Nat := 8 * (at_ i e).1.toNat + (at_ i e).2
    let covers (n i e : Nat) : Prop := Rules.active c m false i e = true ∧ start i e ≤ n ∧ n < start i e + w
    (Rules.windowReady s c → s.Canonical → legal = true →
      (∀ i e, Rules.active c m false i e = true → c.InWindow (at_ i e).1 (Rules.elemBytes w)) →
      ∃ t k, exec i s = .next t ∧ s.OnlyCoreAndGate t ∧ t.core? s.cur = some k ∧ Rules.vectorFrame c k ∧ k.g = c.g ∧
        k.v = c.v ∧ k.m = c.m ∧ k.fflags = c.fflags ∧
        ∀ f : Nat → Option Bool,
          (∀ n, (∀ i e, ¬ covers n i e) → f n = none) →
          (∀ n i e, covers n i e → (∀ j d, covers n j d → ¬ Rules.laterElem i e j d) →
            f n = some ((c.elem v.toNat g w i e).testBit (n - start i e))) →
          Rules.windowStored s t c f) ∧
    (s.Plain c → c.ill = true ∨ legal = false → exec i s = .next (s.takeTrap { cause := .vtype } c.curPc false))

/-- VST, VSTS and VSTX with elements in the hart's own hold window or in resident huge pages of any kind (R112, R115, R137, R138, R271,
R276, R277, R280, R368): as soon as the strip is closed, as it is from the first where a page is S or without speculation, each bit of
memory is, as the hart's die sees it, that of the last active element that covers it, or what it was. -/
def Sys2Proof.Rules.vectorPageStores : Prop :=
  ∀ (s : State) (c : Core) (i : Instr) (v : BitVec 6) (m : BitVec 4) (at_ : Nat → Nat → Word × Nat) (place : Nat → Nat → Nat),
    Rules.storeForm c i = some (true, v, m, at_) → Rules.windowReady s c → Rules.stacksOpen s → (s.die c.id.die).nonHome = [] →
    fits v.toNat (2 ^ c.glog.toNat) c.rc.toNat = true → s.Canonical → Rules.holdFits c →
    let w := fmtWidth c.fmt
    (∀ i e, Rules.active c m false i e = true →
      Rules.vectorAt s c (at_ i e).1 (Rules.elemBytes w) 2 (place i e) ∧ Rules.unsealedFor s c.id.die (place i e)) →
    let start (i e : Nat) : Nat := 8 * place i e + (at_ i e).2
    let covers (n i e : Nat) : Prop := Rules.active c m false i e = true ∧ start i e ≤ n ∧ n < start i e + w
    ∃ t k u, exec i s = .next t ∧ t.core? s.cur = some k ∧ Rules.vectorFrame c k ∧ k.g = c.g ∧ k.v = c.v ∧ k.m = c.m ∧
      k.fflags = c.fflags ∧ (∀ id j, id ≠ s.cur → s.core? id = some j → ∃ b, t.core? id = some { j with latch := b }) ∧
      t.closeStrip = .ok u ∧ ((∃ r e x, Rules.active c m false r e = true ∧ (s.die c.id.die).residents (at_ r e).1 = [x] ∧
          2 ^ 32 ≤ (at_ r e).1.toNat ∧ Rules.strongPage x) → k.strip.buf = [] ∧ k.ckpt = c.pc + 4) ∧
      ∀ f : Nat → Option Bool,
        (∀ n, (∀ i e, ¬ covers n i e) → f n = none) →
        (∀ n i e, covers n i e → (∀ j d, covers n j d → ¬ Rules.laterElem i e j d) →
          f n = some ((c.elem v.toNat (2 ^ c.glog.toNat) w i e).testBit (n - start i e))) →
        ∀ n, (Rules.dieByte u c.id.die (n / 8)).getLsbD (n % 8) = (f n).getD ((Rules.dieByte s c.id.die (n / 8)).getLsbD (n % 8))

/-- The vector stores to the hart's own hold window and to resident huge pages (R112, R113, R115, R135, R137, R138, R271, R276, R277,
R280, R368). Where the rules leave room it follows the model's choices of log 6. -/
def Obligations.VectorStoreResult : Prop := Rules.vectorWindowStores ∧ Rules.vectorPageStores

/-- VLDM and VSTM in the hart's own hold window (R140): the bits below VL·σ of each row from memory, and whole bytes to memory. -/
def Obligations.MaskMemoryResult : Prop :=
  ∀ (s : State) (c : Core) (v : BitVec 6) (b : BitVec 5) (o : BitVec 6), Rules.windowReady s c → v.toNat + c.rc.toNat ≤ 48 →
    let used := c.vl.toNat * (fmtWidth c.fmt / (2 * 2 ^ c.glog.toNat))
    let at_ (i j : Nat) : Word := c.rg b + BitVec.ofInt 64 (64 * o.toInt) + BitVec.ofNat 64 (64 * i + j)
    (∀ i j, i < c.rc.toNat → j < (used + 7) / 8 → c.InWindow (at_ i j) 1) →
    (Rules.vectorRuns s (.vldm v b o) fun k =>
      (∀ i n, i < c.rc.toNat → v.toNat + i ≠ 0 → n < 512 → (k.mreg (v.toNat + i)).getLsbD n =
        if n < used then (s.windowByte c (at_ i (n / 8)).toNat).getLsbD (n % 8) else (c.mreg (v.toNat + i)).getLsbD n) ∧
      (∀ n, (∀ i, i < c.rc.toNat → n ≠ v.toNat + i) → k.mreg n = c.mreg n) ∧ Rules.vectorFrame c k ∧ k.g = c.g ∧ k.v = c.v ∧
      k.fflags = c.fflags) ∧
    (s.Canonical → ∃ t k, exec (.vstm v b o) s = .next t ∧ s.OnlyCoreAndGate t ∧ t.core? s.cur = some k ∧
      Rules.vectorFrame c k ∧ k.g = c.g ∧ k.v = c.v ∧ k.m = c.m ∧ k.fflags = c.fflags ∧
      ∀ f : Nat → Option Bool,
        (∀ n, (∀ i j, i < c.rc.toNat → j < (used + 7) / 8 → n / 8 ≠ (at_ i j).toNat) → f n = none) →
        (∀ n i j, i < c.rc.toNat → j < (used + 7) / 8 → n / 8 = (at_ i j).toNat →
          f n = some ((c.mreg (v.toNat + i)).getLsbD (8 * j + n % 8))) →
        Rules.windowStored s t c f)

/-- The blocks that VLDZ reads and VSTZ writes (R141 to R143). -/
def Sys2Proof.Rules.sparseMoves : Prop :=
  ∀ (s : State) (c : Core) (v : BitVec 6) (b r : BitVec 5) (m : BitVec 4) (a : Nat → Nat) (k : Nat → Nat) (mask : Nat → Nat → Bool),
    Rules.windowReady s c → c.vl ≠ 0 → fits v.toNat (2 ^ c.glog.toNat) c.rc.toNat = true →
    let w := fmtWidth c.fmt
    let g := 2 ^ c.glog.toNat
    a 0 = (c.rg b).toNat → (∀ i, a (i + 1) = a i + Rules.sparseSize c.vl.toNat w (k i)) →
    a c.rc.toNat ≤ 2 ^ 19 → a c.rc.toNat ≤ c.holdsize.toNat → a c.rc.toNat - a 0 ≤ (c.rg r).toNat →
    ((∀ i, i < c.rc.toNat → Rules.sparseBlock s c (a i) (k i) (mask i)) →
      Rules.vectorRuns s (.vldz v b r m) fun j => Rules.swept c j ⟨true, v.toNat, g, w, Rules.active c m false, fun i e =>
          (if mask i e then Rules.sparseValue s c (a i) ((List.range e).filter (mask i)).length else 0, 0)⟩ ∧
        Rules.vectorFrame c j ∧ j.g = c.g ∧ j.m = c.m) ∧
    (s.Canonical → (∀ i e, mask i e = (Rules.active c m false i e && decide (c.elem v.toNat g w i e ≠ 0))) →
      (∀ i, k i = ((List.range c.vl.toNat).filter (mask i)).length) → ∀ q : BitVec 1,
      ∃ t j u, exec (.vstz v b r q m) s = .next t ∧ s.OnlyCoreAndGate t ∧ t.core? s.cur = some j ∧ Rules.vectorFrame c j ∧
        j.g = c.g ∧ j.v = c.v ∧ j.m = c.m ∧ j.fflags = c.fflags ∧ t.closeStrip = .ok u ∧
        (∀ i, i < c.rc.toNat → Rules.sparseBlock u c (a i) (k i) (mask i) ∧
          (∀ e, mask i e = true → Rules.sparseValue u c (a i) ((List.range e).filter (mask i)).length = c.elem v.toNat g w i e) ∧
          ∀ n, k i * w ≤ n → n < 64 * ((k i * w + 63) / 64) →
            (Rules.windowWord u c (a i + 8 + 8 * ((c.vl.toNat + 63) / 64) + 8 * (n / 64))).testBit (n % 64) = false) ∧
        ∀ l, (∀ x, a 0 ≤ x → x < a c.rc.toNat → l ≠ holdLoc c.id.die c.id.pos (c.holdbase.toNat * 2 ^ 16 + x)) →
          u.locByte l = s.locByte l)

/-- SPARSE (R142, R143): of VSTZ at the byte past what its blocks need, with the first row that the capacity does not hold; of VLDZ at
the first malformed block, with its row: a length, a VL or a sum of lengths that is not as it must be, a bitmask bit from VL on, or a
count that is not that of the bitmask. -/
def Sys2Proof.Rules.sparseTraps : Prop :=
  ∀ (s : State) (c : Core) (v : BitVec 6) (b r : BitVec 5) (m : BitVec 4) (a : Nat → Nat) (k : Nat → Nat) (mask : Nat → Nat → Bool)
      (i : Nat), Rules.windowReady s c → c.vl ≠ 0 → fits v.toNat (2 ^ c.glog.toNat) c.rc.toNat = true → i < c.rc.toNat →
    let w := fmtWidth c.fmt
    let cap := (c.rg r).toNat
    let within (x : Nat) : Prop := x ≤ 2 ^ 19 ∧ x ≤ c.holdsize.toNat
    let sparse (f : Instr) (addr : Nat) : Prop :=
      ∃ t, exec f s = .next t ∧ Rules.trapped s t c .sparse (BitVec.ofNat 64 addr) (i * 2 ^ 16) true
    a 0 = (c.rg b).toNat → (∀ j, a (j + 1) = a j + Rules.sparseSize c.vl.toNat w (k j)) → a i - a 0 ≤ cap →
    ((∀ j e, mask j e = (Rules.active c m false j e && decide (c.elem v.toNat (2 ^ c.glog.toNat) w j e ≠ 0))) →
      (∀ j, k j = ((List.range c.vl.toNat).filter (mask j)).length) → within (a c.rc.toNat) → cap < a (i + 1) - a 0 →
      ∀ q : BitVec 1, sparse (.vstz v b r q m) (a c.rc.toNat)) ∧
    ((∀ j, j < i → Rules.sparseBlock s c (a j) (k j) (mask j)) → within (a i + 8) →
      let h := Rules.windowWord s c (a i)
      let count := h / 2 ^ 48
      let size := Rules.sparseSize c.vl.toNat w count
      (h % 2 ^ 32 ≠ size ∨ h / 2 ^ 32 % 2 ^ 16 ≠ c.vl.toNat ∨ cap < a i - a 0 + h % 2 ^ 32 → sparse (.vldz v b r m) (a i)) ∧
      (h % 2 ^ 32 = size → h / 2 ^ 32 % 2 ^ 16 = c.vl.toNat → a i - a 0 + size ≤ cap → within (a i + size) →
        let one (e : Nat) : Bool := (Rules.windowWord s c (a i + 8 + 8 * (e / 64))).testBit (e % 64)
        ((∃ e, c.vl.toNat ≤ e ∧ e < 64 * ((c.vl.toNat + 63) / 64) ∧ one e = true) ∨
            (List.range c.vl.toNat).countP one ≠ count) → sparse (.vldz v b r m) (a i)))

/-- VLDZ and VSTZ in the hart's own hold window (R141 to R143): VLDZ expands each row's block, the elements without a mask bit to
+0; VSTZ stores the block of each row's active elements that are not zero bits, one behind another, its padding zero; blocks that the
capacity cannot hold, and a malformed block, trap SPARSE and leave memory as it is. -/
def Obligations.SparseBlockResult : Prop := Rules.sparseMoves ∧ Rules.sparseTraps

/-- Address causes of scalar loads and stores (R87, R101, R104, R117, R267, R268): a precise trap with the address, in the order of
R87, before anything is read, written or buffered. -/
def Sys2Proof.Rules.scalarAddressTraps : Prop :=
  ∀ (s : State) (c : Core) (i : Instr) (va : Word) (n : Nat) (x : Cause), s.Plain c ∨ s.InLane c → c.isSteward = false →
    ((∃ (d a : BitVec 5) (z : BitVec 3) (o : BitVec 12), i = .ld d a z o ∧ va = c.rg a + o.signExtend 64 ∧ n = 2 ^ (z.toNat % 4)) ∨
      (∃ (d a b : BitVec 5) (z : BitVec 3) (j : BitVec 2), i = .ldx d a b z j ∧ va = c.rg a + c.rg b <<< j.toNat ∧
        n = 2 ^ (z.toNat % 4)) ∨
      (∃ (d a : BitVec 5) (z : BitVec 2) (o : BitVec 12), i = .st d a z o ∧ va = c.rg a + o.signExtend 64 ∧ n = 2 ^ z.toNat) ∨
      ∃ (d a b : BitVec 5) (z j : BitVec 2), i = .stx d a b z j ∧ va = c.rg a + c.rg b <<< j.toNat ∧ n = 2 ^ z.toNat) →
    Rules.scalarCause c va n = some x → exec i s = .next (s.takeTrap { cause := x, addr := va } c.curPc false)

/-- A vector load or store whose lowest active element meets no resident huge page (R87, R117, R138, R368): HUGEABSENT, unwinding,
with that element and its address, and no register changed. -/
def Sys2Proof.Rules.vectorHugeAbsent : Prop :=
  ∀ (s : State) (c : Core) (i : Instr) (v : BitVec 6) (m : BitVec 4) (at_ : Nat → Nat → Word × Nat) (r e : Nat),
    Rules.loadForm c i = some (true, v, m, at_) ∨ Rules.storeForm c i = some (true, v, m, at_) → Rules.windowReady s c →
    fits v.toNat (2 ^ c.glog.toNat) c.rc.toNat = true → Rules.active c m false r e = true →
    (∀ j d, Rules.active c m false j d = true → ¬ Rules.laterElem j d r e) →
    2 ^ 32 ≤ (at_ r e).1.toNat → (at_ r e).1.toNat < 2 ^ 52 → (at_ r e).1.toNat % Rules.elemBytes (fmtWidth c.fmt) = 0 →
    (s.die c.id.die).residents (at_ r e).1 = [] →
    ∃ t k p, exec i s = .next t ∧ t.core? s.cur = some k ∧ k.parked = some p ∧ p.info.cause = .hugeabsent ∧
      p.info.addr = (at_ r e).1 ∧ p.info.elem = r * 2 ^ 16 + e ∧ p.info.reason = 0 ∧ p.unwind = true ∧ p.tpc = c.pc ∧
      c.SameVector k

/-- Address causes of scalar accesses and HUGEABSENT of vector accesses (R87, R101, R104, R117, R138, R267, R268, R368). Where the
rules leave room it follows the model's choices of log 15. -/
def Obligations.AddressTraps : Prop := Rules.scalarAddressTraps ∧ Rules.vectorHugeAbsent

/-- VSPLIT and VJOIN (R163, R165): VSPLIT closes the strip and starts lane threads 0 to cr.grant − 1 after itself; VJOIN outside
split mode does nothing; a lane thread waits at it, and with the last one the hart goes on after the VJOIN of the lowest lane
thread that waits. -/
def Sys2Proof.Rules.laneThreadsResult : Prop :=
  (∀ (s : State) (c : Core) (w : BitVec 1), s.Calm c → s.RunsTo (.vsplit w) fun k =>
    k.split.on = true ∧ k.split.window = decide (w = 1) ∧ (∀ j : Fin 16, k.split.active.getLsbD j = decide (j.val < c.grant.toNat)) ∧
    k.split.waiting = 0 ∧ k.split.halted = 0 ∧ (∀ j : Fin 16, k.split.pcs.get j = c.pc + 4) ∧ k.g = c.g ∧ c.SameVector k ∧
    (c.isSteward = false → k.strip = .empty)) ∧
  (∀ (s : State) (c : Core), s.Plain c → s.RunsTo .vjoin fun k => c.AfterScalar k 0#5 0 (c.pc + 4)) ∧
  ∀ (s : State) (c : Core), s.InLane c →
    let bit := BitVec.ofNat 16 (2 ^ c.split.lane.val)
    (c.split.active &&& ~~~bit ≠ 0 → s.RunsTo .vjoin fun k => k.g = c.g ∧ c.SameVector k ∧
      k.split = { c.split with active := c.split.active &&& ~~~bit, waiting := c.split.waiting ||| bit }) ∧
    ∀ j : Fin 16, c.split.active &&& ~~~bit = 0 → (c.split.waiting ||| bit).getLsbD j = true →
      (∀ i : Fin 16, i < j → (c.split.waiting ||| bit).getLsbD i = false) → s.RunsTo .vjoin fun k =>
        k.split.on = false ∧ k.pc = c.split.pcs.get j + 4 ∧ k.stepwise = true ∧ k.g = c.g ∧ c.SameVector k

/-- What no lane thread executes traps SPLITMODE precisely (R69, R164). -/
def Sys2Proof.Rules.splitModeTraps : Prop :=
  ∀ (s : State) (c : Core) (i : Instr) (w : Nat), s.InLane c → encode i = some w → Rules.laneSubset i = false →
    exec i s = .next (s.takeTrap { cause := .splitmode } c.curPc false)

/-- VSPLIT, VJOIN and what a lane thread does not execute (R69, R163 to R165). Where the rules leave room it follows the model's
choices of log 16. -/
def Obligations.SplitModeResult : Prop := Rules.laneThreadsResult ∧ Rules.splitModeTraps

namespace Sys2Proof.Rules

open Sys2Proof.Machine

/-- A word that a frame may hold, by its major and function (R81). -/
def capturable (w : Nat) : Bool :=
  let m := w / 2 ^ 26
  if m = 0 then decide (1 ≤ w % 64 ∧ w % 64 ≤ 0x1E) else decide (m ≤ 3 ∨ m = 0x12 ∨ m = 0x13 ∨ 0x16 ≤ m ∧ m ≤ 0x2F)

/-- The lowest bits of the fields of a capturable word that name vector registers, and of those that name scalar registers (R64, R68,
R72, R75, R77): of the V layout by operand kind and variant, VCMP and VFCMP with a mask destination. -/
def registerFields (w : Nat) : List Nat × List Nat :=
  let m := w / 2 ^ 26
  let kind (d : List Nat) (k : Nat) : List Nat × List Nat :=
    if k = 0 then (d ++ [14, 8], []) else if k = 1 then (d ++ [14], [8]) else (d ++ [14], [])
  if m = 0 then ([], if w % 64 ≤ 0x17 ∨ w % 64 = 0x1B then [21, 16, 11] else [21, 16])
  else if m ≤ 3 then ([], [21, 16])
  else if m = 0x12 then ([20, 14], [])
  else if m = 0x13 then
    if w / 2 ^ 8 % 64 = 2 then ([14], [20]) else if w / 2 ^ 8 % 64 = 3 then ([20], [14]) else ([20, 14], [])
  else if m = 0x16 then kind [20] (if w % 4 = 0 ∨ w % 4 = 3 then 0 else 1)
  else if m = 0x17 then if w % 4 = 0 then ([20, 14], []) else if w % 4 = 1 then ([20, 14, 8], []) else ([20], [14, 8])
  else if m ≤ 0x26 then kind [20] ((m - 0x18) % 3)
  else if m ≤ 0x29 then kind [] (m - 0x27)
  else if m ≤ 0x2D then kind [20] (m % 2)
  else kind [] (m % 2)

/-- A word with the field of `n` bits at `lo` moved by `k`, modulo 2^n. -/
def moveField (n k w lo : Nat) : Nat :=
  w / 2 ^ (lo + n) * 2 ^ (lo + n) + (w / 2 ^ lo % 2 ^ n + k) % 2 ^ n * 2 ^ lo + w % 2 ^ lo

/-- A word staggered for a replay (R82): vector fields moved by `v`, scalar fields but those that hold 0 by `g`, all else as it is. -/
def staggered (v g w : Nat) : Nat :=
  let x := (registerFields w).1.foldl (moveField 6 v) w
  (registerFields w).2.foldl (fun y lo => if y / 2 ^ lo % 32 = 0 then y else moveField 5 g y lo) x

/-- Where a frame stands after an instruction of it (R81, R167): at its next word, at the next replay, or past the frame, where cr.ckpt
moves. -/
def frameStep (c k : Core) (f : Frame) : Prop :=
  if f.idx + 1 < f.words.length then k.frame = some { f with idx := f.idx + 1 } ∧ k.pc = c.pc + 4 ∧ k.ckpt = c.ckpt
  else if f.replay + 1 < f.count then
    k.frame = some { f with idx := 0, replay := f.replay + 1 } ∧ k.pc = f.base ∧ k.ckpt = c.ckpt
  else k.frame = none ∧ k.pc = f.base + BitVec.ofNat 64 (4 * f.words.length) ∧ k.ckpt = k.pc

end Sys2Proof.Rules

/-- REPF (R81, R82, R167): with its words fetched and capturable, count 0 passes the frame, count 1 goes on with its first word, and a
greater count begins replay 0 with the strip closed; a word that no frame may hold traps ILLEGAL at its own address. On a replay each
capturable word has every field that names a vector register, and every one but 0 that names a scalar register, moved, by the kind it
names there (VMVX, VBCAST and VIDX, the vs and vi forms, VCVT, the compares with their mask destination), and no other bit. Each
instruction of a frame traps VTYPE with the replay's number (R168), or does what it does unframed, and then goes on with the next word,
the next replay, or past the frame, where cr.ckpt moves. Where the rules leave room it follows the model's choices of logs 13 and 16.
-/
def Obligations.RepeatFrameResult : Prop :=
  (∀ (s t : State) (c d : Core) (n : BitVec 4) (v : BitVec 6) (g r : BitVec 5) (ws : List (BitVec 32)), s.Plain c →
    s.frameWords (c.pc + 4) (n.toNat + 1) = .ok (t, ws) → t.Calm d →
    let count := (c.rg r).toNat % 2 ^ 32
    ∃ u k, exec (.repf n v g r) s = .next u ∧ t.OnlyCore u ∧ u.core? u.cur = some k ∧ k.g = d.g ∧ d.SameVector k ∧
      if count = 0 then k.pc = d.pc + 4 + BitVec.ofNat 64 (4 * (n.toNat + 1)) ∧ k.frame = none
      else if count = 1 then k.pc = d.pc + 4 ∧ k.frame = none
      else k.pc = d.pc + 4 ∧ k.frame = some ⟨d.pc + 4, ws, 0, count, v.toNat, g.toNat, 0⟩ ∧ k.strip.buf = []) ∧
  (∀ (s : State) (c : Core) (n : BitVec 4) (v : BitVec 6) (g r : BitVec 5) (w : Nat → BitVec 32), s.Calm c →
    (∀ i, i ≤ n.toNat → Rules.codeWord s c (c.pc + 4 + BitVec.ofNat 64 (4 * i)) (w i) ∧ Rules.capturable (w i).toNat = true ∧
      ∃ j, decode (w i).toNat = .ok j) →
    let count := (c.rg r).toNat % 2 ^ 32
    s.RunsTo (.repf n v g r) fun k => k.g = c.g ∧ c.SameVector k ∧ c.SameSpecial k ∧ k.fflags = c.fflags ∧
      if count = 0 then k.pc = c.pc + 4 + BitVec.ofNat 64 (4 * (n.toNat + 1)) ∧ k.frame = none
      else if count = 1 then k.pc = c.pc + 4 ∧ k.frame = none
      else k.pc = c.pc + 4 ∧ k.strip.buf = [] ∧
        k.frame = some ⟨c.pc + 4, (List.range (n.toNat + 1)).map w, 0, count, v.toNat, g.toNat, 0⟩) ∧
  (∀ (s : State) (c : Core) (n : BitVec 4) (v : BitVec 6) (g r : BitVec 5) (w : Nat → BitVec 32) (i : Nat), s.Plain c → i ≤ n.toNat →
    let at_ (j : Nat) : Word := c.pc + 4 + BitVec.ofNat 64 (4 * j)
    (∀ j, j < i → Rules.codeWord s c (at_ j) (w j) ∧ Rules.capturable (w j).toNat = true ∧ ∃ x, decode (w j).toNat = .ok x) →
    Rules.codeWord s c (at_ i) (w i) → Rules.capturable (w i).toNat = false ∨ (∃ e, decode (w i).toNat = .error e) →
    exec (.repf n v g r) s = .next (s.takeTrap { cause := .illegal } (at_ i) false)) ∧
  (∀ (s : State) (c : Core) (f : Frame) (i : Instr) (id : CoreId) (rest : List Choice), Rules.itsTurn s rest id c →
    c.split.on = false → c.wait = .none → c.frame = some f → f.instr = some i → step s = exec i (Rules.turnState s rest id)) ∧
  (∀ (f : Frame) (w : BitVec 32) (i : Instr), f.words[f.idx]? = some w → decode w.toNat = .ok i →
    (Rules.capturable w.toNat = true →
      ∃ j, f.instr = some j ∧ encode j = some (Rules.staggered (f.replay * f.vstride) (f.replay * f.gstride) w.toNat)) ∧
    (Rules.capturable w.toNat = false → f.instr = none)) ∧
  ∀ (s : State) (c : Core) (f : Frame) (i : Instr), c.frame = some f → f.instr = some i → s.core? s.cur = some c →
    let bare : State := s.upd fun k => { k with frame := none }
    bare.Calm { c with frame := none } → s.GateOpen c →
    (exec i bare = .next (bare.takeTrap { cause := .vtype } c.pc false) ∧ exec i s = .next (s.takeTrap { cause := .vtype, elem := f.replay } c.pc false)) ∨
      ∃ t u j k, exec i bare = .next t ∧ t.core? s.cur = some j ∧ exec i s = .next u ∧ s.OnlyCoreAndGate u ∧ u.core? s.cur = some k ∧
        j.pc = c.pc + 4 ∧ k.g = j.g ∧ j.SameVector k ∧ k.fflags = j.fflags ∧ j.SameSpecial k ∧ Rules.frameStep c k f

namespace Sys2Proof.Rules

open Sys2Proof.Machine

/-- What a tile instruction leaves but for the registers it writes. -/
def tileFrame (c k : Core) : Prop :=
  k.pc = c.pc + 4 ∧ k.g = c.g ∧ c.SameSpecial k ∧ k.latch = c.latch ∧ (k.ckpt = c.ckpt ∨ k.ckpt = c.pc + 4)

/-- Memory row j of a tile instruction (R171). -/
def tileRow (c : Core) (a b : BitVec 5) (j : Nat) : Word := c.rg a + BitVec.ofNat 64 j * c.rg b

/-- Element (r, col) of tile register `y` at a width (R169). -/
def tileAt (c : Core) (y : Nat) (w r col : Nat) : Nat := getBits (c.yreg y) (256 * r + col * w) w

/-- The other tile registers are as before. -/
def otherTiles (c k : Core) (y : BitVec 3) : Prop := ∀ n, n ≠ y.toNat → k.yreg n = c.yreg n

/-- The combinations of R180 for a source format: tile format, segments and tile registers. -/
def matrixShape (fs : BitVec 4) (t : BitVec 2) : Option (BitVec 4 × Nat × Nat) :=
  if fs = 0xA then
    if t = 0 then some (0xA, 8, 4) else if t = 1 then some (0xB, 8, 8) else if t = 2 then some (0xC, 8, 8) else none
  else if fs = 0xB ∨ fs = 0xC then
    if t = 0 then some (fs, 4, 4) else if t = 1 then some (0xB, 4, 4) else if t = 2 then some (0xC, 4, 4) else none
  else if fs = 0xD ∨ fs = 0xE then
    if t = 0 then some (fs, 2, 4) else if t = 1 then some (0xB, 2, 2) else if t = 2 then some (0xC, 2, 2) else none
  else if fs = 0x1 ∧ t = 0 then some (fs, 8, 4)
  else if (fs = 0x2 ∨ fs = 0x6) ∧ t = 0 then some (fs, 4, 4)
  else none

/-- K-row k, column col of weight block q of the tile set from `y` on (R180). -/
def matrixWeight (c : Core) (y wt q k col : Nat) : Nat :=
  let bit := 8 * (128 * wt * q + 4 * wt * k) + wt * col
  getBits (c.yreg (y + bit / 8192)) (bit % 8192) wt

/-- The accumulator element e of row i after VMT (R181). -/
def matrixElem (c : Core) (d a y n : Nat) (ft : BitVec 4) (mode : Rmode) (scaled : Bool) (i e : Nat) : Nat × Flags :=
  let fs := c.fmt
  let q := e / 32
  let kb := q / 4
  let ks := (List.range 32).filter fun k => decide (32 * q + k < c.vl.toNat)
  let x (k : Nat) : Nat := c.elem a 1 (fmtWidth fs) i (32 * q + k)
  let b (k : Nat) : Nat := matrixWeight c y (fmtWidth ft) q k (e % 32)
  let acc := c.elem d n 32 i e
  if 10 ≤ fs.toNat then
    let sa := c32 (getBits (c.mreg 46) (32 * ((if fmtWidth fs = 4 then 2 else 1) * i + kb)) 32)
    let sw := c32 (getBits (c.mreg 47) (32 * (2 * y + kb)) 32)
    sumRule fmtF32 mode (Addend.of (c32 acc) :: ks.map fun k =>
      product (if scaled then [valOf fs (x k), valOf ft (b k), sa, sw] else [valOf fs (x k), valOf ft (b k)]))
  else
    let s : Int := sext acc 32 + (ks.map fun k => intOf fs (x k) * intOf ft (b k)).sum
    (toField (max (-2 ^ 31) (min s (2 ^ 31 - 1))) 32, 0)

/-- TMVR out of a tile, TMVC and VMT as sweeps (R176, R177, R180, R181). -/
def tileSweep (c : Core) (i : Instr) : Option Sweep :=
  let g := 2 ^ c.glog.toNat
  let w := fmtWidth c.fmt
  let r := c.rc.toNat
  let vl := c.vl.toNat
  let every (i e : Nat) : Bool := decide (i < r ∧ e < vl)
  match i with
  | .tmvr y v j t m 0 =>
    let wt := fmtWidth t
    some ⟨decide (j.toNat + r ≤ 32) && decide (vl ≤ 256 / wt) && fits v.toNat g r, v.toNat, g, w, every, fun i e =>
      convert t c.fmt (modeOf m c.frm) false (tileAt c y.toNat wt (j.toNat + i) e)⟩
  | .tmvc y v j t m =>
    let wt := fmtWidth t
    some ⟨decide (j.toNat + r ≤ 256 / wt) && decide (vl ≤ 32) && fits v.toNat g r, v.toNat, g, w, every, fun i e =>
      convert t c.fmt (modeOf m c.frm) false (tileAt c y.toNat wt e (j.toNat + i))⟩
  | .vmt d a y m k _ sc t =>
    match matrixShape c.fmt t with
    | none => some ⟨false, 0, 1, 32, fun _ _ => false, fun _ _ => (0, 0)⟩
    | some (ft, n, regs) =>
      some ⟨decide (c.glog = 0) && decide (y.toNat + regs ≤ 8) && (decide (10 ≤ c.fmt.toNat) || decide (sc = 0)) &&
          fits a.toNat 1 r && fits d.toNat n r, d.toNat, n, 32, active c k false,
        matrixElem c d.toNat a.toNat y.toNat n ft (modeOf m c.frm) (sc = 1)⟩
  | _ => none

/-- A little-endian field of a chunk, whose bytes are `b` (R297). -/
def chunkField (b : Nat → Nat) (o n : Nat) : Nat := ((List.range n).map fun j => b (o + j) * 256 ^ j).sum

/-- The fields of a marker judged in order (R299), each by its offset, its bytes and its good values: reason 2 beyond the limit, else 1
for a bad value. -/
def fieldFault (b : Nat → Nat) (limit : Nat) : List (Nat × Nat × (Nat → Bool)) → Option Nat
  | [] => none
  | (o, n, good) :: rest =>
    if limit < o + n then some 2 else if good (chunkField b o n) = false then some 1 else fieldFault b limit rest

/-- What fails at a marker under a byte limit (R297, R299), for TLDC: magic, count, w, L, crc and plen, the lanes' states, and the
payload's end. -/
def markerFault (b : Nat → Nat) (limit : Nat) : Option Nat :=
  let w := chunkField b 4 1
  let lanes := chunkField b 5 1
  match fieldFault b limit [(0, 2, fun x => x = 0xC3A5), (2, 2, fun x => 1 ≤ x ∧ x ≤ 1024), (4, 1, fun x => 5 ≤ x ∧ x ≤ 11),
      (5, 1, fun x => x = 1 ∨ x = 2 ∨ x = 4 ∨ x = 8 ∨ x = 16), (6, 2, fun _ => true), (8, 4, fun _ => true)] with
  | some r => some r
  | none =>
    match fieldFault b limit ((List.range lanes).map fun l => (12 + 2 * l, 2, fun x => decide (x < 2 ^ w))) with
    | some r => some r
    | none => if limit < 12 + 2 * lanes + chunkField b 8 4 then some 2 else none

/-- CRC-16/CCITT-FALSE with one byte taken in (R297). -/
def crc16 (crc x : Nat) : Nat :=
  (List.range 8).foldl (fun c _ => if 32768 ≤ c then (2 * c % 65536) ^^^ 0x1021 else 2 * c) (crc ^^^ 256 * x)

/-- The symbols of a chunk from symbol `s` on, `n` to go, with the lanes' states, the bit position and the CRC there (R19, R298): they,
or the number decoded when a refill would read past the payload or the CRC disagrees (R299). -/
def chunkSymbolsFrom (b : Nat → Nat) (table : Nat → BitVec 32) (s : Nat) (x : List Nat) (pos crc : Nat) : Nat → Except Nat (List Nat)
  | 0 => if crc = chunkField b 6 2 then .ok [] else .error s
  | n + 1 =>
    let w := chunkField b 4 1
    let lanes := chunkField b 5 1
    let bit (p : Nat) : Nat := b (12 + 2 * lanes + p / 8) / 2 ^ (p % 8) % 2
    let l := s % lanes
    let e := (table (x.getD l 0)).toNat
    let nb := e / 2 ^ 8 % 2 ^ 4
    if 8 * chunkField b 8 4 < pos + nb then .error s
    else
      let v := ((List.range nb).map fun q => bit (pos + q) * 2 ^ q).sum
      (chunkSymbolsFrom b table (s + 1) (x.set l ((e / 2 ^ 12 % 2 ^ 11 + v) % 2 ^ w)) (pos + nb) (crc16 crc (e % 2 ^ 8)) n).map
        fun xs => e % 2 ^ 8 :: xs

/-- What TLDC makes of a chunk (R174, R297 to R299): its symbols, or the number decoded when it fails. -/
def chunkDecoded (b : Nat → Nat) (limit : Nat) (table : Nat → BitVec 32) : Except Nat (List Nat) :=
  if (markerFault b limit).isSome then .error 0
  else chunkSymbolsFrom b table 0 ((List.range (chunkField b 5 1)).map fun l => chunkField b (12 + 2 * l) 2) 0 0xFFFF (chunkField b 2 2)

end Sys2Proof.Rules

/-- TLD, TLDT, TST and TSTC in the hart's own hold window (R169, R171, R173): by rows, and by columns at the width of cr.vtype, which
must not be 64. -/
def Obligations.TileMoveResult : Prop :=
  (∀ (s : State) (c : Core) (y : BitVec 3) (a b : BitVec 5), s.Calm c → c.isSteward = false → s.NoCommands c → s.GateOpen c →
    (∀ j, j < 32 → c.InWindow (Rules.tileRow c a b j) 32) →
    (Rules.vectorRuns s (.tld y a b) fun k => Rules.tileFrame c k ∧ Rules.otherTiles c k y ∧ k.v = c.v ∧ k.m = c.m ∧
      k.fflags = c.fflags ∧
      ∀ j, j < 32 → Rules.tileAt k y.toNat 256 j 0 = Rules.windowNat s c (Rules.tileRow c a b j).toNat 32) ∧
    (s.Canonical → ∃ t k, exec (.tst y a b) s = .next t ∧ s.OnlyCoreAndGate t ∧ t.core? s.cur = some k ∧
      Rules.tileFrame c k ∧ c.SameVector k ∧ k.fflags = c.fflags ∧ ∀ f : Nat → Option Bool,
        (∀ n, (∀ j, j < 32 → ¬ (8 * (Rules.tileRow c a b j).toNat ≤ n ∧ n < 8 * (Rules.tileRow c a b j).toNat + 256)) → f n = none) →
        (∀ n j, j < 32 → 8 * (Rules.tileRow c a b j).toNat ≤ n → n < 8 * (Rules.tileRow c a b j).toNat + 256 →
          (∀ h, j < h → h < 32 →
            ¬ (8 * (Rules.tileRow c a b h).toNat ≤ n ∧ n < 8 * (Rules.tileRow c a b h).toNat + 256)) →
          f n = some ((Rules.tileAt c y.toNat 256 j 0).testBit (n - 8 * (Rules.tileRow c a b j).toNat))) →
        Rules.windowStored s t c f)) ∧
  (∀ (s : State) (c : Core) (y : BitVec 3) (a b : BitVec 5), s.Calm c → c.isSteward = false → s.NoCommands c → s.GateOpen c → c.ill = false →
    let w := fmtWidth c.fmt
    w ≠ 64 → (∀ j, j < 256 / w → c.InWindow (Rules.tileRow c a b j) (4 * w)) →
    (Rules.vectorRuns s (.tldt y a b) fun k => Rules.tileFrame c k ∧ Rules.otherTiles c k y ∧ k.v = c.v ∧ k.m = c.m ∧
      k.fflags = c.fflags ∧ ∀ r j, r < 32 → j < 256 / w → Rules.tileAt k y.toNat w r j =
        Rules.windowNat s c (Rules.tileRow c a b j).toNat (4 * w) / 2 ^ (r * w) % 2 ^ w) ∧
    (s.Canonical →
      ∃ t k, exec (.tstc y a b) s = .next t ∧ s.OnlyCoreAndGate t ∧ t.core? s.cur = some k ∧
      Rules.tileFrame c k ∧ c.SameVector k ∧ k.fflags = c.fflags ∧ ∀ f : Nat → Option Bool,
        (∀ n, (∀ j, j < 256 / w →
          ¬ (8 * (Rules.tileRow c a b j).toNat ≤ n ∧ n < 8 * (Rules.tileRow c a b j).toNat + 32 * w)) → f n = none) →
        (∀ n j, j < 256 / w → 8 * (Rules.tileRow c a b j).toNat ≤ n → n < 8 * (Rules.tileRow c a b j).toNat + 32 * w →
          (∀ h, j < h → h < 256 / w →
            ¬ (8 * (Rules.tileRow c a b h).toNat ≤ n ∧ n < 8 * (Rules.tileRow c a b h).toNat + 32 * w)) →
          let o := n - 8 * (Rules.tileRow c a b j).toNat
          f n = some ((Rules.tileAt c y.toNat w (o / w) j).testBit (o % w))) →
        Rules.windowStored s t c f)) ∧
  ∀ (s : State) (c : Core) (y : BitVec 3) (a b : BitVec 5), s.Plain c → c.ill = true ∨ fmtWidth c.fmt = 64 →
    exec (.tldt y a b) s = .next (s.takeTrap { cause := .vtype } c.curPc false) ∧
    exec (.tstc y a b) s = .next (s.takeTrap { cause := .vtype } c.curPc false)

/-- TLDC of a coded chunk in the hart's own hold window (R19, R174, R175, R297 to R299): with its marker judged field by field and its
symbols decoded lane by lane as `chunkDecoded` writes out, the symbols to the tile, zeros behind them, once the chunk verifies;
otherwise STREAM, unwinding, with the number of symbols decoded before it, and the tile as it was. -/
def Obligations.TileDecodeResult : Prop :=
  ∀ (s : State) (c : Core) (y : BitVec 3) (a b : BitVec 5), s.Calm c → c.isSteward = false → s.NoCommands c → s.GateOpen c →
    let limit := (c.rg b).toNat
    (∀ j, j < limit → c.InWindow (c.rg a + BitVec.ofNat 64 j) 1) →
    let decoded := Rules.chunkDecoded (fun j => (s.windowByte c (c.rg a + BitVec.ofNat 64 j).toNat).toNat) limit
      fun j => tblGet (0 : BitVec 32) j c.dtab
    (∀ xs, decoded = .ok xs →
      Rules.vectorRuns s (.tldc y a b) fun k => Rules.tileFrame c k ∧ Rules.otherTiles c k y ∧ k.v = c.v ∧ k.m = c.m ∧
        k.fflags = c.fflags ∧ ∀ j, j < 1024 → getBits (k.yreg y.toNat) (8 * j) 8 = xs.getD j 0) ∧
    ∀ n, decoded = .error n → c.tvec &&& ~~~3 ≠ 0 → c.cause.active = false →
      ∃ t k, exec (.tldc y a b) s = .next t ∧ t.core? s.cur = some k ∧ k.cause.code = 0x20 ∧ k.cause.restart = true ∧
        k.eelem = BitVec.ofNat 19 n ∧ k.epc = c.pc ∧ c.SameVector k

/-- TMVR out of a tile, TMVC (R176, R177) and VMT (R180 to R182): sweeps with one rounding, or one saturation, of each element; VTYPE
where the operands do not meet the rules. -/
def Sys2Proof.Rules.tileVectorResult : Prop := Rules.sweeps Rules.tileSweep

/-- TMVR into a tile, TZERO and SCLD (R176 to R179): the converted elements with their flags, a zero tile, and one scale slot. -/
def Sys2Proof.Rules.tileWriteResult : Prop :=
  (∀ (s : State) (c : Core) (y : BitVec 3) (v : BitVec 6) (j : BitVec 5) (t : BitVec 4) (m : BitVec 3), s.Calm c →
    Rules.vectorLegal c → s.GateOpen c →
    let wt := fmtWidth t
    let new (i e : Nat) : Nat × Flags :=
      convert c.fmt t (modeOf m c.frm) false (c.elem v.toNat (2 ^ c.glog.toNat) (fmtWidth c.fmt) i e)
    j.toNat + c.rc.toNat ≤ 32 → c.vl.toNat ≤ 256 / wt → fits v.toNat (2 ^ c.glog.toNat) c.rc.toNat = true →
    Rules.vectorRuns s (.tmvr y v j t m 1) fun k => Rules.tileFrame c k ∧ Rules.otherTiles c k y ∧ k.v = c.v ∧ k.m = c.m ∧
      (∀ r e, r < 32 → e < 256 / wt → Rules.tileAt k y.toNat wt r e =
        if j.toNat ≤ r ∧ r < j.toNat + c.rc.toNat ∧ e < c.vl.toNat then (new (r - j.toNat) e).1 else Rules.tileAt c y.toNat wt r e) ∧
      ∀ b, b < 5 → (k.fflags.getLsbD b = true ↔ c.fflags.getLsbD b = true ∨
        ∃ i e, i < c.rc.toNat ∧ e < c.vl.toNat ∧ (new i e).2.getLsbD b = true)) ∧
  (∀ (s : State) (c : Core) (y : BitVec 3), s.Calm c → s.GateOpen c → Rules.vectorRuns s (.tzero y) fun k =>
    Rules.tileFrame c k ∧ Rules.otherTiles c k y ∧ k.v = c.v ∧ k.m = c.m ∧ k.fflags = c.fflags ∧ k.yreg y.toNat = 0) ∧
  ∀ (s : State) (c : Core) (g : BitVec 5) (k : BitVec 1) (slot : BitVec 4) (o : BitVec 12), s.Calm c → c.isSteward = false →
    s.NoCommands c → s.GateOpen c →
    let va := c.rg g + BitVec.ofInt 64 (4 * o.toInt)
    c.InWindow va 4 → Rules.vectorRuns s (.scld g k slot o) fun j => Rules.tileFrame c j ∧ j.v = c.v ∧ j.y = c.y ∧
      j.fflags = c.fflags ∧ (∀ n, n ≠ 46 + k.toNat → j.mreg n = c.mreg n) ∧
      ∀ h, h < 16 → getBits (j.mreg (46 + k.toNat)) (32 * h) 32 =
        if h = slot.toNat then Rules.windowNat s c va.toNat 4 else getBits (c.mreg (46 + k.toNat)) (32 * h) 32

/-- TMVR, TMVC, VMT, TZERO and SCLD (R176 to R182). Where the rules leave room it follows the model's choices of log 30. -/
def Obligations.TileResult : Prop := Rules.tileVectorResult ∧ Rules.tileWriteResult

namespace Sys2Proof.Rules

open Sys2Proof.Machine

/-- No remote write or atomic of the core, or of its hart from before a save, is on its way (R189, R257). -/
def acknowledged (s : State) (c : Core) : Prop :=
  ∀ o ∈ s.outbound, o.core = some c.id ∨ (o.owner.isSome ∧ o.owner = c.crew) → o.write = [] ∧ o.merge = [] ∧ o.atomic = none

/-- A release or an acquire has nothing to write home, drop or await: no non-home copy in the die, no remote write or atomic of
the core. -/
def quiet (s : State) (c : Core) : Prop := (s.die c.id.die).nonHome = [] ∧ acknowledged s c

/-- A hart, or its lane thread, ready for a synchronising access of `n` bytes of its own hold window. -/
def syncReady (s : State) (c : Core) (va : Word) (n : Nat) : Prop :=
  (s.Calm c ∨ s.InLane c) ∧ c.isSteward = false ∧ s.NoCommands c ∧ quiet s c ∧ holdFits c ∧ c.InWindow va n ∧ va.toNat % n = 0

/-- Bytes `bs` stand at byte `a` of the window and every other byte of memory is as before; where `wrote` says so, the event
latches of the cell's other harts are set (R118); no other core has changed. -/
def holdStored (s t : State) (c : Core) (a : Nat) (bs : List Byte) (wrote : Bool) : Prop :=
  let loc := holdLoc c.id.die c.id.pos (c.holdbase.toNat * 2 ^ 16 + a)
  (∀ j, j < bs.length → t.windowByte c (a + j) = bs.getD j 0) ∧
  (∀ l, l < loc ∨ loc + bs.length ≤ l → t.locByte l = s.locByte l) ∧
  (∀ d, (t.die d).nonHome = (s.die d).nonHome) ∧
  ∀ id, id ≠ s.cur → t.core? id = (s.core? id).map fun k =>
    if wrote ∧ k.isSteward = false ∧ k.id.cell = s.cur.cell then { k with latch := true } else k

/-- The little-endian bytes of a number. -/
def leBytes (n x : Nat) : List Byte := (List.range n).map fun j => BitVec.ofNat 8 (x / 2 ^ (8 * j))

/-- The core around which a checkpoint was taken, or a lane thread, which takes none (R115). -/
def around' (c : Core) : Core := if c.split.on then c else around c

/-- The atomics (R184): destination, address and operand registers, size code, and what the old value x, the operand y and the
compared value w make: the new value, none where nothing is written, with flags. -/
def atomicForm (c : Core) :
    Instr → Option (BitVec 5 × BitVec 5 × BitVec 5 × BitVec 2 × (Nat → Nat → Nat → Option Nat × Flags))
  | .amoadd d a b _ _ z => some (d, a, b, z, fun x y _ => (some ((x + y) % 2 ^ (8 * amoBytes z.toNat)), 0))
  | .amoswap d a b _ _ z => some (d, a, b, z, fun _ y _ => (some y, 0))
  | .amocas d a b _ _ z => some (d, a, b, z, fun x y w => (if x = w then some y else none, 0))
  | .amomin d a b _ _ z => some (d, a, b, z, fun x y _ =>
      let k := 8 * amoBytes z.toNat
      (some (if z.toNat < 2 then (if sext x k ≤ sext y k then x else y) else min x y), 0))
  | .amomax d a b _ _ z => some (d, a, b, z, fun x y _ =>
      let k := 8 * amoBytes z.toNat
      (some (if z.toNat < 2 then (if sext x k ≤ sext y k then y else x) else max x y), 0))
  | .amoand d a b _ _ z => some (d, a, b, z, fun x y _ => (some (x &&& y), 0))
  | .amoor d a b _ _ z => some (d, a, b, z, fun x y _ => (some (x ||| y), 0))
  | .amoxor d a b _ _ z => some (d, a, b, z, fun x y _ => (some (x ^^^ y), 0))
  | .amofadd d a b _ _ => some (d, a, b, 0, fun x y _ =>
      let r := sumRule fmtF32 (modeOfFrm c.frm) [.of (c32 x), .of (c32 y)]
      (some r.1, r.2))
  | _ => none

/-- What an instruction that takes a checkpoint around itself leaves in a hart besides the value `x` in `d`. -/
def syncAfter (c k : Core) (d : BitVec 5) (x : Word) : Prop :=
  k.pc = c.pc + 4 ∧ k.ckpt = c.pc + 4 ∧ k.wait = .none ∧ c.WritesScalar k d x ∧ c.SameVector k ∧ k.fflags = c.fflags ∧
    c.SameSpecial k

/-- A hart ready for an instruction on the barrier object at `va` of its own window. -/
def objectReady (s : State) (c : Core) (va : Word) : Prop :=
  s.Calm c ∧ c.isSteward = false ∧ c.crew.isSome ∧ s.NoCommands c ∧ quiet s c ∧ holdFits c ∧ c.InWindow va 16 ∧
    va.toNat % 16 = 0

/-- A barrier object with its expected and arrived counts, phase and err (R191). -/
def objectAt (s : State) (c : Core) (va : Word) (expected arrived : Nat) (phase err : Bool) : Prop :=
  windowWord s c va.toNat % 2 ^ 48 = expected ∧ windowWord s c (va.toNat + 8) % 2 ^ 48 = arrived ∧
    (windowWord s c (va.toNat + 8)).testBit 48 = phase ∧ (windowWord s c (va.toNat + 8)).testBit 49 = err ∧
    windowWord s c (va.toNat + 8) / 2 ^ 56 = 0xB7

/-- The check after an update of an object (R192): expected, arrived, phase and err. -/
def objectAfter (expected arrived : Nat) (phase err : Bool) : Nat × Nat × Bool × Bool :=
  let e := err || decide (2 ^ 48 ≤ arrived)
  let a := arrived % 2 ^ 48
  if expected ≠ 0 ∧ e = false then
    if a = expected then (0, 0, !phase, false) else (expected, a, phase, decide (expected < a))
  else (expected, a, phase, e)

/-- The object at `va` is as the quadruple says, and no byte of memory outside it has changed. -/
def objectLeft (s t : State) (c : Core) (va : Word) (x : Nat × Nat × Bool × Bool) : Prop :=
  objectAt t c va x.1 x.2.1 x.2.2.1 x.2.2.2 ∧
    let loc := holdLoc c.id.die c.id.pos (c.holdbase.toNat * 2 ^ 16 + va.toNat)
    ∀ l, l < loc ∨ loc + 16 ≤ l → t.locByte l = s.locByte l

/-- The object a hart's wait names is the one at `va` of its own window (R207, R260). -/
def objectNamed (s : State) (c : Core) (va : Word) (o : ObjRef) : Prop :=
  s.objOf c va = some o ∧
    s.objLoc? o = some (holdLoc c.id.die c.id.pos (c.holdbase.toNat * 2 ^ 16 + va.toNat))

/-- The first check of R195 that fails at an address of the hart's own window or outside every window. -/
def objectCause (s : State) (c : Core) (va : Word) (init : Bool) : Option Cause :=
  let a := va.toNat
  let d1 := windowWord s c (a + 8)
  if 2 ^ 52 ≤ a then some .perm
  else if a % 16 ≠ 0 then some .align
  else if 2 ^ 19 ≤ a ∧ (a < 0x1000000 ∨ 0x3000000 ≤ a) then some .bobj
  else if a < 2 ^ 19 then
    if c.holdsize.toNat < a + 16 then some .perm
    else if init = false ∧ (d1 / 2 ^ 56 ≠ 0xB7 ∨ d1.testBit 49 = true) then some .bobj
    else none
  else none

/-- An instruction that takes a checkpoint around itself traps there: its registers are as before, cr.ckpt is its address, nothing has
been queued, and every byte of memory is as before but for a fault record. -/
def trapsAt (s : State) (c : Core) (i : Instr) (x : Cause) (va : Word) (elem : Nat) (unwinds : Bool) : Prop :=
  ∃ t k, exec i s = .next t ∧ t.core? s.cur = some k ∧ k.g = c.g ∧ k.ckpt = c.pc ∧ trapped s t c x va elem unwinds

/-- A failed check of R195 traps, BOBJ after an unwind and the address causes precisely, and leaves the object. -/
def objectLeftBy (s : State) (c : Core) (i : Instr) (va : Word) (x : Cause) : Prop := trapsAt s c i x va 0 (decide (x = .bobj))

/-- The harts that a barrier instance waits for have all reached instance `n`, the hart itself with the one it counts (R196). -/
def othersReached (s : State) (r : CrewRef) (train : Bool) (n : Nat) : Prop :=
  ∀ k ∈ s.barrierCrews r train,
    (∀ x ∈ s.cores, x.crewRef? = some k.ref →
      n ≤ (if train then x.tbars else x.cbars) + if x.id = s.cur then 1 else 0) ∧
    ∀ x ∈ k.stops, n ≤ if train then x.tbars else x.cbars

end Sys2Proof.Rules

/-- The atomics on the hart's own hold window, of a hart and of a lane thread, and on pages of any kind of translated memory, under
every order and scope (R183 to R186, R267, R271, R366): gd takes the old value extended by its size, memory the new one, AMOCAS writes
only on a match; a misaligned address traps ALIGN, a release atomic's too, before it waits for a side-log entry (the model's choice,
log 15). -/
def Obligations.AtomicResult : Prop :=
  (∀ (s : State) (c : Core) (i : Instr) (d a b : BitVec 5) (z : BitVec 2) (f : Nat → Nat → Nat → Option Nat × Flags),
    Rules.atomicForm c i = some (d, a, b, z, f) →
    let va := c.rg a
    let n := amoBytes z.toNat
    Rules.syncReady s c va n → s.Canonical →
    let x := Rules.windowNat s c va.toNat n
    let y := f x ((c.rg b).toNat % 2 ^ (8 * n)) ((c.rg d).toNat % 2 ^ (8 * n))
    ∃ t k, exec i s = .next t ∧ t.core? s.cur = some k ∧
      Rules.holdStored s t c va.toNat (Rules.leBytes n (y.1.getD x)) y.1.isSome ∧
      ({ Rules.around' c with fflags := c.fflags ||| y.2, latch := c.latch || (c.split.on && y.1.isSome) }).AfterScalar k d
        (if z.toNat < 2 then BitVec.ofInt 64 (sext x (8 * n)) else BitVec.ofNat 64 x) (c.curPc + 4)) ∧
  (∀ (s : State) (c : Core) (i : Instr) (d a b : BitVec 5) (z : BitVec 2) (f : Nat → Nat → Nat → Option Nat × Flags) (huge : Bool)
    (w : Word), Rules.atomicForm c i = some (d, a, b, z, f) →
    let n := amoBytes z.toNat
    let pa := Rules.pageAddr huge w (c.rg a)
    s.Calm c → s.NoCommands c → Rules.quiet s c → Rules.pageReady s c (c.rg a) n 2 huge w → Rules.unsealedFor s c.id.die pa → s.Canonical →
    let x := Rules.dieNat s c.id.die pa n
    let y := f x ((c.rg b).toNat % 2 ^ (8 * n)) ((c.rg d).toNat % 2 ^ (8 * n))
    ∃ t k, exec i s = .next t ∧ t.core? s.cur = some k ∧ (∀ id, id ≠ s.cur → t.core? id = s.core? id) ∧
      (∀ j, j < n → t.locByte (pa + j) = (Rules.leBytes n (y.1.getD x)).getD j 0) ∧
      (∀ l, l < pa ∨ pa + n ≤ l → t.locByte l = s.locByte l) ∧
      ({ Rules.around c with fflags := c.fflags ||| y.2 }).AfterScalar k d
        (if z.toNat < 2 then BitVec.ofInt 64 (sext x (8 * n)) else BitVec.ofNat 64 x) (c.pc + 4)) ∧
  ∀ (s : State) (c : Core) (i : Instr) (d a b : BitVec 5) (z : BitVec 2) (f : Nat → Nat → Nat → Option Nat × Flags),
    Rules.atomicForm c i = some (d, a, b, z, f) → s.Calm c → c.isSteward = false → (c.rg a).toNat < 2 ^ 52 →
    (c.rg a).toNat % amoBytes z.toNat ≠ 0 →
    ∃ t k p, exec i s = .next t ∧ t.core? s.cur = some k ∧ k.parked = some p ∧ p.info.cause = .align ∧
      p.info.addr = c.rg a ∧ p.unwind = false ∧ p.tpc = c.pc ∧ k.g = c.g ∧ c.SameVector k

/-- LDACQ and STREL on the hart's own hold window, and on pages of any kind of translated memory, at every scope (R188, R275): the load
with its acquire, which empties the cell's scalar data cache beyond cell scope, and the store after its release, performed at home at
panel and system scope and at the die else; a lane thread's stores do the same without an order (R104). Where the rules leave room it
follows the model's choices of log 31. -/
def Obligations.AcquireReleaseResult : Prop :=
  (∀ (s : State) (c : Core) (d a : BitVec 5) (p : BitVec 2) (z : BitVec 3), z.toNat < 7 →
    let n := Rules.sizeOf z.toNat
    Rules.syncReady s c (c.rg a) n →
    ∃ t k, exec (.ldacq d a p z) s = .next t ∧ t.core? s.cur = some k ∧ (∀ l, t.locByte l = s.locByte l) ∧
      (∀ id, id ≠ s.cur → t.core? id = s.core? id) ∧ (p ≠ 0 → (t.cell s.cur.cell).sdc = []) ∧
      (Rules.around' c).AfterScalar k d
        (Rules.loaded z ((List.range n).map fun j => s.windowByte c ((c.rg a).toNat + j))) (c.curPc + 4)) ∧
  (∀ (s : State) (c : Core) (a b : BitVec 5) (p z : BitVec 2), Rules.syncReady s c (c.rg a) (2 ^ z.toNat) → s.Canonical →
    ∃ t k, exec (.strel a b p z) s = .next t ∧ t.core? s.cur = some k ∧
      Rules.holdStored s t c (c.rg a).toNat (Rules.leBytes (2 ^ z.toNat) (c.rg b).toNat) true ∧
      ({ Rules.around' c with latch := c.latch || c.split.on }).AfterScalar k 0#5 0 (c.curPc + 4)) ∧
  (∀ (s : State) (c : Core) (d a : BitVec 5) (p : BitVec 2) (z : BitVec 3) (huge : Bool) (w : Word), z.toNat < 7 →
    let n := Rules.sizeOf z.toNat
    let pa := Rules.pageAddr huge w (c.rg a)
    s.Calm c → s.NoCommands c → Rules.quiet s c → Rules.pageReady s c (c.rg a) n 1 huge w →
    ∃ t k, exec (.ldacq d a p z) s = .next t ∧ t.core? s.cur = some k ∧ (∀ l, t.locByte l = s.locByte l) ∧
      (∀ id, id ≠ s.cur → t.core? id = s.core? id) ∧ (p ≠ 0 → (t.cell s.cur.cell).sdc = []) ∧
      (Rules.around c).AfterScalar k d
        (Rules.loaded z ((List.range n).map fun j => Rules.dieByte s c.id.die (pa + j))) (c.pc + 4)) ∧
  (∀ (s : State) (c : Core) (a b : BitVec 5) (p z : BitVec 2) (huge : Bool) (w : Word),
    let n := 2 ^ z.toNat
    let pa := Rules.pageAddr huge w (c.rg a)
    s.Calm c → s.NoCommands c → Rules.quiet s c → Rules.pageReady s c (c.rg a) n 2 huge w → Rules.unsealedFor s c.id.die pa →
    ∃ t k, exec (.strel a b p z) s = .next t ∧ t.core? s.cur = some k ∧ (∀ id, id ≠ s.cur → t.core? id = s.core? id) ∧
      (∀ j, j < n → Rules.dieByte t c.id.die (pa + j) = (Rules.leBytes n (c.rg b).toNat).getD j 0) ∧
      (2 ≤ p.toNat → ∀ j, j < n → t.locByte (pa + j) = (Rules.leBytes n (c.rg b).toNat).getD j 0) ∧
      (∀ l, l < pa ∨ pa + n ≤ l → t.locByte l = s.locByte l) ∧ (Rules.around c).AfterScalar k 0#5 0 (c.pc + 4)) ∧
  ∀ (s : State) (c : Core) (i : Instr) (g : BitVec 5) (va : Word) (n : Nat), s.InLane c → c.isSteward = false →
    s.NoCommands c → Rules.holdFits c →
    ((∃ (a : BitVec 5) (z : BitVec 2) (o : BitVec 12), i = .st g a z o ∧ va = c.rg a + o.signExtend 64 ∧ n = 2 ^ z.toNat) ∨
      ∃ (a b : BitVec 5) (z j : BitVec 2), i = .stx g a b z j ∧ va = c.rg a + c.rg b <<< j.toNat ∧ n = 2 ^ z.toNat) →
    c.InWindow va n → s.Canonical →
    ∃ t k, exec i s = .next t ∧ t.core? s.cur = some k ∧
      Rules.holdStored s t c va.toNat (Rules.leBytes n (c.rg g).toNat) true ∧
      ({ c with latch := true }).AfterScalar k 0#5 0 (c.curPc + 4)

/-- FENCE (R189, R270, R271, R279): it closes the strip; beyond cell scope the cell's scalar data cache is empty; at panel and system
scope no non-home copy of a named kind is left in the die and its dirty bytes, and only those, are home; in a lane thread it does
nothing more than the thread's own accesses, which are performed as they execute. Where the rules leave room it follows the model's
choices of logs 12, 14 (cr.ckpt stays as it is) and 31. -/
def Obligations.FenceResult : Prop :=
  (∀ (s : State) (c : Core) (k : BitVec 3) (p : BitVec 2), s.Calm c → (s.cell c.id.cell).log = [] →
    let lines := (s.die c.id.die).nonHome
    let named (x : NonHome) : Bool := if x.unordered then k.getLsbD 2 else k.getLsbD 1
    (∀ x ∈ lines, s.homeWait c.id.die (64 * x.line) = none) → Rules.acknowledged s c →
    ∃ t j, exec (.fence k p) s = .next t ∧ t.core? s.cur = some j ∧ (Rules.closed c).AfterScalar j 0#5 0 (c.pc + 4) ∧
      (∀ id, id ≠ s.cur → t.core? id = s.core? id) ∧ (p = 0 → s.SameMemory t) ∧
      (p ≠ 0 → (t.cell s.cur.cell).sdc = []) ∧
      (2 ≤ p.toNat → (∀ x ∈ (t.die c.id.die).nonHome, named x = false) ∧
        (s.Canonical → (∀ x ∈ lines, x.line < 2 ^ 36) →
          (∀ x ∈ lines, named x = true → ∀ i, i < 64 → t.locByte (64 * x.line + i) =
            if x.dirty.getLsbD i then lineByte x.data i else s.locByte (64 * x.line + i)) ∧
          ∀ l, (∀ x ∈ lines, l / 64 ≠ x.line) → t.locByte l = s.locByte l))) ∧
  ∀ (s : State) (c : Core) (k : BitVec 3) (p : BitVec 2), s.InLane c → s.RunsTo (.fence k p) fun j =>
    c.AfterScalar j 0#5 0 (c.curPc + 4)

/-- BOINIT, BOEXP and BOADD (R191 to R193, R195): a new object; the count added to expected, or to arrived, with the check of R192;
gd takes the phase before; a failed check of R195 traps, in the hart's handler where it has one and else to the steward, and leaves the
object and every other byte of memory but its fault record. Where the rules leave room it follows the model's choices of log 12. -/
def Obligations.BarrierObjectResult : Prop :=
  (∀ (s : State) (c : Core) (a b : BitVec 5), Rules.objectReady s c (c.rg a) → s.Canonical → (c.rg b).toNat < 2 ^ 48 →
    ∃ t k, exec (.boinit a b) s = .next t ∧ t.core? s.cur = some k ∧ Rules.syncAfter c k 0#5 0 ∧
      Rules.objectLeft s t c (c.rg a) ((c.rg b).toNat, 0, false, false)) ∧
  (∀ (s : State) (c : Core) (d a b : BitVec 5) (e n : Nat) (ph : Bool), Rules.objectReady s c (c.rg a) → s.Canonical →
    Rules.objectAt s c (c.rg a) e n ph false →
    let x := (c.rg b).toNat
    (e + x < 2 ^ 48 → (e + x ≠ 0 → n ≤ e + x) →
      ∃ t k, exec (.boexp d a b) s = .next t ∧ t.core? s.cur = some k ∧ Rules.syncAfter c k d (if ph then 1 else 0) ∧
        Rules.objectLeft s t c (c.rg a) (Rules.objectAfter (e + x) n ph false)) ∧
    ∃ t k, exec (.boadd d a b) s = .next t ∧ t.core? s.cur = some k ∧ Rules.syncAfter c k d (if ph then 1 else 0) ∧
      Rules.objectLeft s t c (c.rg a) (if x = 0 then (e, n, ph, false) else Rules.objectAfter e (n + x) ph false)) ∧
  (∀ (s : State) (c : Core) (d a b : BitVec 5) (i : Instr) (x : Cause), s.Calm c → c.isSteward = false → c.crew.isSome →
    s.NoCommands c → i = .boinit a b ∨ i = .boexp d a b ∨ i = .boadd d a b →
    Rules.objectCause s c (c.rg a) (decide (i = .boinit a b)) = some x → Rules.objectLeftBy s c i (c.rg a) x) ∧
  (∀ (s : State) (c : Core) (a b : BitVec 5), Rules.objectReady s c (c.rg a) → 2 ^ 48 ≤ (c.rg b).toNat →
    Rules.objectLeftBy s c (.boinit a b) (c.rg a) .bobj) ∧
  ∀ (s : State) (c : Core) (d a b : BitVec 5) (e n : Nat) (ph : Bool), Rules.objectReady s c (c.rg a) →
    Rules.objectAt s c (c.rg a) e n ph false →
    let x := e + (c.rg b).toNat
    2 ^ 48 ≤ x ∨ (x ≠ 0 ∧ x < n) → Rules.objectLeftBy s c (.boexp d a b) (c.rg a) .bobj

/-- BOARR and BOWAIT (R193, R194): BOARR arrives and waits for the phase to differ from the one before; BOWAIT waits for it to differ
from its token; either goes on with the new phase in gd, or waits at its address with its object and token. -/
def Sys2Proof.Rules.barrierWaitResult : Prop :=
  ∀ (s : State) (c : Core) (d a b : BitVec 5) (o : ObjRef) (e n : Nat) (ph : Bool), Rules.objectReady s c (c.rg a) → s.Canonical →
    s.heldFault c false = none → Rules.objectNamed s c (c.rg a) o → Rules.objectAt s c (c.rg a) e n ph false →
    (let x := (c.rg b).toNat
      let after := if x = 0 then (e, n, ph, false) else Rules.objectAfter e (n + x) ph false
      after.2.2.2 = false →
      ∃ t k, exec (.boarr d a b) s = .next t ∧ t.core? s.cur = some k ∧ Rules.objectLeft s t c (c.rg a) after ∧
        if after.2.2.1 = ph then
          k.wait = .phase o (c.rg a) ph d ∧ k.pc = c.pc ∧ k.g = c.g ∧ c.SameVector k
        else Rules.syncAfter c k d (if ph then 0 else 1)) ∧
    ∃ t k, exec (.bowait d a b) s = .next t ∧ t.core? s.cur = some k ∧ (∀ l, t.locByte l = s.locByte l) ∧
      if (c.rg b).getLsbD 0 = ph then
        k.wait = .phase o (c.rg a) ph d ∧ k.pc = c.pc ∧ k.g = c.g ∧ c.SameVector k
      else Rules.syncAfter c k d (if ph then 1 else 0)

/-- CBAR and TBAR (R196): the hart counts its instance and goes on once every other hart of the crew, or of the train, has reached
it, and no store of one that has halted stands in a side log; else it waits there, counted. A TBAR outside a train counts as a
CBAR. -/
def Sys2Proof.Rules.crewBarrierResult : Prop :=
  ∀ (s : State) (c : Core) (r : CrewRef) (h : Nat) (i : Instr) (tbar : Bool), s.Calm c → c.isSteward = false → c.crew = some (r, h) →
    (s.cell c.id.cell).log = [] → Rules.quiet s c → s.heldFault c false = none →
    i = (if tbar then .tbar else .cbar) →
    let train := tbar && s.inTrain r.mem
    let n := (if train then c.tbars else c.cbars) + 1
    let c' := if train then { c with tbars := n } else { c with cbars := n }
    let met : Prop := Rules.othersReached s r train n ∧ ∀ k ∈ s.barrierCrews r train, s.haltedLogs k = false
    (met → ∃ t k, exec i s = .next t ∧ t.core? s.cur = some k ∧ Rules.syncAfter c' k 0#5 0 ∧
      (∀ l, t.locByte l = s.locByte l) ∧ (t.cell s.cur.cell).sdc = [] ∧ ∀ id, id ≠ s.cur → t.core? id = s.core? id) ∧
    (¬ met → ∃ t k, exec i s = .next t ∧ t.core? s.cur = some k ∧
      k.wait = .barrier train n tbar ∧ k.pc = c.pc ∧ k.g = c.g ∧ c'.SameVector k ∧ c'.SameSpecial k ∧
      (∀ l, t.locByte l = s.locByte l) ∧ ∀ id, id ≠ s.cur → t.core? id = s.core? id)

/-- BOARR, BOWAIT, CBAR and TBAR (R193, R194, R196). Where the rules leave room it follows the model's choices of logs 12 and 14. -/
def Obligations.BarrierResult : Prop := Rules.barrierWaitResult ∧ Rules.crewBarrierResult

namespace Sys2Proof.Rules

open Sys2Proof.Machine

/-- Elements of a shape, by its dimensions' counts with their source and destination strides (R198). -/
def shapeElems (dims : List (Nat × Int × Int)) : Nat := dims.foldr (fun x n => x.1 * n) 1

/-- Where an element of a shape lies, from the address of element 0 and the stride of each dimension (R198). -/
def shapePlace (base : Nat) (dims : List (Nat × Int × Int)) (stride : Int × Int → Int) (i : Nat) : Word :=
  BitVec.ofInt 64 (base + ((List.range dims.length).map fun j =>
    let x := dims.getD j (1, 0, 0)
    ((i / shapeElems (dims.take j) % x.1 : Nat) : Int) * stride x.2).foldr (· + ·) 0)

/-- A shape block stands at byte `a` of the window (R198). -/
def shapeBlock (s : State) (c : Core) (a dst src elog : Nat) (dims : List (Nat × Int × Int)) : Prop :=
  windowWord s c a = dst ∧ windowWord s c (a + 8) = src ∧ windowWord s c (a + 16) = dims.length + 16 * elog ∧
  1 ≤ dims.length ∧ dims.length ≤ 8 ∧ elog ≤ 3 ∧ 2 ^ elog * shapeElems dims < 2 ^ 48 ∧
  ∀ j x, dims[j]? = some x → x.1 < 2 ^ 32 ∧ windowWord s c (a + 24 + 24 * j) = x.1 ∧
    windowWord s c (a + 32 + 24 * j) = (BitVec.ofInt 64 x.2.1).toNat ∧
    windowWord s c (a + 40 + 24 * j) = (BitVec.ofInt 64 x.2.2).toNat

/-- A hart that issues commands: nothing holds back what it reads of its own window. -/
def issuer (s : State) (c : Core) : Prop := s.Calm c ∧ c.isSteward = false ∧ c.crew.isSome ∧ s.NoCommands c

/-- A cause at issue, an unwinding trap (R210, R203); cr.eelem has 16 bits of the element's number. -/
def refuses (s : State) (c : Core) (i : Instr) (x : Cause) (va : Word) (elem : Nat) : Prop := trapsAt s c i x va (elem % 2 ^ 16) true

/-- The cause of a structure that must lie in the hold-local window, at a multiple of `align` (R416). -/
def placeCause (va : Word) (align : Nat) : Option Cause :=
  if 2 ^ 52 ≤ va.toNat then some .perm else if va.toNat % align ≠ 0 then some .align else if 2 ^ 19 ≤ va.toNat then some .perm else none

/-- The first address cause of an element of `n` bytes (R87, R101, R136, R268): as a scalar access has it, and in translated memory
HUGEABSENT where not one resident huge page is there. -/
def elementCause (s : State) (c : Core) (va : Word) (n : Nat) : Option Cause :=
  match scalarCause c va n with
  | some x => some x
  | none => if 2 ^ 32 ≤ va.toNat ∧ ((s.die c.id.die).residents va).length ≠ 1 then some .hugeabsent else none

/-- The place of a cause in the order of R87 within one element. -/
def causeRank (x : Cause) : Nat := [Cause.align, .straddle, .hugeabsent, .perm, .seal, .owner].idxOf x

/-- An element has no cause, in the hart's own window, or the cause `x`. -/
def addressCause (s : State) (c : Core) (va : Word) (n : Nat) (x : Option Cause) : Prop :=
  (c.InWindow va n ∧ x = none) ∨ (x = elementCause s c va n ∧ x.isSome)

/-- The first cause of two addresses judged together in the order of R87, of one cause the first address's (R230, log 18). -/
def firstOf (x y : Option Cause × Word) : Option (Cause × Word) :=
  match x.1, y.1 with
  | some p, some q => some (if causeRank q < causeRank p then (q, y.2) else (p, x.2))
  | some p, none => some (p, x.2)
  | none, some q => some (q, y.2)
  | none, none => none

/-- The address causes of a block of doublewords of the hold-local window (R416, R136): its place, then the first doubleword that
the window does not hold. -/
def blockTraps (s : State) (c : Core) (i : Instr) (va : Word) (n : Nat) : Prop :=
  (∀ x, placeCause va 8 = some x → refuses s c i x va 0) ∧
  ∀ j, placeCause va 8 = none → j < n → (∀ k, k < j → c.InWindow (va + BitVec.ofNat 64 (8 * k)) 8) →
    ¬ c.InWindow (va + BitVec.ofNat 64 (8 * j)) 8 → refuses s c i .perm (va + BitVec.ofNat 64 (8 * j)) j

/-- A hart ready to issue a command whose block of `n` bytes stands at `va` of its own window, and whose object, if any, is sound. -/
def issueReady (s : State) (c : Core) (va : Word) (n : Nat) (b : BitVec 5) : Prop :=
  s.Calm c ∧ c.isSteward = false ∧ c.crew.isSome ∧ s.NoCommands c ∧ c.InWindow va n ∧ va.toNat % 8 = 0 ∧
  (b = 0 ∨ c.InWindow (c.rg b) 16 ∧ (c.rg b).toNat % 16 = 0 ∧ ∃ e n ph, objectAt s c (c.rg b) e n ph false)

/-- The one command queued on the hart's cell, and all that its issue has done: the byte count in `d`. -/
def streamQueued (s t : State) (c k : Core) (x : StreamCmd) (d b : BitVec 5) (elog total : Nat) : Prop :=
  t.core? s.cur = some k ∧ (around c).AfterScalar k d (BitVec.ofNat 64 (2 ^ elog * total)) (c.pc + 4) ∧
  (t.cell s.cur.cell).queue = [x] ∧ x.elog = elog ∧ x.total = total ∧ x.next = 0 ∧ c.crewRef? = some x.crew ∧
  x.obj = (if b = 0 then none else s.objOf c (c.rg b)) ∧ s.SameMemory t ∧ t.stackTbl = s.stackTbl ∧
  ∀ id, id ≠ s.cur → t.core? id = s.core? id

/-- Bytes at a place as a number. -/
def locNat (s : State) (l n : Nat) : Nat := ((List.range n).map fun j => (s.locByte (l + j)).toNat * 2 ^ (8 * j)).sum

/-- A barrier object at a place (R191). -/
def objectIn (s : State) (l expected arrived : Nat) (phase err : Bool) : Prop :=
  locNat s l 8 % 2 ^ 48 = expected ∧ locNat s (l + 8) 8 % 2 ^ 48 = arrived ∧ (locNat s (l + 8) 8).testBit 48 = phase ∧
    (locNat s (l + 8) 8).testBit 49 = err ∧ locNat s (l + 8) 8 / 2 ^ 56 = 0xB7

/-- After an arrival of `n` at the object that hardware names: none, one whose crew has ended, or one in a hold, which is as R192
has it. -/
def arrived (s t : State) (o : Option ObjRef) (n : Nat) : Prop :=
  s.Canonical → ∀ r l e m ph, o = some r → s.objLoc? r = some l → isHold l = true → objectIn s l e m ph false →
    let x := if n = 0 then (e, m, ph, false) else objectAfter e (m + n) ph false
    objectIn t l x.1 x.2.1 x.2.2.1 x.2.2.2

/-- Byte `l` belongs to the object that `o` names. -/
def inObject (s : State) (o : Option ObjRef) (l : Nat) : Prop :=
  ∃ r q, o = some r ∧ s.objLoc? r = some q ∧ q ≤ l ∧ l < q + 16

/-- No core has changed but for event latches that are set. -/
def onlyLatches (s t : State) : Prop :=
  ∀ id, (t.core? id).map (fun c => { c with latch := true }) = (s.core? id).map fun c => { c with latch := true }

end Sys2Proof.Rules

/-- The causes of SCOPY and SFILL in the order of R203 (R87, R198, R199, R416): of the block's bytes, LAYOUT with the first faulty
doubleword, of the elements in ascending order, and last of the barrier object; nothing is queued. -/
def Sys2Proof.Rules.shapeTraps : Prop :=
  ∀ (s : State) (c : Core) (fill : Bool) (d a b : BitVec 5), Rules.issuer s c → s.GateOpen c → s.heldFault c true = none →
    let i : Instr := if fill then .sfill d a b else .scopy d a b
    let va := c.rg a
    let word (j : Nat) : Nat := Rules.windowWord s c (va.toNat + 8 * j)
    let n := word 2 % 16
    let elog := word 2 / 16 % 16
    let size := 3 + if n ≤ 8 then 3 * n else 0
    let bytes (m : Nat) : Nat := 2 ^ elog * ((List.range m).map fun j => word (3 + 3 * j) % 2 ^ 32).foldr (· * ·) 1
    let badHead : Prop := 2 ^ 8 ≤ word 2 ∨ n = 0 ∨ 8 < n ∨ 3 < elog
    let bad (k : Nat) : Prop :=
      (k % 3 = 0 ∧ (2 ^ 32 ≤ word (3 + k) ∨ (2 ^ 48 ≤ bytes n ∧ 2 ^ 48 ≤ bytes (k / 3 + 1)))) ∨
        (fill = true ∧ k % 3 = 1 ∧ word (3 + k) ≠ 0)
    Rules.blockTraps s c i va size ∧
    (Rules.placeCause va 8 = none → (∀ j, j < size → c.InWindow (va + BitVec.ofNat 64 (8 * j)) 8) →
      (badHead → Rules.refuses s c i .layout va 2) ∧
      ∀ k, ¬ badHead → k < 3 * n → bad k → (∀ j, j < k → ¬ bad j) → Rules.refuses s c i .layout va (3 + k)) ∧
    ∀ (dst src elog : Nat) (dims : List (Nat × Int × Int)), c.InWindow va (24 + 24 * dims.length) → va.toNat % 8 = 0 →
      Rules.shapeBlock s c va.toNat dst src elog dims → (fill = true → ∀ x ∈ dims, x.2.1 = 0) →
      let from_ := Rules.shapePlace src dims Prod.fst
      let to_ := Rules.shapePlace dst dims Prod.snd
      let good (j : Nat) : Prop := c.InWindow (to_ j) (2 ^ elog) ∧ (fill = false → c.InWindow (from_ j) (2 ^ elog))
      (∀ j x y z, j < Rules.shapeElems dims → (∀ k, k < j → good k) → Rules.addressCause s c (to_ j) (2 ^ elog) y →
        (if fill then x = none else Rules.addressCause s c (from_ j) (2 ^ elog) x) →
        Rules.firstOf (x, from_ j) (y, to_ j) = some z → Rules.refuses s c i z.1 z.2 j) ∧
      ((∀ j, j < Rules.shapeElems dims → good j) → b ≠ 0 → ∀ x, Rules.objectCause s c (c.rg b) false = some x →
        Rules.refuses s c i x (c.rg b) 0)

/-- The causes of SGATH and SSCAT in the order of R203 (R87, R200, R416): of the block's bytes, LAYOUT for its reserved bits, of the mask
and the index array as structures, of the selected elements in ascending order, with PERM for a target that the crew's cells or their
hold bytes do not reach, and last of the barrier object; nothing is queued. -/
def Sys2Proof.Rules.gatherTraps : Prop :=
  ∀ (s : State) (c : Core) (scatter : Bool) (d a b : BitVec 5) (r : CrewRef) (h : Nat) (w : Crew), Rules.issuer s c → s.GateOpen c →
    s.heldFault c true = none → c.crew = some (r, h) → s.crew? r = some w →
    let i : Instr := if scatter then .sscat d a b else .sgath d a b
    let va := c.rg a
    let word (j : Nat) : Nat := Rules.windowWord s c (va.toNat + 8 * j)
    let n := word 3 % 2 ^ 16
    let size := 2 ^ (word 3 / 2 ^ 16 % 4)
    let all := (word 3).testBit 24
    let reserved : Prop := 2 ^ 25 ≤ word 3 ∨ word 3 / 2 ^ 18 % 64 ≠ 0
    let msk := BitVec.ofNat 64 (word 2)
    let idx := BitVec.ofNat 64 (word 1)
    let maskAt (j : Nat) : Word := msk + BitVec.ofNat 64 (j / 8)
    let indexAt (j : Nat) : Word := idx + BitVec.ofNat 64 (4 * j)
    let chosen (j : Nat) : Bool := all || (s.windowByte c (maskAt j).toNat).getLsbD (j % 8)
    let index (j : Nat) : Nat := Rules.windowNat s c (indexAt j).toNat 4
    let near (j : Nat) : Word := BitVec.ofNat 64 (word 0) + BitVec.ofNat 64 (size * j)
    let far (j : Nat) : Word := BitVec.ofNat 64 (0x1000000 + index j)
    let lost (j : Nat) : Prop := w.cells.length ≤ index j / 2 ^ 19 ∨ c.holdsize.toNat < index j % 2 ^ 19 + size
    let readable (j : Nat) : Prop := all = true ∨ c.InWindow (maskAt j) 1
    let good (j : Nat) : Prop := readable j ∧ (chosen j = true → c.InWindow (indexAt j) 4 ∧ ¬ lost j ∧ c.InWindow (near j) size)
    Rules.blockTraps s c i va 4 ∧
    (Rules.placeCause va 8 = none → (∀ j, j < 4 → c.InWindow (va + BitVec.ofNat 64 (8 * j)) 8) →
      (reserved → Rules.refuses s c i .layout va 3) ∧
      (¬ reserved → n ≠ 0 → ∀ x,
        (all = false → Rules.placeCause msk 1 = some x → Rules.refuses s c i x msk 0) ∧
        (all = true ∨ Rules.placeCause msk 1 = none → Rules.placeCause idx 1 = some x → Rules.refuses s c i x idx 0)) ∧
      (¬ reserved → n = 0 ∨ (Rules.placeCause idx 1 = none ∧ (all = true ∨ Rules.placeCause msk 1 = none)) →
        (∀ j x, j < n → (∀ k, k < j → good k) →
          (all = false → Rules.scalarCause c (maskAt j) 1 = some x → Rules.refuses s c i x (maskAt j) j) ∧
          (readable j → chosen j = true → Rules.scalarCause c (indexAt j) 4 = some x → Rules.refuses s c i x (indexAt j) j)) ∧
        (∀ j p z, j < n → (∀ k, k < j → good k) → readable j → chosen j = true → c.InWindow (indexAt j) 4 →
          (if 2 ^ 32 ≤ (near j).toNat then p = some .perm else Rules.addressCause s c (near j) size p) → ∀ t : Option Cause,
          (lost j ∧ t = some .perm) ∨ (¬ lost j ∧ t = none) →
          (if scatter then Rules.firstOf (p, near j) (t, far j) else Rules.firstOf (t, far j) (p, near j)) = some z →
          Rules.refuses s c i z.1 z.2 j) ∧
        ((∀ j, j < n → good j) → b ≠ 0 → ∀ x, Rules.objectCause s c (c.rg b) false = some x → Rules.refuses s c i x (c.rg b) 0)))

/-- The commands that the stream instructions queue, and their performance (R197 to R203). -/
def Sys2Proof.Rules.streamRuns : Prop :=
  (∀ (s : State) (c : Core) (fill : Bool) (d a b : BitVec 5) (dst src elog : Nat) (dims : List (Nat × Int × Int)),
    let va := c.rg a
    Rules.issueReady s c va (24 + 24 * dims.length) b → s.GateOpen c → s.heldFault c true = none →
    Rules.shapeBlock s c va.toNat dst src elog dims → (fill = true → ∀ x ∈ dims, x.2.1 = 0) →
    let from_ := Rules.shapePlace src dims Prod.fst
    let to_ := Rules.shapePlace dst dims Prod.snd
    (∀ i, i < Rules.shapeElems dims → c.InWindow (to_ i) (2 ^ elog) ∧ (fill = false → c.InWindow (from_ i) (2 ^ elog))) →
    ∃ t k x, exec (if fill then .sfill d a b else .scopy d a b) s = .next t ∧
      Rules.streamQueued s t c k x d b elog (Rules.shapeElems dims) ∧
      (fill = true → ∃ o y, x.work = .shape true o (BitVec.ofNat 64 src) y) ∧
      ∀ i, i < Rules.shapeElems dims → (x.element i).2 = to_ i ∧ (fill = false → (x.element i).1 = from_ i)) ∧
  (∀ (s : State) (c : Core) (scatter : Bool) (d a b : BitVec 5) (elog n base idx msk : Nat) (all : Bool),
    let va := c.rg a
    let word (j : Nat) : Nat := Rules.windowWord s c (va.toNat + 8 * j)
    Rules.issueReady s c va 32 b → s.GateOpen c → s.heldFault c true = none → elog ≤ 3 → n < 2 ^ 16 → base < 2 ^ 32 →
    word 0 = base → word 1 = idx → word 2 = msk → word 3 = n + 2 ^ 16 * elog + (if all then 2 ^ 24 else 0) →
    let chosen (i : Nat) : Bool := all || (s.windowByte c (msk + i / 8)).getLsbD (i % 8)
    let index (i : Nat) : Nat := Rules.windowNat s c (idx + 4 * i) 4
    let near (i : Nat) : Word := BitVec.ofNat 64 (base + 2 ^ elog * i)
    let far (i : Nat) : Word := BitVec.ofNat 64 (0x1000000 + index i)
    (∀ i, i < n → (all = false → c.InWindow (BitVec.ofNat 64 (msk + i / 8)) 1) ∧
      (chosen i = true → c.InWindow (BitVec.ofNat 64 (idx + 4 * i)) 4 ∧ index i < 2 ^ 25 ∧ c.InWindow (near i) (2 ^ elog) ∧
        ∃ p, s.resolveWindow c (far i) (2 ^ elog) = .ok p)) → (n ≠ 0 → idx < 2 ^ 19) → msk + n < 2 ^ 64 →
    let sel := (List.range n).filter chosen
    ∃ t k x, exec (if scatter then .sscat d a b else .sgath d a b) s = .next t ∧
      Rules.streamQueued s t c k x d b elog sel.length ∧
      ∀ j i, sel[j]? = some i → x.element j = if scatter then (near i, far i) else (far i, near i)) ∧
  (∀ (s : State) (d p id m : Nat) (x : StreamCmd) (k : Crew), s.Canonical → (s.cell (cellKey d p)).queue = [x] → x.id = id →
    s.crew? x.crew = some k → (∀ e ∈ s.stackTbl, e.2.seqr = [] ∧ e.2.parked = []) → x.wrote = [] → 1 ≤ m → x.next + m ≤ x.total →
    let n := 2 ^ x.elog
    (∀ i, i < m → ((k.windowLoc x.cellRank (x.element (x.next + i)).1.toNat).isSome = true ∨ ∃ o f y, x.work = .shape true o f y) ∧
      ∃ dst, k.windowLoc x.cellRank (x.element (x.next + i)).2.toNat = some dst ∧ ∀ j, j < n → ¬ Rules.inObject s x.obj (dst + j)) →
    ∃ t, exec (.streamCmdPerform d p id m) s = .next t ∧ Rules.arrived s t x.obj (m * n) ∧ Rules.onlyLatches s t ∧
      (t.cell (cellKey d p)).queue =
        if x.next + m = x.total then [] else [{ x with next := x.next + m, remote := [], waiting := false }]) ∧
  ∀ (s : State) (d p id src dst : Nat) (x : StreamCmd) (k : Crew), s.Canonical → (s.cell (cellKey d p)).queue = [x] → x.id = id →
    s.crew? x.crew = some k → (∀ e ∈ s.stackTbl, e.2.seqr = [] ∧ e.2.parked = []) → x.next < x.total →
    let n := 2 ^ x.elog
    let el := x.element x.next
    (k.windowLoc x.cellRank el.1.toNat = some src ∨ ∃ o f y, x.work = .shape true o f y) → k.windowLoc x.cellRank el.2.toNat = some dst →
    (∀ j, j < n → ¬ Rules.inObject s x.obj (dst + j)) →
    ∃ t, exec (.streamCmdPerform d p id 1) s = .next t ∧
      (∀ j, j < n → t.locByte (dst + j) = match x.work with
        | .shape true _ pattern _ => BitVec.ofNat 8 (pattern.toNat / 2 ^ (8 * j))
        | _ => s.locByte (src + j)) ∧
      (∀ l, l < dst ∨ dst + n ≤ l → ¬ Rules.inObject s x.obj l → t.locByte l = s.locByte l) ∧
      Rules.arrived s t x.obj n ∧ Rules.onlyLatches s t ∧
      (t.cell (cellKey d p)).queue =
        if x.next + 1 = x.total then [] else [{ x with next := x.next + 1, remote := [], wrote := [], waiting := false }]

/-- SCOPY, SFILL, SGATH and SSCAT with their block and elements in windows (R197 to R203), and STREAM_CMD_PERFORM (R199): the command
enters the cell's queue with its elements and gd takes its byte count; the engine then performs the next element of its only
command, from its source or the pattern, and makes its arrival; a cause at issue traps and queues nothing. Where the rules leave room it
follows the model's choices of log 18. -/
def Obligations.StreamCommandResult : Prop := Rules.streamRuns ∧ Rules.shapeTraps ∧ Rules.gatherTraps

namespace Sys2Proof.Rules

open Sys2Proof.Machine

/-- A claim doubleword that R205 and R206 refuse: reserved bits, three claims, or two stacks with no candidate die in common (R4). -/
def claimBad (w : Word) : Prop :=
  fld w 63 25 ≠ 0 ∨ fld w 23 23 ≠ 0 ∨ fld w 15 15 ≠ 0 ∨ fld w 7 2 ≠ 0 ∨ fld w 1 0 = 3 ∨
    (fld w 1 0 = 2 ∧ ¬ ∃ d, isCandidate d (fld w 14 8) = true ∧ isCandidate d (fld w 22 16) = true)

/-- The record of doublewords `w` is of a train, and has a claim table (R205). -/
def trainRecord (w : Nat → Word) : Prop := fld (w 2) 24 24 = 1
def tableRecord (w : Nat → Word) : Prop := trainRecord w ∧ fld (w 4) 1 0 ≠ 0

/-- Doubleword `j` of a launch record has a field outside its range, a reserved bit set, or an object that is none (R205, R206). -/
def recordBad (s : State) (c : Core) (w : Nat → Word) (j : Nat) : Prop :=
  let outside (x lo hi : Nat) : Prop := x < lo ∨ hi < x
  match j with
  | 0 => fld (w 0) 1 0 ≠ 0
  | 2 => fld (w 2) 63 53 ≠ 0 ∨ fld (w 2) 47 44 ≠ 0 ∨ fld (w 2) 31 25 ≠ 0 ∨ fld (w 2) 23 23 ≠ 0 ∨ fld (w 2) 15 9 ≠ 0 ∨
      outside (fld (w 2) 52 48) 1 16 ∨ outside (fld (w 2) 43 40) 1 8 ∨ outside (fld (w 2) 22 16) 1 64 ∨
      outside (fld (w 2) 8 0) 1 (min 256 (4 * fld (w 2) 22 16)) ∨
      (trainRecord w ∧ outside (fld (w 2) 39 32) 2 128) ∨ (¬ trainRecord w ∧ fld (w 2) 39 32 ≠ 0)
  | 3 => fld (w 3) 63 32 ≠ 0
  | 4 => let x := w 4 &&& ~~~0x1000000
      (trainRecord w ∧ (fld x 63 25 ≠ 0 ∨ fld x 23 23 ≠ 0 ∨ fld x 15 15 ≠ 0 ∨ fld x 7 2 ≠ 0 ∨ fld x 1 0 = 3)) ∨ (¬ trainRecord w ∧ claimBad x)
  | 5 => ¬ tableRecord w ∧ w 5 ≠ 0
  | 7 => w 7 ≠ 0 ∧ s.launchObj c (w 7) = none
  | 10 => fld (w 10) 63 52 ≠ 0 ∨ fld (w 10) 31 20 ≠ 0 ∨ fld (w 10) 47 32 ≠ 0 ∨ fld (w 2) 43 40 * 2 ^ 16 < fld (w 10) 51 32 ∨
      fld (w 10) 51 32 < fld (w 10) 19 0
  | 11 => fld (w 11) 63 2 ≠ 0
  | 12 | 13 | 14 => fld (w j) 3 1 ≠ 0 ∨ (j < 12 + fld (w 11) 1 0 ∧ s.launchObj c (w j &&& ~~~0xF) = none)
  | 15 => w 15 ≠ 0
  | _ => False

end Sys2Proof.Rules

/-- The causes of LAUNCH in the order of R206: of the record's doublewords (R87, R416), LAUNCH for its queue, for its first faulty
doubleword, the causes of the claim table's doublewords, and LAUNCH for its first faulty entry; nothing is appended. -/
def Sys2Proof.Rules.launchTraps : Prop :=
  ∀ (s : State) (c : Core) (d a b : BitVec 5), Rules.issuer s c →
    let i : Instr := .launch d a b
    let va := c.rg a
    let q := (c.rg b).toNat
    let at_ (base : Word) (j : Nat) : Word := base + BitVec.ofNat 64 (8 * j)
    let w (j : Nat) : Word := BitVec.ofNat 64 (Rules.windowWord s c (at_ va j).toNat)
    let table := w 5
    let entry (j : Nat) : Word := BitVec.ofNat 64 (Rules.windowWord s c (at_ table j).toNat)
    let crews := Rules.fld (w 2) 39 32
    (va.toNat < 2 ^ 52 → va.toNat % 8 ≠ 0 → Rules.refuses s c i .align va 0) ∧
    (∀ j x, 2 ^ 52 ≤ va.toNat ∨ va.toNat % 8 = 0 → j < 16 → (∀ k, k < j → c.InWindow (at_ va k) 8) →
      Rules.elementCause s c (at_ va j) 8 = some x → Rules.refuses s c i x (at_ va j) j) ∧
    (va.toNat % 8 = 0 → (∀ j, j < 16 → c.InWindow (at_ va j) 8) →
      let open_ : Prop := q < 64 ∧ (quadAt q s.queues).d0.getLsbD 63 = true ∧ (quadAt q s.queues).d0.getLsbD 62 = true
      (¬ open_ → Rules.refuses s c i .launch va 0xFFFF) ∧
      (open_ → ∀ j, j < 16 → Rules.recordBad s c w j → (∀ k, k < j → ¬ Rules.recordBad s c w k) → Rules.refuses s c i .launch va (8 * j)) ∧
      (open_ → (∀ j, j < 16 → ¬ Rules.recordBad s c w j) → Rules.tableRecord w →
        (∀ j x, j < crews → (∀ k, k < j → c.InWindow (at_ table k) 8) → Rules.elementCause s c (at_ table j) 8 = some x →
          Rules.refuses s c i x (at_ table j) j) ∧
        ((∀ j, j < crews → c.InWindow (at_ table j) 8) → ∀ j, j < crews →
          let bad (k : Nat) : Prop := Rules.claimBad (entry k) ∨ (entry k).getLsbD 24 = true
          bad j → (∀ k, k < j → ¬ bad k) → Rules.refuses s c i .launch table (0x80 + 8 * j))))

/-- The causes of DTLD in the order of R208: of its entries as elements (R87, R136), then TABLE with the entry's number, or 0 for a
bit outside the fields of gs2; no entry is written. -/
def Sys2Proof.Rules.dtldTraps : Prop :=
  ∀ (s : State) (c : Core) (a b : BitVec 5), Rules.issuer s c →
    let i : Instr := .dtld a b
    let first := (c.rg b).toNat % 2 ^ 11
    let n := (c.rg b).toNat / 2 ^ 16 % 2 ^ 12
    let at_ (j : Nat) : Word := c.rg a + BitVec.ofNat 64 (4 * j)
    let zeros : Prop := (c.rg b).toNat = first + 2 ^ 16 * n
    let bad (j : Nat) : Prop := 2048 ≤ first + j ∨ 11 < Rules.windowNat s c (at_ j).toNat 4 / 2 ^ 8 % 16
    (∀ j x, j < n → (∀ k, k < j → c.InWindow (at_ k) 4) → Rules.elementCause s c (at_ j) 4 = some x → Rules.refuses s c i x (at_ j) j) ∧
    ((∀ j, j < n → c.InWindow (at_ j) 4) → (¬ zeros → Rules.refuses s c i .table 0 0) ∧
      ∀ j, zeros → j < n → bad j → (∀ k, k < j → ¬ bad k) → Rules.refuses s c i .table 0 j)

/-- LAUNCH of a record without a claim table that stands in the hart's own window, and DTLD, as they complete (R204 to R208, R388,
R389). -/
def Sys2Proof.Rules.launchRuns : Prop :=
  (∀ (s : State) (c : Core) (d a b : BitVec 5), Rules.issueReady s c (c.rg a) 128 0 → Rules.quiet s c →
    let q := (c.rg b).toNat
    let r := quadAt q s.queues
    let cb := s.controlBlock q
    let slots := 2 ^ bits r.d0 51 48
    let rec_ := (List.range 16).map fun j => BitVec.ofNat 64 (Rules.windowWord s c ((c.rg a).toNat + 8 * j))
    let n := s.readWord (cb + 8)
    q < 64 → r.d0.getLsbD 63 = true → r.d0.getLsbD 62 = true → s.launchFault c rec_ = none → recTable rec_ = false →
    let slot := cb + 0x80 + 128 * (n.toNat % slots)
    s.homeWait c.id.die cb = none → s.homeWait c.id.die slot = none → s.sealedAt cb = false → s.sealedAt slot = false → cb + 0x80 + 128 * slots ≤ 2 ^ 42 →
    let full : Prop := slots ≤ (n - s.readWord (cb + 0x10)).toNat
    (full → ∃ t k, exec (.launch d a b) s = .next t ∧ t.core? s.cur = some k ∧
      (Rules.around c).AfterScalar k d (BitVec.allOnes 64) (c.pc + 4) ∧ (∀ l, t.locByte l = s.locByte l) ∧ t.binds = s.binds) ∧
    (¬ full → s.readWord cb = n → ∃ t k, exec (.launch d a b) s = .next t ∧ t.core? s.cur = some k ∧
      (Rules.around c).AfterScalar k d n (c.pc + 4) ∧ t.readWord cb = n + 1 ∧ t.readWord (cb + 8) = n + 1 ∧
      (∀ j w, rec_[j]? = some w → t.readWord (slot + 8 * j) = w) ∧
      (∀ l, l < cb ∨ (cb + 16 ≤ l ∧ (l < slot ∨ slot + 128 ≤ l)) → t.locByte l = s.locByte l) ∧
      ∀ id, id ≠ s.cur → t.core? id = s.core? id)) ∧
  ∀ (s : State) (c : Core) (a b : BitVec 5), s.Calm c → c.isSteward = false → s.NoCommands c →
    let first := (c.rg b).toNat % 2 ^ 11
    let n := (c.rg b).toNat / 2 ^ 16 % 2 ^ 12
    let entry (j : Nat) : BitVec 32 := BitVec.ofNat 32 (Rules.windowNat s c ((c.rg a).toNat + 4 * j) 4)
    let zeros : Prop := (c.rg b).toNat = first + 2 ^ 16 * n
    let good (j : Nat) : Prop := first + j < 2048 ∧ (entry j).toNat / 2 ^ 8 % 16 ≤ 11
    (∀ j, j < n → c.InWindow (c.rg a + BitVec.ofNat 64 (4 * j)) 4) → (n ≠ 0 → (c.rg a).toNat + 4 * n < 2 ^ 64) →
    (zeros → (∀ j, j < n → good j) → s.RunsTo (.dtld a b) fun k =>
      ({ Rules.around c with dtab := k.dtab }).AfterScalar k 0#5 0 (c.pc + 4) ∧
      ∀ j, tblGet 0 j k.dtab = if first ≤ j ∧ j < first + n then entry (j - first) &&& 0x7FFFFF else tblGet 0 j c.dtab) ∧
    ∀ x, x < n → zeros → ¬ good x → (∀ j, j < x → good j) →
      ∃ t k p, exec (.dtld a b) s = .next t ∧ t.core? s.cur = some k ∧ k.parked = some p ∧ p.info.cause = .table ∧
        p.info.elem = x ∧ p.unwind = true ∧ p.tpc = c.pc ∧ k.g = c.g ∧ k.dtab = c.dtab

/-- LAUNCH of a record in the hart's own window, and DTLD (R204 to R208, R388, R389): a full queue gives −1 and leaves the ring; else the
record goes to the next slot, reserve and tail rise, and gd takes the sequence number; DTLD writes its entries with their reserved
bits cleared; the first failed check traps, and appends and writes nothing. Where the rules leave room it follows the model's choices of
logs 12, 19 and 34. -/
def Obligations.LaunchAndTableResult : Prop := Rules.launchRuns ∧ Rules.launchTraps ∧ Rules.dtldTraps

namespace Sys2Proof.Rules

open Sys2Proof.Machine

/-- A hart ready to issue a bank command on a stack it claims and owns, with a descriptor of `n` doublewords at `va` (R209, R210,
R240). -/
def bankReady (s : State) (c : Core) (va : Word) (n : Nat) (x : BitVec 5) (stack : Nat) : Prop :=
  issueReady s c va (8 * n) x ∧ s.heldFault c false = none ∧ stack < 128 ∧ s.claims c stack = true ∧ s.owner stack = c.id.die ∧
    (s.stack stack).lock = none

/-- The bank-set word (R211). -/
def setWord (stack slog b0 : Nat) : Nat := stack * 2 ^ 24 + slog * 2 ^ 16 + b0

/-- A bank set within its limits (R211). -/
def setOk (slog b0 : Nat) : Prop := slog ≤ 9 ∧ b0 < 512 ∧ b0 % 2 ^ slog = 0

/-- The command stands in the stack's sequencer, and all that its issue has done: the count in `d`; a status doubleword written sets
the cell's event latches (R118). -/
def bankQueued (s t : State) (c : Core) (d x : BitVec 5) (stack slog b0 count : Nat) (work : BankWork) (status : Bool) : Prop :=
  (∃ k, t.core? s.cur = some k ∧
    ({ around c with latch := c.latch || status }).AfterScalar k d (BitVec.ofNat 64 count) (c.pc + 4)) ∧
  (∃ y : BankCmd, (t.stack stack).seqr = [y] ∧ y.work = work ∧ y.slog = slog ∧ y.b0 = b0 ∧ y.crew = c.crewRef? ∧
    y.die = c.id.die ∧ y.started = false ∧ y.obj = if x = 0 then none else s.objOf c (c.rg x)) ∧
  (∀ j, j ≠ stack → t.stack j = s.stack j) ∧ (t.stack stack).bank = (s.stack stack).bank ∧ t.cells = s.cells ∧
  ∀ id, id ≠ s.cur → t.core? id = (s.core? id).map fun k =>
    if status ∧ k.isSteward = false ∧ k.id.cell = s.cur.cell then { k with latch := true } else k

/-- The shape word (R220). -/
def shapeWord (x : TableShape) : Nat := x.tpb * 2 ^ 32 + x.t0 * 2 ^ 16 + (x.gsz - 1) * 2 ^ 4 + x.b

/-- The limits of a table set (R220). -/
def shapeFits (x : TableShape) : Prop :=
  let e := 2 ^ (x.b * x.gsz)
  1 ≤ x.b ∧ x.b ≤ 4 ∧ 1 ≤ x.gsz ∧ x.gsz ≤ 8 ∧ x.b * x.gsz ≤ 8 ∧ 1 ≤ x.tpb ∧ x.t0 + x.tpb ≤ 8192 / e

/-- Groups of `k` inputs. -/
def groups (x : TableShape) (k : Nat) : Nat := (k + x.gsz - 1) / x.gsz

/-- Rows `row0` to `row0 + n − 1` are rows of every bank of a set, and the banks have one shape (R219, R223, R229). -/
def rowsFit (s : State) (stack slog b0 row0 n : Nat) : Prop :=
  ∃ narrow, (∀ i, i < 2 ^ slog → (tblGet Bank.reset (b0 + i) (s.stack stack).bank.banks).narrow = narrow) ∧
    row0 + n ≤ if narrow then 512 else 256

/-- The eight bank commands, and the doublewords of their descriptors (R209). -/
inductive BankOp where
  | cbload | tbuild | bdtld | lkacc | lkrd | lkclr | rcopy | rfill

def BankOp.instr (d a x : BitVec 5) (o : BitVec 8) : BankOp → Instr
  | .cbload => .cbload d a x o
  | .tbuild => .tbuild d a x o
  | .bdtld => .bdtld d a x o
  | .lkacc => .lkacc d a x o
  | .lkrd => .lkrd d a x o
  | .lkclr => .lkclr d a x o
  | .rcopy => .rcopy d a x o
  | .rfill => .rfill d a x o

def BankOp.words : BankOp → Nat
  | .lkclr => 1
  | .cbload | .bdtld | .lkrd | .rcopy | .rfill => 3
  | .tbuild => 4
  | .lkacc => 8

/-- A bank-set word outside its limits (R211), and a shape word with a reserved bit set (R220). -/
def setBad (w : Word) : Prop :=
  fld w 63 31 ≠ 0 ∨ fld w 23 20 ≠ 0 ∨ fld w 15 9 ≠ 0 ∨ ¬ setOk (fld w 19 16) (fld w 8 0)

def shapeReserved (w : Word) : Prop := fld w 63 46 ≠ 0 ∨ fld w 31 29 ≠ 0 ∨ fld w 15 7 ≠ 0 ∨ fld w 3 3 ≠ 0

/-- The table set that a shape word names (R220). -/
def shapeIn (w : Word) : TableShape := ⟨fld w 45 32, fld w 28 16, fld w 6 4 + 1, fld w 2 0⟩

/-- A malformed descriptor or opt (R240 step 2): undefined opt bits, reserved bits, mode 3, the limits of the bank set, and fields
outside their ranges for which no other cause is named (R209, R211, R217 to R222, R227, R229, R230). -/
def BankOp.malformed (o : Nat) (w : Nat → Word) : BankOp → Prop
  | .cbload => setBad (w 0) ∨ fld (w 0) 19 16 ≠ 0 ∨ fld (w 0) 8 0 ≠ 0
  | .tbuild => 64 ≤ o ∨ setBad (w 0) ∨ shapeReserved (w 2) ∨ fld (w 3) 63 32 ≠ 0 ∨ fld (w 3) 31 0 = 0
  | .bdtld => o ≠ 0 ∨ setBad (w 0) ∨ fld (w 2) 63 28 ≠ 0 ∨ fld (w 2) 15 11 ≠ 0
  | .lkacc => 8 ≤ o ∨ o % 4 = 3 ∨ setBad (w 0) ∨ shapeReserved (w 1) ∨ fld (w 2) 63 32 ≠ 0 ∨ fld (w 2) 31 0 = 0 ∨ fld (w 3) 63 40 ≠ 0 ∨
      fld (w 3) 31 26 ≠ 0 ∨ fld (w 3) 15 9 ≠ 0 ∨ fld (w 3) 25 16 = 0 ∨ fld (w 7) 63 48 ≠ 0 ∨ fld (w 7) 15 9 ≠ 0
  | .lkrd => 2 ≤ o ∨ setBad (w 0) ∨ fld (w 1) 63 26 ≠ 0 ∨ fld (w 1) 15 9 ≠ 0 ∨ fld (w 1) 25 16 = 0 ∨ fld (w 2) 63 19 ≠ 0 ∨
      fld (w 2) 15 9 ≠ 0
  | .lkclr => 2 ≤ o ∨ setBad (w 0)
  | .rcopy | .rfill => o ≠ 0 ∨ (w 2).toNat % 1024 ≠ 0 ∨ (w 2).toNat < 1024 ∨ 2 ^ 35 < (w 2).toNat

/-- RCOPY and RFILL, whose descriptor names no stack. -/
def BankOp.rows : BankOp → Bool
  | .rcopy | .rfill => true
  | _ => false

/-- A hart ready to issue a bank or stack instruction: no fault is held for it. -/
def bankIssuer (s : State) (c : Core) : Prop := issuer s c ∧ s.heldFault c false = none

/-- Doubleword `j` of a block of the hart's own window. -/
def blockWord (s : State) (c : Core) (va : Word) (j : Nat) : Word := BitVec.ofNat 64 (windowWord s c (va.toNat + 8 * j))

/-- A descriptor that passes steps 1 to 3 of R240. -/
def described (s : State) (c : Core) (y : BankOp) (va : Word) (o : Nat) : Prop :=
  bankIssuer s c ∧ c.InWindow va (8 * y.words) ∧ va.toNat % 8 = 0 ∧ ¬ y.malformed o (blockWord s c va) ∧
    (y.rows = false → let k := fld (blockWord s c va 0) 30 24
      s.claims c k = true ∧ s.owner k = c.id.die ∧ (s.stack k).lock = none)

/-- The address causes of `n` operands of `m` bytes each from `src` on, in the hold-local window (R416, R136, R240 step 4). -/
def operandTraps (s : State) (c : Core) (i : Instr) (src : Word) (n m : Nat) : Prop :=
  n ≠ 0 → (∀ x, placeCause src 1 = some x → refuses s c i x src 0) ∧
    ∀ j x, placeCause src 1 = none → j < n → (∀ k, k < j → c.InWindow (src + BitVec.ofNat 64 (m * k)) m) →
      scalarCause c (src + BitVec.ofNat 64 (m * j)) m = some x → refuses s c i x (src + BitVec.ofNat 64 (m * j)) j

/-- The causes of the barrier object, judged last (R240 step 8). -/
def objectTraps (s : State) (c : Core) (i : Instr) (x : BitVec 5) : Prop :=
  x ≠ 0 → ∀ y, objectCause s c (c.rg x) false = some y → refuses s c i y (c.rg x) 0

end Sys2Proof.Rules

/-- The causes that every bank command takes first, in the order of R240: of the descriptor's bytes (R416), BANKCMD for a malformed
descriptor or opt, and, where the descriptor names a stack, PERM for one that the crew does not claim, then OWNER (R210, R241). -/
def Sys2Proof.Rules.descriptorTraps : Prop :=
  ∀ (s : State) (c : Core) (y : Rules.BankOp) (d a x : BitVec 5) (opt : BitVec 8), Rules.bankIssuer s c →
    let i := y.instr d a x opt
    let va := c.rg a
    let w := Rules.blockWord s c va
    let k := Rules.fld (w 0) 30 24
    Rules.blockTraps s c i va y.words ∧
    (c.InWindow va (8 * y.words) → va.toNat % 8 = 0 →
      (y.malformed opt.toNat w → Rules.refuses s c i .bankcmd va 0) ∧
      (¬ y.malformed opt.toNat w → y.rows = false →
        (s.claims c k = false → Rules.refuses s c i .perm va 0) ∧
        (s.claims c k = true → s.owner k ≠ c.id.die ∨ (s.stack k).lock.isSome → Rules.refuses s c i .owner va 0)))

/-- The later causes of CBLOAD, LKCLR, LKRD, BDTLD and TBUILD (R217 to R221, R229, R240): of their operands, TABLE, BANKCMD for mailbox
rows, and last of the barrier object. -/
def Sys2Proof.Rules.bankOperandTraps : Prop :=
  ∀ (s : State) (c : Core) (d a x : BitVec 5) (opt : BitVec 8),
    let va := c.rg a
    let o := opt.toNat
    let w := Rules.blockWord s c va
    let k := Rules.fld (w 0) 30 24
    let slog := Rules.fld (w 0) 19 16
    let b0 := Rules.fld (w 0) 8 0
    (Rules.described s c .cbload va o → Rules.objectTraps s c (.cbload d a x opt) x) ∧
    (Rules.described s c .lkclr va o → Rules.objectTraps s c (.lkclr d a x opt) x) ∧
    (Rules.described s c .lkrd va o →
      let i : Instr := .lkrd d a x opt
      let n := Rules.fld (w 1) 25 16
      let fits : Prop := Rules.rowsFit s k slog b0 (Rules.fld (w 1) 8 0) n
      let beyond : Prop := 8192 < 1024 * Rules.fld (w 2) 18 16 + 8 * n
      (¬ fits → Rules.refuses s c i .table va 0) ∧ (fits → beyond → Rules.refuses s c i .bankcmd va 0) ∧
        (fits → ¬ beyond → Rules.objectTraps s c i x)) ∧
    (Rules.described s c .bdtld va o →
      let i : Instr := .bdtld d a x opt
      let first := Rules.fld (w 2) 10 0
      let n := Rules.fld (w 2) 27 16
      let at_ (j : Nat) : Word := w 1 + BitVec.ofNat 64 (4 * j)
      let bad (j : Nat) : Prop := 11 < Rules.windowNat s c (at_ j).toNat 4 / 2 ^ 8 % 16
      Rules.operandTraps s c i (w 1) n 4 ∧
      ((∀ j, j < n → c.InWindow (at_ j) 4) → (2048 < first + n → Rules.refuses s c i .table va 0) ∧
        (first + n ≤ 2048 → (∀ j, j < n → bad j → (∀ m, m < j → ¬ bad m) → Rules.refuses s c i .table (at_ j) j) ∧
          ((∀ j, j < n → ¬ bad j) → Rules.objectTraps s c i x)))) ∧
    (Rules.described s c .tbuild va o →
      let i : Instr := .tbuild d a x opt
      let y := Rules.shapeIn (w 2)
      let n := Rules.fld (w 3) 31 0
      let slot := (tblGet ⟨0, []⟩ o (s.stack k).bank.slots).b
      let fits : Prop := Rules.shapeFits y ∧ Rules.groups y n ≤ 2 ^ slog * y.tpb ∧ slot ≠ 0 ∧ slot = y.b
      Rules.operandTraps s c i (w 1) n 1 ∧
      ((∀ j, j < n → c.InWindow (w 1 + BitVec.ofNat 64 j) 1) → (¬ fits → Rules.refuses s c i .table va 0) ∧
        (fits → Rules.objectTraps s c i x)))

/-- CBLOAD, LKCLR, LKRD, BDTLD and TBUILD as they are queued (R209 to R211, R217 to R221, R229). -/
def Sys2Proof.Rules.bankRuns : Prop :=
  ∀ (s : State) (c : Core) (d a x : BitVec 5) (opt : BitVec 8) (stack slog b0 : Nat),
    let va := c.rg a
    let o := opt.toNat
    let word (j : Nat) : Nat := Rules.windowWord s c (va.toNat + 8 * j)
    Rules.setOk slog b0 → word 0 = Rules.setWord stack slog b0 →
    (Rules.bankReady s c va 3 x stack → slog = 0 → b0 = 0 → ∃ t, exec (.cbload d a x opt) s = .next t ∧ s.SameMemory t ∧
      Rules.bankQueued s t c d x stack 0 0 (2 ^ (o / 64 + 1))
        (.cbload (o % 64) (o / 64 + 1) ((List.range (2 ^ (o / 64 + 1))).map fun i => s.windowByte c (va.toNat + 8 + i))) false) ∧
    (Rules.bankReady s c va 1 x stack → o < 2 → ∃ t, exec (.lkclr d a x opt) s = .next t ∧ s.SameMemory t ∧
      Rules.bankQueued s t c d x stack slog b0 (1024 * 2 ^ slog) (.lkclr (decide (o = 1))) false) ∧
    (∀ n row0 mrow mbank, Rules.bankReady s c va 3 x stack → o < 2 → 1 ≤ n → n < 1024 → row0 < 512 → mbank < 512 →
      1024 * mrow + 8 * n ≤ 8192 → word 1 = n * 2 ^ 16 + row0 → word 2 = mrow * 2 ^ 16 + mbank →
      Rules.rowsFit s stack slog b0 row0 n → ∃ t, exec (.lkrd d a x opt) s = .next t ∧ s.SameMemory t ∧
        Rules.bankQueued s t c d x stack slog b0 (8 * n) (.lkrd n row0 mrow mbank (decide (o = 1))) false) ∧
    (∀ first n, Rules.bankReady s c va 3 x stack → o = 0 → first < 2048 → first + n ≤ 2048 → word 2 = n * 2 ^ 16 + first →
      let entry (j : Nat) : BitVec 32 := BitVec.ofNat 32 (Rules.windowNat s c (word 1 + 4 * j) 4)
      (n ≠ 0 → c.InWindow (BitVec.ofNat 64 (word 1)) (4 * n)) → (∀ j, j < n → (entry j).toNat / 2 ^ 8 % 16 ≤ 11) →
      ∃ t, exec (.bdtld d a x opt) s = .next t ∧ s.SameMemory t ∧
        Rules.bankQueued s t c d x stack slog b0 (4 * n * 2 ^ slog) (.bdtld first ((List.range n).map entry)) false) ∧
    ∀ (k : Nat) (y : TableShape), Rules.bankReady s c va 4 x stack → o < 64 → 1 ≤ k → k < 2 ^ 32 → Rules.shapeFits y →
      word 2 = Rules.shapeWord y → word 3 = k → c.InWindow (BitVec.ofNat 64 (word 1)) k →
      Rules.groups y k ≤ 2 ^ slog * y.tpb → (tblGet ⟨0, []⟩ o (s.stack stack).bank.slots).b = y.b →
      ∃ t, exec (.tbuild d a x opt) s = .next t ∧ s.SameMemory t ∧
        Rules.bankQueued s t c d x stack slog b0 (4 * 2 ^ (y.b * y.gsz) * Rules.groups y k)
          (.tbuild o y k ((List.range k).map fun i => s.windowByte c (word 1 + i))) false

/-- CBLOAD, LKCLR, LKRD, BDTLD and TBUILD with their descriptor and operands in the hart's own window (R209 to R211, R217 to R221,
R229): the command enters its stack's sequencer with its operands, and gd takes its count; of these and of LKACC, RCOPY and RFILL a
descriptor that fails its checks, and of the five an operand or a barrier object that does, traps in the order of R240, and nothing is
queued. Where the rules leave room it follows the model's choices of logs 20 and 34. -/
def Obligations.BankCommandResult : Prop := Rules.bankRuns ∧ Rules.descriptorTraps ∧ Rules.bankOperandTraps

namespace Sys2Proof.Rules

open Sys2Proof.Machine

/-- A catalogue entry of doublewords `w0` and `w1` that is a layout mismatch for bank `k` (R295, R223 step 2): malformed, of another
layout, of a kind that the mode forbids, raw with another length than S_k·b·g bits, or elided with a constant index from E on. -/
def entryMismatch (y : TableShape) (inputs n layout mode k : Nat) (w0 w1 : Word) : Prop :=
  let kind := fld w0 63 62
  let length := fld w1 31 0
  let sk := n * min y.tpb (groups y inputs - k * y.tpb)
  fld w1 63 48 ≠ 0 ∨ kind = 3 ∨ (kind ≠ 1 ∧ (fld w0 61 56 ≠ 0 ∨ fld w1 47 32 ≠ 0)) ∨ (kind ≠ 2 ∧ fld w0 47 40 ≠ 0) ∨
    (kind = 2 ∧ (fld w0 39 0 ≠ 0 ∨ length ≠ 0)) ∨ (kind = 1 ∧ fld w1 47 32 = 0) ∨ (kind < 2 ∧ length = 0) ∨
    fld w0 55 48 ≠ layout ∨ (kind = 1 ∧ mode = 0) ∨ (kind = 0 ∧ mode = 1) ∨
    (shapeFits y ∧ kind = 0 ∧ length ≠ (sk * y.b * y.gsz + 7) / 8) ∨ (kind = 2 ∧ 2 ^ (y.b * y.gsz) ≤ fld w0 47 40)

/-- The address causes of memory that resident huge pages of device memory alone serve (R87, R269, R366, R368, R416). -/
def hugeCause (s : State) (c : Core) (write : Bool) (va : Word) : Option Cause :=
  if 2 ^ 52 ≤ va.toNat ∨ va.toNat < 2 ^ 32 then some .perm
  else match (s.die c.id.die).residents va with
    | [w] => if w.getLsbD 4 = false ∨ w.getLsbD (if write then 2 else 1) = false ∨ 2 ^ 42 ≤ pageAddr true w va then some .perm else none
    | _ => some .hugeabsent

/-- The cause of one address of a granule (R230): ALIGN, those of its page, PERM for a stack that the crew does not claim, SEAL for a
sealed destination, OWNER. -/
def granuleCause (s : State) (c : Core) (write : Bool) (va : Word) : Option Cause :=
  if va.toNat < 2 ^ 52 ∧ va.toNat % 1024 ≠ 0 then some .align
  else match hugeCause s c write va, (s.die c.id.die).residents va with
    | some x, _ => some x
    | none, [w] =>
      let pa := pageAddr true w va
      if s.claims c (stackOf pa) = false then some .perm
      else if write = true ∧ (s.die c.id.die).sealt.getLsbD (frameOf pa) = true then some .seal
      else if s.owner (stackOf pa) ≠ c.id.die ∨ (s.stack (stackOf pa)).lock.isSome then some .owner
      else none
    | none, _ => none

end Sys2Proof.Rules

/-- The later causes of LKACC in the order of R223 and R227 (R293, R295, R416): of the catalogue's place and doublewords, of the tiles,
LAYOUT of the descriptor, of an entry and of the resume bank, TABLE, BANKCMD of a tile's page and of the resume bank, and last of the
barrier object. -/
def Sys2Proof.Rules.lkaccTraps : Prop :=
  ∀ (s : State) (c : Core) (d a x : BitVec 5) (opt : BitVec 8),
    let va := c.rg a
    let i : Instr := .lkacc d a x opt
    Rules.described s c .lkacc va opt.toNat →
    let w := Rules.blockWord s c va
    let stack := Rules.fld (w 0) 30 24
    let slog := Rules.fld (w 0) 19 16
    let b0 := Rules.fld (w 0) 8 0
    let y := Rules.shapeIn (w 1)
    let k := Rules.fld (w 2) 31 0
    let layout := Rules.fld (w 3) 39 32
    let n := Rules.fld (w 3) 25 16
    let cat := w 5
    let at_ (j : Nat) : Word := cat + BitVec.ofNat 64 (8 * j)
    let e (j : Nat) : Word := BitVec.ofNat 64 (Rules.windowWord s c (at_ j).toNat)
    let rbank := Rules.fld (w 7) 8 0
    ∀ ne, (Rules.shapeFits y → ne = min ((Rules.groups y k + y.tpb - 1) / y.tpb) (2 ^ slog)) → (¬ Rules.shapeFits y → ne = 1) →
    let es := (List.range ne).map fun j => catEntry (e (2 * j)) (e (2 * j + 1))
    let mismatch (j : Nat) : Prop := Rules.entryMismatch y k n layout (opt.toNat % 4) j (e (2 * j)) (e (2 * j + 1))
    let unresumed (j : Nat) : Prop := 4 ≤ opt.toNat ∧ j = rbank ∧ (Rules.fld (e (2 * j)) 63 62 ≠ 1 ∨
      Rules.fld (e (2 * j + 1)) 47 32 ≤ Rules.fld (w 7) 47 16)
    (2 ^ 52 ≤ cat.toNat → Rules.refuses s c i .perm cat 0) ∧
    (cat.toNat < 2 ^ 52 → cat.toNat % 16 ≠ 0 → Rules.refuses s c i .align cat 0) ∧
    (cat.toNat % 16 = 0 →
      (2 ^ 19 ≤ cat.toNat → cat.toNat < 2 ^ 32 → Rules.refuses s c i .perm cat 0) ∧
      (∀ j z, j < 2 * ne → cat.toNat < 2 ^ 19 ∨ 2 ^ 32 ≤ cat.toNat → (∀ m, m < j → c.InWindow (at_ m) 8) →
        Rules.elementCause s c (at_ j) 8 = some z → Rules.refuses s c i z (at_ j) (j / 2)) ∧
      ((∀ j, j < 2 * ne → c.InWindow (at_ j) 8) →
        (∀ t, s.allTiles (w 4) 0 [] es = .error t → Rules.refuses s c i t.cause t.addr t.elem) ∧
        ∀ pages, s.allTiles (w 4) 0 [] es = .ok pages →
          let compute : Prop := 128 ≤ layout ∧ (layout / 32 % 4 + 1) * (layout / 4 % 8 + 1) ≤ 8
          let tables : Prop := Rules.shapeFits y ∧ Rules.groups y k ≤ 2 ^ slog * y.tpb ∧
            Rules.rowsFit s stack slog b0 (Rules.fld (w 3) 8 0) n
          let off (j : Nat) : Option (Word × Nat) := (entryPieces (w 4) (es.getD j ⟨2, 0, 0, 0, 0, 0, 0⟩)).find? fun p =>
            s.badPiece c.id.die stack (b0 + j) (pageAt pages p.1)
          (¬ compute → Rules.refuses s c i .layout va 0) ∧
          (compute →
            (∀ j, j < ne → mismatch j → (∀ m, m < j → ¬ mismatch m) → Rules.refuses s c i .layout (cat + BitVec.ofNat 64 (16 * j)) j) ∧
            ((∀ j, j < ne → ¬ mismatch j) →
              (∀ j, j < ne → unresumed j → Rules.refuses s c i .layout (cat + BitVec.ofNat 64 (16 * j)) j) ∧
              ((∀ j, j < ne → ¬ unresumed j) → (¬ tables → Rules.refuses s c i .table va 0) ∧
                (tables →
                  (∀ j p, j < ne → off j = some p → (∀ m, m < j → off m = none) → Rules.refuses s c i .bankcmd p.1 j) ∧
                  ((∀ j, j < ne → off j = none) → (4 ≤ opt.toNat → ne ≤ rbank → Rules.refuses s c i .bankcmd va rbank) ∧
                    (opt.toNat < 4 ∨ rbank < ne → Rules.objectTraps s c i x))))))))

/-- The later causes of RCOPY and RFILL (R230): of the first granule that has one, then BANKCMD for two stacks, ranges that overlap, a
replicated destination and a source of RFILL, and last of the barrier object. -/
def Sys2Proof.Rules.rowTraps : Prop :=
  ∀ (s : State) (c : Core) (fill : Bool) (d a x : BitVec 5),
    let va := c.rg a
    let i : Instr := if fill then .rfill d a x 0 else .rcopy d a x 0
    Rules.described s c (if fill then .rfill else .rcopy) va 0 →
    let w := Rules.blockWord s c va
    let n := (w 2).toNat / 1024
    let to_ (j : Nat) : Word := w 0 + BitVec.ofNat 64 (1024 * j)
    let from_ (j : Nat) : Word := w 1 + BitVec.ofNat 64 (1024 * j)
    let source (j : Nat) : Option Cause := if fill then none else Rules.granuleCause s c false (from_ j)
    let clean (j : Nat) : Prop := Rules.granuleCause s c true (to_ j) = none ∧ source j = none
    (∀ j z, j < n → (∀ m, m < j → clean m) →
      Rules.firstOf (Rules.granuleCause s c true (to_ j), to_ j) (source j, from_ j) = some z → Rules.refuses s c i z.1 z.2 j) ∧
    ((∀ j, j < n → clean j) → ∀ (p q : Nat → Nat) (u v : Nat → Word),
      (∀ j, j < n → (s.die c.id.die).residents (to_ j) = [u j] ∧ p j = Rules.pageAddr true (u j) (to_ j) ∧
        (fill = false → (s.die c.id.die).residents (from_ j) = [v j] ∧ q j = Rules.pageAddr true (v j) (from_ j))) →
      let apart (j : Nat) : Prop := fill = false ∧ stackOf (q j) ≠ stackOf (p j)
      let overlap : Prop := fill = false ∧ ∃ j m, j < n ∧ m < n ∧ p j = q m
      (∀ j, j < n → apart j → (∀ m, m < j → ¬ apart m) → Rules.refuses s c i .bankcmd va j) ∧
      ((∀ j, j < n → ¬ apart j) → (overlap → Rules.refuses s c i .bankcmd va 0) ∧
        (¬ overlap → (∀ j, j < n → (u j).getLsbD 8 = true → (∀ m, m < j → (u m).getLsbD 8 = false) → Rules.refuses s c i .bankcmd va j) ∧
          ((∀ j, j < n → (u j).getLsbD 8 = false) → (fill = true → w 1 ≠ 0 → Rules.refuses s c i .bankcmd va 0) ∧
            (fill = false ∨ w 1 = 0 → Rules.objectTraps s c i x)))))

/-- LKACC, its catalogue in the hart's own window, and RCOPY and RFILL as they are queued (R222, R223, R227, R230, R240). -/
def Sys2Proof.Rules.tileRuns : Prop :=
  (∀ (s : State) (c : Core) (d a x : BitVec 5) (opt : BitVec 8) (stack slog b0 k n row0 layout mode count : Nat) (y : TableShape)
      (r : CrewRef) (h : Nat) (w : Crew) (pages : List (Nat × Nat)) (resume : Option (Nat × Nat)),
    let va := c.rg a
    let word (j : Nat) : Nat := Rules.windowWord s c (va.toNat + 8 * j)
    Rules.bankReady s c va 8 x stack → c.crew = some (r, h) → s.crew? r = some w → w.resident = true →
    w.cellOf (s.cellRank c) = some (c.id.die, c.id.pos, c.holdbase.toNat) →
    Rules.setOk slog b0 → word 0 = Rules.setWord stack slog b0 → mode < 3 →
    opt.toNat = mode + (if resume.isSome then 4 else 0) → Rules.shapeFits y →
    word 1 = Rules.shapeWord y → 1 ≤ k → k < 2 ^ 32 → word 2 = k → 1 ≤ n → n < 1024 → row0 < 512 → 128 ≤ layout → layout < 256 →
    (layout / 32 % 4 + 1) * (layout / 4 % 8 + 1) ≤ 8 → word 3 = layout * 2 ^ 32 + n * 2 ^ 16 + row0 →
    (resume = none → word 7 = 0) →
    Rules.groups y k ≤ 2 ^ slog * y.tpb → Rules.rowsFit s stack slog b0 row0 n →
    let ne := (Rules.groups y k + y.tpb - 1) / y.tpb
    let cat (j : Nat) : Word := BitVec.ofNat 64 (Rules.windowWord s c (word 5 + 8 * j))
    let es := (List.range ne).map fun i => catEntry (cat (2 * i)) (cat (2 * i + 1))
    let wbase := BitVec.ofNat 64 (word 4)
    c.InWindow (BitVec.ofNat 64 (word 5)) (16 * ne) → word 5 % 16 = 0 → s.allTiles wbase 0 [] es = .ok pages →
    (∀ i e, es[i]? = some e → layoutBad y true k n layout mode i (cat (2 * i + 1)) e = false ∧
      ∀ p ∈ entryPieces wbase e, s.badPiece c.id.die stack (b0 + i) (pageAt pages p.1) = false) → s.Canonical →
    (resume = none → count = n * Rules.groups y k) →
    (∀ bank chunk, resume = some (bank, chunk) → word 7 = chunk * 2 ^ 16 + bank ∧ bank < 512 ∧ chunk < 2 ^ 32 ∧
      ∃ e first byte, es[bank]? = some e ∧ e.kind = 1 ∧ chunk < e.chunks ∧
        let sk := n * min y.tpb (Rules.groups y k - bank * y.tpb)
        s.skipChunks pages (wbase + BitVec.ofNat 64 e.offset) e sk 0 0 0 chunk = .ok (first, byte) ∧ count = sk - first) →
    ∃ t, exec (.lkacc d a x opt) s = .next t ∧
      Rules.bankQueued s t c d x stack slog b0 count (.lkacc y k n row0 layout wbase pages es (va + 0x30) resume) true ∧
      (∀ j, j < 8 → t.windowByte c (va.toNat + 0x30 + j) = 0) ∧
      let loc := holdLoc c.id.die c.id.pos (c.holdbase.toNat * 2 ^ 16 + va.toNat + 0x30)
      ∀ l, l < loc ∨ loc + 8 ≤ l → t.locByte l = s.locByte l) ∧
  ∀ (s : State) (c : Core) (fill : Bool) (d a x : BitVec 5) (stack : Nat) (n : Nat) (p q : Nat → Nat) (w v : Nat → Word),
    let va := c.rg a
    let word (j : Nat) : Nat := Rules.windowWord s c (va.toNat + 8 * j)
    let dst := BitVec.ofNat 64 (word 0)
    let src := BitVec.ofNat 64 (word 1)
    Rules.bankReady s c va 3 x stack → 1 ≤ n → n ≤ 2 ^ 25 → word 2 = 1024 * n → (fill = true → word 1 = 0) →
    (∀ i, i < n → s.granule .store (dst + BitVec.ofNat 64 (1024 * i)) = .ok (p i, w i) ∧ stackOf (p i) = stack ∧
      (w i).getLsbD 8 = false ∧
      (fill = false → s.granule .load (src + BitVec.ofNat 64 (1024 * i)) = .ok (q i, v i) ∧ stackOf (q i) = stack ∧
        ∀ j, j < n → p j ≠ q i)) →
    ∃ t dp sp, exec (if fill then .rfill d a x 0 else .rcopy d a x 0) s = .next t ∧ s.SameMemory t ∧
      Rules.bankQueued s t c d x stack 0 0 (1024 * n)
        (if fill then .rfill dst (1024 * n) dp else .rcopy dst src (1024 * n) dp sp) false ∧
      ∀ i, i < n → pageAt dp (dst + BitVec.ofNat 64 (1024 * i)) = p i ∧
        (fill = false → pageAt sp (src + BitVec.ofNat 64 (1024 * i)) = q i)

/-- LKACC, of a whole tile set or resumed at a chunk of one bank, its catalogue in the hart's own window, and RCOPY and RFILL (R222, R223,
R227, R230, R240): checked operands enter the sequencer, the status doubleword is zero, and gd takes the count; the first failed check
traps and queues nothing. Where the rules leave room it follows the model's choices of logs 20 and 34. -/
def Obligations.BankTileResult : Prop := Rules.tileRuns ∧ Rules.lkaccTraps ∧ Rules.rowTraps

/-- The causes of STKPASS, STKQRY, SEALARM and SEALOFF in the order of R237, R239 and R233, R234 (R195, R241, R416). -/
def Sys2Proof.Rules.stackTraps : Prop :=
  ∀ (s : State) (c : Core) (d a x : BitVec 5) (opt : BitVec 8), s.Calm c → c.isSteward = false → s.heldFault c false = none →
    let va := c.rg a
    let k := va.toNat
    (let i : Instr := .stkpass d a x opt
      let named : Prop := k < 128 ∧ opt.toNat < 2
      let owned : Prop := s.owner k = c.id.die ∧ (s.stack k).lock = none
      (¬ named → Rules.refuses s c i .bankcmd 0 0) ∧ (named → s.claims c k = false → Rules.refuses s c i .perm 0 0) ∧
        (named → s.claims c k = true → (¬ owned → Rules.refuses s c i .owner 0 0) ∧ (owned → Rules.objectTraps s c i x))) ∧
    (128 ≤ k ∨ opt ≠ 0 → Rules.refuses s c (.stkqry d a opt) .bankcmd 0 0) ∧
    ∀ off : Bool,
      let i : Instr := if off then .sealoff d a x opt else .sealarm d a x opt
      let length := (c.rg x).toNat
      let lengthBad : Prop := opt ≠ 0 ∨ length = 0 ∨ length % 2 ^ 28 ≠ 0
      let n := length / 2 ^ 28
      let page (j : Nat) : Word := va + BitVec.ofNat 64 (j * 2 ^ 28)
      let cause (j : Nat) : Option Cause :=
        match Rules.hugeCause s c true (page j), (s.die c.id.die).residents (page j) with
        | some y, _ => some y
        | none, w :: _ => if off = false ∧ w.getLsbD 9 = false then some .perm else none
        | none, [] => none
      (k < 2 ^ 52 → k % 2 ^ 28 ≠ 0 → Rules.refuses s c i .align va 0) ∧
      (2 ^ 52 ≤ k ∨ k % 2 ^ 28 = 0 → (lengthBad → Rules.refuses s c i .bankcmd va 0) ∧
        (¬ lengthBad → (∀ j y, j < n → cause j = some y → (∀ m, m < j → cause m = none) → Rules.refuses s c i y (page j) j) ∧
          ∀ (e : Nat × Stack) (y : BankCmd) (j : Nat) (w : Word), off = true → (∀ m, m < n → cause m = none) → e ∈ s.stackTbl →
            y ∈ e.2.parked → j < n → (s.die c.id.die).residents (page j) = [w] →
            y.readsFrame (frameOf (Rules.pageAddr true w (page j))) = true → Rules.refuses s c i .bankcmd va 0))

/-- STKPASS, STKQRY, SEALARM and SEALOFF as they complete (R233, R234, R237, R239). -/
def Sys2Proof.Rules.stackRuns : Prop :=
  (∀ (s : State) (c : Core) (d a x : BitVec 5) (opt : BitVec 8) (va : Word),
    Rules.bankReady s c va 0 x (c.rg a).toNat → opt.toNat < 2 →
    let k := (c.rg a).toNat
    ∃ t j, exec (.stkpass d a x opt) s = .next t ∧ t.core? s.cur = some j ∧
      (Rules.around c).AfterScalar j d (BitVec.ofNat 64 (2 ^ 35)) (c.pc + 4) ∧
      (t.stack k).lock = some ⟨1, c.id.die, otherCandidate c.id.die k, decide (opt = 1),
        if x = 0 then none else s.objOf c (c.rg x), none⟩ ∧ (t.stack k).second = (s.stack k).second ∧
      (∀ i, i ≠ k → t.stack i = s.stack i) ∧ s.SameMemory t) ∧
  (∀ (s : State) (c : Core) (d a : BitVec 5), s.Calm c → s.heldFault c false = none → (c.rg a).toNat < 128 → c.isSteward = false →
    let k := (c.rg a).toNat
    let x := s.stack k
    let mine (y : BankCmd) : Bool := c.crewRef?.isSome && decide (y.crew = c.crewRef?)
    let held := match c.crewRef?.bind s.crew? with | none => 0 | some w => w.held.countP fun f => decide (f.stack = some k)
    let b (p : Bool) := if p then 1 else 0
    s.RunsTo (.stkqry d a 0) fun j => (Rules.around c).AfterScalar j d (BitVec.ofNat 64 (
      min 255 (x.seqr.countP mine) * 2 ^ 40 + min 255 (x.parked.countP mine + held) * 2 ^ 32 +
      (if s.owner k = (candidates k).1 then (candidates k).2 else (candidates k).1) * 2 ^ 16 + s.owner k * 2 ^ 8 +
      4 * b (s.claims c k) + 2 * b x.lock.isSome + b (decide (s.owner k = c.id.die) && x.lock.isNone))) (c.pc + 4)) ∧
  ∀ (s : State) (c : Core) (off : Bool) (d a x : BitVec 5) (n : Nat) (f : Nat → Nat) (w : Nat → Word), s.Calm c →
    c.isSteward = false → s.heldFault c false = none → (c.rg a).toNat < 2 ^ 52 → (c.rg a).toNat % 2 ^ 28 = 0 → 1 ≤ n → n ≤ 2 ^ 14 →
    (c.rg x).toNat = n * 2 ^ 28 →
    (∀ i, i < n → s.hugePlace .store (c.rg a + BitVec.ofNat 64 (i * 2 ^ 28)) = .ok (f i * 2 ^ 28, w i) ∧ f i < 2 ^ 14 ∧
      (off = false → (w i).getLsbD 9 = true)) →
    (if off then ∀ k ∈ s.stackTbl, ∀ y ∈ k.2.seqr ++ k.2.parked, ∀ i, i < n → y.readsFrame (f i) = false
      else ∀ k ∈ s.cells, ∀ e ∈ k.2.log, e.va.toNat < (c.rg a).toNat ∨ (c.rg a).toNat + n * 2 ^ 28 ≤ e.va.toNat) →
    let named (g : Nat) : Bool := (List.range n).any fun i => decide (f i = g)
    ∃ t j, exec (if off then .sealoff d a x 0 else .sealarm d a x 0) s = .next t ∧ t.core? s.cur = some j ∧
      (Rules.around c).AfterScalar j d (BitVec.ofNat 64 ((List.range (2 ^ 14)).countP fun g =>
        named g && ((s.die c.id.die).sealt.getLsbD g == off))) (c.pc + 4) ∧
      (∀ e g, e < 128 → g < 2 ^ 14 → (t.die e).sealt.getLsbD g = if named g then !off else (s.die e).sealt.getLsbD g) ∧
      (∀ id, id ≠ s.cur → t.core? id = s.core? id) ∧
      if off then s.SameMemory t
      else ∀ l, l < 2 ^ 42 → named (frameOf l) = true → tblGet? l t.homeCache = none

/-- STKPASS, STKQRY, SEALARM and SEALOFF (R233, R234, R237, R239): a lockage begins towards the other candidate and gd takes 2^35; gd
takes the word of a stack; seals change on every die, gd counts the frames that changed, and a newly sealed region has no byte
in the home caches; the first failed check traps and changes nothing. Where the rules leave room it follows the model's choices of log 15
(cr.eaddr of STKPASS and STKQRY is 0) and of logs 20 and 21. -/
def Obligations.StackResult : Prop := Rules.stackRuns ∧ Rules.stackTraps

namespace Sys2Proof.Rules

open Sys2Proof.Machine

/-- The first command with its identity in the stack's sequencer, started, with no bank of the stack in retraining; not while the
panel is in HEAT (R350). -/
def running (s : State) (stack : Nat) (x : BankCmd) : Prop :=
  s.boot.stage ≠ 3 ∧ (s.stack stack).seqr.find? (fun y => decide (y.id = x.id)) = some x ∧ (s.stack stack).retrain = [] ∧ x.started = true

/-- The command has left its stack, which holds the others as before. -/
def gone (s t : State) (stack : Nat) (x : BankCmd) : Prop :=
  (t.stack stack).seqr = (s.stack stack).seqr.filter (fun y => decide (y.id ≠ x.id)) ∧
    (t.stack stack).parked = (s.stack stack).parked ∧ ∀ j, j ≠ stack → t.stack j = s.stack j

/-- A bank of a stack, an accumulator and a table word. -/
def bankOf' (s : State) (stack b : Nat) : Bank := tblGet Bank.reset b (s.stack stack).bank.banks

/-- An accumulator with one lookup added (R62). -/
def accWith (narrow : Bool) (a : Int × Bool) (e : Int) : Int × Bool :=
  let top : Int := if narrow then 2 ^ 15 - 1 else 2 ^ 31 - 1
  let y := a.1 + e
  if top < y then (top, true) else if y < -top - 1 then (-top - 1, true) else (y, a.2)

/-- Two accumulators combined (R63). -/
def accJoin (a b : Int × Bool) : Int × Bool := accWith false (a.1, a.2 || b.2) b.1

/-- The tree of R54 over 2^n leaves from `lo` on. -/
def accOver (f : Nat → Int × Bool) : Nat → Nat → Int × Bool
  | 0, lo => f lo
  | n + 1, lo => accJoin (accOver f n lo) (accOver f n (lo + 2 ^ n))

/-- The committed accumulator n of a bank. -/
def accAt (b : Bank) (n : Nat) : Int × Bool := let a := tblGet ⟨0, false⟩ n b.acc; (a.val, a.sticky)

/-- A bank of an LKACC has reached the Faulted state (R226): the status doubleword is that of the command's first fault, and every other
byte of memory is as before, so that no arrival is made. Said of a status doubleword in a hold. -/
def statusLeft (s t : State) (x : BankCmd) (va : Word) (bank chunk reason : Nat) : Prop :=
  s.Canonical → ∀ l, s.statusPlace x va = some l → isHold l = true →
    (locNat t l 8 = if x.faulted = none then (2 ^ 63 + reason * 2 ^ 48 + bank * 2 ^ 32 + chunk) % 2 ^ 64 else locNat s l 8) ∧
      ∀ q, q < l ∨ l + 8 ≤ q → t.locByte q = s.locByte q

/-- Every bank of the command has stopped: it has left its stack, and its fault is held with the crew (R226). -/
def faultHeld (s t : State) (stack : Nat) (x : BankCmd) (r : CrewRef) (k : Crew) (f : Nat × Nat) : Prop :=
  gone s t stack x ∧ t.crew? r = some { k with
    held := k.held ++ [⟨x.hart, x.id, { cause := .stream, addr := BitVec.ofNat 64 f.2, elem := f.1 % 2 ^ 16 }, some stack⟩] }

/-- The command's crew has a hart that has not halted. -/
def crewLives (s : State) (x : BankCmd) (r : CrewRef) (k : Crew) : Prop := x.crew = some r ∧ s.crew? r = some k ∧ s.hartsOf r ≠ []

end Sys2Proof.Rules

/-- A chunk that fails (R225, R226): its bank discards what was pending and stops, its accumulators as the last commit left them, no other
bank has changed, the status doubleword is that of the first fault, and once every bank has stopped the fault is held. -/
def Sys2Proof.Rules.chunkFaultResult : Prop :=
  ∀ (s : State) (stack : Nat) (x : BankCmd) (y : TableShape) (k n row0 l : Nat) (w : Word) (pages : List (Nat × Nat))
      (es : List CatEntry) (z : Word) (q : Option (Nat × Nat)) (bank reason : Nat) (p : BankProg) (e : CatEntry) (r : CrewRef) (u : Crew),
    Rules.running s stack x → x.work = .lkacc y k n row0 l w pages es z q → x.banks.Pairwise (fun a b => a.1 < b.1) →
    tblGet? bank x.banks = some p → es[bank]? = some e → p.active = true → Rules.crewLives s x r u →
    let me := x.b0 + bank
    let jk := min y.tpb (Rules.groups y k - bank * y.tpb)
    s.segment stack me y pages w e (n * jk) jk p = .error reason →
    let f := x.faulted.getD (bank, p.chunk)
    ∃ t, exec (.lkaccSegmentEnd stack x.id bank) s = .next t ∧ Rules.statusLeft s t x z bank p.chunk reason ∧
      (∀ b, b ≠ me → Rules.bankOf' t stack b = Rules.bankOf' s stack b) ∧
      (let old := Rules.bankOf' s stack me
        let new := Rules.bankOf' t stack me
        new.acc = old.acc ∧ new.pacc = old.acc ∧ new.table = old.table ∧ new.dec = old.dec ∧ new.narrow = old.narrow) ∧
      ((∃ b ∈ x.banks, b.1 ≠ bank ∧ b.2.active = true) → ∃ v ∈ (t.stack stack).seqr, v.id = x.id ∧ v.faulted = some f ∧
        tblGet? bank v.banks = some { p with delivered := true, fault := true }) ∧
      ((∀ b ∈ x.banks, b.1 ≠ bank → b.2.parked = false ∧ (b.2.done = true ∨ b.2.fault = true)) → Rules.faultHeld s t stack x r u f)

/-- A resumed LKACC starts on its one bank alone (R227): at the symbol and byte that the markers of its earlier chunks give, with its
accumulators as they are; or it stops at the marker that fails, with the status, the held fault and no arrival of R226. -/
def Sys2Proof.Rules.resumedStartResult : Prop :=
  ∀ (s : State) (stack : Nat) (x : BankCmd) (rest : List BankCmd) (y : TableShape) (k n row0 l : Nat) (w : Word)
      (pages : List (Nat × Nat)) (es : List CatEntry) (z : Word) (bank chunk : Nat) (e : CatEntry),
    s.boot.stage ≠ 3 → (s.stack stack).seqr = x :: rest → (s.stack stack).retrain = [] → x.started = false → x.banks = [] →
    x.work = .lkacc y k n row0 l w pages es z (some (bank, chunk)) → es[bank]? = some e →
    let sk := n * min y.tpb (Rules.groups y k - bank * y.tpb)
    let markers := s.skipChunks pages (w + BitVec.ofNat 64 e.offset) e sk 0 0 0 chunk
    let same (t : State) : Prop := ∀ b, Rules.bankOf' t stack b = Rules.bankOf' s stack b
    (∀ sym byte, markers = .ok (sym, byte) → ∃ t, exec (.bankCmdStart stack x.id) s = .next t ∧ same t ∧ s.SameMemory t ∧
      (t.stack stack).seqr = (x :: rest).map fun v =>
        if v.id = x.id then { x with started := true, banks := [(bank, ⟨sym, chunk, byte, false, false, false, false⟩)] } else v) ∧
    ∀ bad reason (r : CrewRef) (u : Crew), markers = .error (bad, reason) → Rules.crewLives s x r u →
      ∃ t, exec (.bankCmdStart stack x.id) s = .next t ∧ same t ∧ Rules.statusLeft s t x z bank bad reason ∧
        Rules.faultHeld s t stack x r u (x.faulted.getD (bank, bad))

/-- What base dies do of started commands that go well (R213, R215, R217 to R221, R224, R229, R231). -/
def Sys2Proof.Rules.bankEventRuns : Prop :=
  ∀ (s : State) (stack : Nat) (x : BankCmd),
    let stays (t : State) (b : Nat) : Prop := Rules.bankOf' t stack b = Rules.bankOf' s stack b
    let inSet (b : Nat) : Prop := x.b0 ≤ b ∧ b < x.b0 + 2 ^ x.slog
    (∀ rest, s.boot.stage ≠ 3 → (s.stack stack).seqr = x :: rest → (s.stack stack).retrain = [] →
      x.started = false → x.banks = [] →
      (∀ y k n r l w p e z, x.work = .lkacc y k n r l w p e z none → y.banks k ≠ 0) →
      (∀ y k n r l w p e z q, x.work ≠ .lkacc y k n r l w p e z (some q)) →
      ∃ t bs, exec (.bankCmdStart stack x.id) s = .next t ∧
        (t.stack stack).seqr = (x :: rest).map (fun z => if z.id = x.id then { x with started := true, banks := bs } else z) ∧
        (∀ y k n r l w p e z, x.work = .lkacc y k n r l w p e z none → ∀ b,
          tblGet? b bs = if b < y.banks k then some ⟨0, 0, 0, false, false, false, false⟩ else none)) ∧
    (Rules.running s stack x →
      (∀ slot b es, x.work = .cbload slot b es → ∃ t, exec (.cbloadDone stack x.id) s = .next t ∧ Rules.gone s t stack x ∧
        Rules.arrived s t x.obj (2 ^ b) ∧ (∀ n, tblGet ⟨0, []⟩ n (t.stack stack).bank.slots =
          if n = slot then ⟨b, es⟩ else tblGet ⟨0, []⟩ n (s.stack stack).bank.slots) ∧ ∀ b, stays t b) ∧
      (∀ first es, x.work = .bdtld first es → ∃ t, exec (.bdtldDone stack x.id) s = .next t ∧ Rules.gone s t stack x ∧
        Rules.arrived s t x.obj (4 * es.length * 2 ^ x.slog) ∧ ∀ b, (¬ inSet b → stays t b) ∧ (inSet b →
          ∀ j, tblGet 0 j (Rules.bankOf' t stack b).dec =
            if first ≤ j ∧ j < first + es.length then es.getD (j - first) 0 &&& 0x7FFFFF
            else tblGet 0 j (Rules.bankOf' s stack b).dec)) ∧
      (∀ narrow, x.work = .lkclr narrow → ∃ t, exec (.lkclrDone stack x.id) s = .next t ∧ Rules.gone s t stack x ∧
        Rules.arrived s t x.obj (1024 * 2 ^ x.slog) ∧ ∀ b, (¬ inSet b → stays t b) ∧ (inSet b →
          (Rules.bankOf' t stack b).narrow = narrow ∧ ∀ n, Rules.accAt (Rules.bankOf' t stack b) n = (0, false))) ∧
      (∀ slot y k act, x.work = .tbuild slot y k act → (tblGet ⟨0, []⟩ slot (s.stack stack).bank.slots).b = y.b → y.tpb ≠ 0 →
        let j := x.done.length
        let e := 2 ^ (y.b * y.gsz)
        let bank := x.b0 + j / y.tpb
        let code (i q : Nat) : Int := ((tblGet ⟨0, []⟩ slot (s.stack stack).bank.slots).entries.getD (i / 2 ^ (q * y.b) % 2 ^ y.b) 0).toInt
        let input (q : Nat) : Int := if j * y.gsz + q < k then (act.getD (j * y.gsz + q) 0).toInt else 0
        ∃ t, exec (.tbuildTableDone stack x.id) s = .next t ∧ Rules.arrived s t x.obj (4 * e) ∧
          (∀ b, b ≠ bank → stays t b) ∧
          (∀ n, tblGet 0 n (Rules.bankOf' t stack bank).table =
            let lo := (y.t0 + j % y.tpb) * e
            if lo ≤ n ∧ n < lo + e then BitVec.ofInt 32 (((List.range y.gsz).map fun q => code (n - lo) q * input q).foldr (· + ·) 0)
            else tblGet 0 n (Rules.bankOf' s stack bank).table) ∧
          if Rules.groups y k ≤ j + 1 then Rules.gone s t stack x
          else (t.stack stack).seqr = (s.stack stack).seqr.map fun z => if z.id = x.id then { x with done := x.done ++ [j] } else z) ∧
      (∀ y k n row0 l w pages es z q bank p e xs bytes, x.work = .lkacc y k n row0 l w pages es z q →
        x.faulted = none → tblGet? bank x.banks = some p → es[bank]? = some e → p.parked = false → p.done = false → p.fault = false →
        let me := x.b0 + bank
        let jk := min y.tpb (Rules.groups y k - bank * y.tpb)
        (row0 + n ≤ if (Rules.bankOf' s stack me).narrow then 512 else 256) →
        s.segment stack me y pages w e (n * jk) jk p = .ok (xs, bytes) →
        ∃ t, exec (.lkaccSegmentEnd stack x.id bank) s = .next t ∧ Rules.arrived s t x.obj xs.length ∧
          (∀ b, b ≠ me → stays t b) ∧
          let old := Rules.bankOf' s stack me
          let new := Rules.bankOf' t stack me
          new.acc = new.pacc ∧ new.table = old.table ∧ new.dec = old.dec ∧ new.narrow = old.narrow ∧
          (p.delivered = true → new.acc = old.pacc) ∧ (p.delivered = false → ∀ r, Rules.accAt new r = (xs.zipIdx.filter fun i => decide (row0 + (p.sym + i.2) / jk = r)).foldl (fun a i =>
            Rules.accWith old.narrow a ((tblGet 0 ((y.t0 + (p.sym + i.2) % jk) * 2 ^ (y.b * y.gsz) + i.1) old.table).setWidth 24).toInt)
            (Rules.accAt old r))) ∧
      (∀ n row0 mrow mbank clear, x.work = .lkrd n row0 mrow mbank clear → Rules.rowsFit s stack x.slog x.b0 row0 n → mbank < 512 →
        1024 * mrow + 8 * n ≤ 8192 → s.Canonical → (∀ l, Rules.inObject s x.obj l → isMailbox l = false) →
        ∃ t, exec (.lkrdDone stack x.id) s = .next t ∧ Rules.gone s t stack x ∧ Rules.arrived s t x.obj (8 * n) ∧
          (let at_ := stack * 2 ^ 22 + mbank * 2 ^ 13 + 1024 * mrow
          (∀ i, i < n →
            let a := Rules.accOver (fun b => Rules.accAt (Rules.bankOf' s stack b) (row0 + i)) x.slog x.b0
            bytesWord (memReads t.mailbox (at_ + 8 * i) 8) =
              BitVec.ofNat 64 ((BitVec.ofInt 32 a.1).toNat + if a.2 then 2 ^ 32 else 0)) ∧
          ∀ l, l < at_ ∨ at_ + 8 * n ≤ l → memRead t.mailbox l = memRead s.mailbox l) ∧
          ∀ b, (clear = false ∨ ¬ inSet b → stays t b) ∧ (clear = true → inSet b → ∀ r,
            Rules.accAt (Rules.bankOf' t stack b) r = if row0 ≤ r ∧ r < row0 + n then (0, false)
              else Rules.accAt (Rules.bankOf' s stack b) r)) ∧
      ∀ (fill : Bool) (dst src : Word) (n i : Nat) (dp sp : List (Nat × Nat)),
        x.work = (if fill then .rfill dst n dp else .rcopy dst src n dp sp) → i < n / 1024 → x.done.contains i = false →
        let to_ := pageAt dp (dst + BitVec.ofNat 64 (1024 * i))
        let from_ := pageAt sp (src + BitVec.ofNat 64 (1024 * i))
        to_ % 1024 = 0 → from_ % 1024 = 0 → to_ < 2 ^ 42 → from_ < 2 ^ 42 → (s.die x.die).sealt.getLsbD (frameOf to_) = false →
        s.Canonical → (∀ j, j < 1024 → ¬ Rules.inObject s x.obj (to_ + j)) →
        ∃ t, exec (if fill then .rfillGranule stack x.id i else .rcopyGranule stack x.id i) s = .next t ∧
          (∀ j, j < 1024 → t.locByte (to_ + j) = if fill then 0 else s.locByte (from_ + j)) ∧
          Rules.arrived s t x.obj 1024 ∧ (∀ b, stays t b) ∧
          if n / 1024 ≤ x.done.length + 1 then Rules.gone s t stack x
          else (t.stack stack).seqr = (s.stack stack).seqr.map fun z => if z.id = x.id then { x with done := i :: x.done } else z)

/-- What base dies do of started commands (R213, R215, R217 to R221, R224 to R227, R229, R231, R61 to R63): a start, of a resumed LKACC at
its chunk; a codebook slot, decoder entries, cleared accumulators, one table, one committed segment, mailbox entries, and one granule of
RCOPY and RFILL, each with its arrival; a chunk that fails, with its status doubleword and held fault. Where the rules leave room it
follows the model's choices of log 20. -/
def Obligations.BankEventResult : Prop := Rules.bankEventRuns ∧ Rules.chunkFaultResult ∧ Rules.resumedStartResult

/-- A parked command rejoins the tail of its sequencer (R228); the steps of a lockage, its arrival of 2^35 and the switch of the owner
(R306); the retry of a held access (R307); and the eviction of a non-home copy, whose dirty bytes go home (R271). Where the rules leave
room it follows the model's choices of log 21. -/
def Obligations.LockageEventResult : Prop :=
  (∀ (s : State) (stack : Nat) (x : BankCmd), let k := s.stack stack
    k.parked.find? (fun y => decide (y.id = x.id)) = some x → k.lock = none → k.seqr.length < 64 → s.crewOn x (s.owner stack) = true →
    (∀ y ∈ k.parked, y.crew = x.crew → x.id ≤ y.id) →
    ∃ t, exec (.parkedCmdRejoin stack x.id) s = .next t ∧
      (t.stack stack).seqr = k.seqr ++ [{ x with die := s.owner stack, started := false, parkAsked := false }] ∧
      (t.stack stack).parked = k.parked.filter (fun y => decide (y.id ≠ x.id)) ∧ t = { s with stackTbl := t.stackTbl }) ∧
  (∀ (s : State) (stack : Nat) (l : Lockage), (s.stack stack).lock = some l →
    let moved (t : State) (n : Nat) : Prop := (t.stack stack).lock = some { l with step := n } ∧ t.owner stack = s.owner stack
    (l.step = 1 → (∀ x ∈ (s.stack stack).seqr, x.die ≠ l.old) →
      ∃ t, exec (.lockageCmdsDrained stack) s = .next t ∧ moved t 3 ∧ t = { s with stackTbl := t.stackTbl }) ∧
    (l.step = 3 → ∃ t, exec (.lockageWritesDrained stack) s = .next t ∧ moved t 4 ∧ t = { s with stackTbl := t.stackTbl }) ∧
    (l.step = 4 → s.boot.stage ≠ 3 → ∃ t, exec (.lockageRecallDone stack) s = .next t ∧ moved t 6 ∧
      (∀ y ∈ (t.die l.new).nonHome, stackOf (64 * y.line) ≠ stack) ∧
      ∀ a, stackOf a = stack → a < 2 ^ 42 → tblGet? a t.homeCache = none) ∧
    (l.step = 6 → stack < 128 → (candidates stack).1 = l.new ∨ (candidates stack).2 = l.new →
      ∃ t, exec (.lockageBroadcastDone stack) s = .next t ∧ (t.stack stack).lock = none ∧ t.owner stack = l.new ∧
        Rules.arrived s t l.obj (2 ^ 35) ∧ ∀ j, j ≠ stack → t.stack j = s.stack j)) ∧
  (∀ (s : State) (c : Core) (k : Nat), s.core? c.id = some c → c.wait = .lockage k → (s.stack k).lock = none →
    ∃ t, exec (.redirectRetry c.id) s = .next t ∧ t.core? c.id = some { c with wait := .none } ∧
      t = { s with cores := t.cores } ∧ ∀ id, id ≠ c.id → t.core? id = s.core? id) ∧
  ∀ (s : State) (die : Nat) (x : NonHome), s.nonHome? die x.line = some x → s.homeWait die (64 * x.line) = none → x.line < 2 ^ 36 →
    ∃ t, exec (.nonhomeEviction die x.line) s = .next t ∧ t.nonHome? die x.line = none ∧
      (∀ i, i < 64 → t.locByte (64 * x.line + i) =
        if x.dirty.getLsbD i then lineByte x.data i else s.locByte (64 * x.line + i)) ∧
      ∀ l, l < 64 * x.line ∨ 64 * x.line + 64 ≤ l → t.locByte l = s.locByte l

namespace Sys2Proof.Rules

open Sys2Proof.Machine

/-- A hart outside split mode that is neither parked nor stopped, and the state in which its turn comes. -/
def awake (s : State) (c : Core) : Prop :=
  s.core? c.id = some c ∧ c.parked = none ∧ c.stopped = false ∧ c.isSteward = false ∧ c.split.on = false ∧ c.frame = none ∧
    c.stepwise = false

/-- Nothing but core `id` has changed, which is now as `p` says. -/
def oneCore (s t : State) (id : CoreId) (p : Core → Prop) : Prop :=
  (∃ k, t.core? id = some k ∧ p k) ∧ t = { s with cores := t.cores } ∧ ∀ j, j ≠ id → t.core? j = s.core? j

/-- RCOPY and RFILL, whose stack is that of their granules (R230). -/
def rowWork (x : BankCmd) : Bool :=
  match x.work with
  | .rcopy _ _ _ _ _ | .rfill _ _ _ => true
  | _ => false

/-- The causes of the unwinding class that the vector unit and the engines find (R86, R117). -/
def foundCauses : List Cause :=
  [.align, .straddle, .hugeabsent, .perm, .seal, .owner, .sparse, .stream, .layout, .table, .bankcmd, .bobj, .launch]

/-- A hart that waits at a barrier instance and may leave it: no held fault for it, and no non-home copy in its die. -/
def mate (s : State) (r : CrewRef) (train : Bool) (n : Nat) (k : Core) : Prop :=
  awake s k ∧ (∃ p, k.wait = .barrier train n p) ∧ (∃ w ∈ s.barrierCrews r train, k.crewRef? = some w.ref ∧ w.ref.mem = r.mem) ∧
    s.heldFault k false = none ∧ (s.die k.id.die).nonHome = []

end Sys2Proof.Rules

/-- What happens to a hart between its instructions (R69, R87, R105, R112, R117, R118): its strip closes; it takes a found or pending
cause, or, at a boundary outside repeat frames with no cause or interrupt before it (R167), an illegal word or a fetch fault; a WFE ends by
its latch or by time; the dispatch gate lets go and charges, of the harts it holds, the one that waits longest (R252). Where the rules leave
room it follows the model's choices of logs 4, 13 and 17, of log 15 for the cause and address that the event of a found cause or of a fetch
fault carries, and of log 25 for what the gate charges and when. -/
def Obligations.HartEventResult : Prop :=
  ∀ (s : State) (c : Core),
    let me := { s with cur := c.id }
    let back (t : State) : Host.Outcome State Fault Refusal := .next { t with cur := s.cur }
    (Rules.awake s c →
      (∀ (u v : State) (i : Instr), c.wait = .none → c.stopAsked = false → me.nextInstr = (u, some i) → closesStrip i = true →
        u.closeStrip = .ok v → u.me.stopAsked = false → v.me.stopAsked = false → v.me.strips = true →
        exec (.stripClose c.id) s = back v ∧ v.me.strip = .empty) ∧
      (∀ t : TrapInfo, t.cause ∈ Rules.foundCauses → exec (.elementCauseTrap c.id t) s = back (me.takeTrap t c.pc true)) ∧
      (∀ a, c.pending.ecc = some a → exec (.asyncCauseTrap c.id) s = back ((me.upd fun k =>
        { k with pending := { k.pending with ecc := none } }).takeTrap { cause := .ecc, addr := a } c.pc true)) ∧
      (∀ a, c.pending.ecc = none → c.pending.link = some a → exec (.asyncCauseTrap c.id) s = back ((me.upd fun k =>
        { k with pending := { k.pending with link := none } }).takeTrap { cause := .link, addr := a } c.pc true)) ∧
      (c.pending = ⟨none, none, true⟩ → exec (.asyncCauseTrap c.id) s = back ((me.upd fun k =>
        { k with pending := { k.pending with energy := false } }).takeTrap { cause := .energy, addr := 0 } c.pc true)) ∧
      (c.around = false → c.wait = .wfe → c.latch = true → ∃ t, exec (.wfeWake c.id) s = .next t ∧ Rules.oneCore s t c.id fun k =>
        k.wait = .none ∧ k.latch = false ∧ k.pc = c.pc + 4 ∧ k.g = c.g ∧ c.SameVector k ∧ c.SameSpecial k ∧ k.fflags = c.fflags) ∧
      (c.around = false → c.wait = .wfe → ∃ t, exec (.wfeTimeout c.id) s = .next t ∧ Rules.oneCore s t c.id fun k =>
        k.wait = .none ∧ k.latch = c.latch ∧ k.pc = c.pc + 4 ∧ k.g = c.g ∧ c.SameVector k ∧ c.SameSpecial k ∧ k.fflags = c.fflags) ∧
      (∀ cost, c.wait = .gate cost → (s.cell c.id.cell).bucket < (s.die c.id.die).level.toNat →
        (∀ k ∈ s.cores, k.isSteward = false → k.id.cell = c.id.cell → k.wait.atGate = true → k.parked = none → k.stopped = false →
          k.id = c.id ∨ c.readySince < k.readySince) →
        ∃ t k, exec (.gateRelease c.id) s = .next t ∧ t.core? c.id = some k ∧
          k = { c with wait := .none, released := true, share := c.share + cost } ∧
          t.cell c.id.cell = { s.cell c.id.cell with bucket := (s.cell c.id.cell).bucket + cost } ∧
          ∀ id, id ≠ c.id → t.core? id = s.core? id)) ∧
    ∀ (t : State), s.core? s.cur = some c → c.parked = none → c.stopped = false → c.frame = none → c.wait = .none →
      c.pending = ⟨none, none, false⟩ → (c.isSteward = true → c.st.mip = false ∨ c.st.mie = false) →
      (∀ (w : BitVec 32) e, s.fetch = (t, .word w) → decode w.toNat = .error e →
        exec (.illegalInstruction w) s = .next (t.takeTrap { cause := .illegal } t.me.curPc false)) ∧
      ∀ x : TrapInfo, s.fetch = (t, .fault x) →
        exec (.fetchFault x) s = .next (t.takeTrap x t.me.curPc (decide (x.cause = .link)))

/-- The ends of waits (R103, R134, R194, R196, R197, R210, R233, R234): a phase that differs from the token and a barrier that is met
let harts go on; a count that has arrived is popped; a waiting stream or seal instruction does what it does when it issues; a bank
command enters its sequencer with the descriptor and operands it has read, or traps for what the stack's owner, its banks, the seals and the
translation of its tiles and granules have meanwhile become (R369, R372); a strip that waited for the side
log closes. Where the rules leave room it follows the model's choices of logs 4 and 14, of log 18 for the stream instruction that reads its
block again when it is taken up, and of log 20 for the bank command that enters as it was read and is judged again. -/
def Obligations.WaitEndResult : Prop :=
  (∀ (s : State) (c : Core) (o : ObjRef) (va : Word) (token ph : Bool) (d : BitVec 5) (l e m : Nat), Rules.awake s c →
    c.wait = .phase o va token d → s.heldFault c false = none → s.objLoc? o = some l → isHold l = true →
    Rules.objectIn s l e m ph false → ph ≠ token → (s.die c.id.die).nonHome = [] →
    ∃ t k, exec (.bowaitReturn c.id) s = .next t ∧ t.core? c.id = some k ∧ k.pc = c.pc + 4 ∧ k.ckpt = c.pc + 4 ∧
      k.wait = .none ∧ c.WritesScalar k d (if ph then 1 else 0) ∧ c.SameVector k ∧ c.SameSpecial k ∧ k.fflags = c.fflags ∧
      (t.cell c.id.cell).sdc = [] ∧ (∀ a, t.locByte a = s.locByte a) ∧ ∀ id, id ≠ c.id → t.core? id = s.core? id) ∧
  (∀ (s : State) (c : Core) (r : CrewRef) (train : Bool) (n : Nat), Rules.mate s r train n c → c.crewRef? = some r →
    s.barrierMet r train n = true →
    (∀ k ∈ s.cores, (∃ p, k.wait = .barrier train n p) → (∃ w ∈ s.barrierCrews r train, k.crewRef? = some w.ref) →
      Rules.mate s r train n k) →
    ∃ t, exec (.barrierRelease c.id) s = .next t ∧ (∀ a, t.locByte a = s.locByte a) ∧ ∀ k, Rules.mate s r train n k →
      ∃ j, t.core? k.id = some j ∧ j.pc = k.pc + 4 ∧ j.ckpt = k.pc + 4 ∧ j.wait = .none ∧ j.g = k.g ∧ k.SameVector j ∧
        k.SameSpecial j ∧ j.fflags = k.fflags) ∧
  (∀ (s : State) (c : Core) (d : BitVec 5) (r : BitVec 3) (f : BitVec 4) (g : BitVec 2) (e : LqEntry) (rest : List LqEntry),
    Rules.awake s c → c.around = false → c.wait = .lqPop d r f g → c.lq = e :: rest → c.target = none → c.strip.buf = [] → s.GateOpen c →
    ∃ t k, exec (.setvlqPopResume c.id) s = .next t ∧ t = { s with cores := t.cores, cells := t.cells } ∧ (∀ i, t.cell i = s.cell i) ∧
      (∀ id, id ≠ c.id → t.core? id = s.core? id) ∧ t.core? c.id = some k ∧
      Rules.vectorSet c k c.grant d e.val.toNat r f g ∧ k.lq = rest ∧ k.strip.popped = some e.val ∧ k.wait = .none) ∧
  ∀ (s : State) (c : Core), Rules.awake s c →
    let me := { s with cur := c.id }
    (∀ d a b (i : Instr), (s.cell c.id.cell).queue.length < 16 ∨ (s.heldFault c true).isSome →
      (c.wait = .engine 0 d a b ∧ i = .scopy d a b ∨ c.wait = .engine 1 d a b ∧ i = .sfill d a b ∨
        c.wait = .engine 2 d a b ∧ i = .sgath d a b ∨ c.wait = .engine 3 d a b ∧ i = .sscat d a b) →
      ∃ t, exec i me = .next t ∧ exec (.engineQueueRoom c.id) s = .next { t with cur := s.cur }) ∧
    (∀ stack cmd va d n, c.wait = .sequencer stack cmd va d n → s.heldFault c false = none → s.sequencerFull c.id stack cmd = false →
      let traps (x : TrapInfo) : Prop := exec (.sequencerRoom c.id) s = .next { me.takeTrap x c.pc true with cur := s.cur }
      (Rules.rowWork cmd = false → s.owner stack ≠ c.id.die ∨ (s.stack stack).lock.isSome → traps { cause := .owner, addr := va }) ∧
      (∀ g k m r l w p es z q x, cmd.work = .lkacc g k m r l w p es z q → s.owner stack = c.id.die → (s.stack stack).lock = none →
        me.allTiles w 0 [] es = .error x → traps x) ∧
      (∀ x, me.keptAgain stack cmd va = .error x → traps x) ∧
      ∀ k new, me.keptAgain stack cmd va = .ok (k, new) → s.sequencerFull c.id k new = false →
        ∃ t j, exec (.sequencerRoom c.id) s = .next t ∧ t.core? c.id = some j ∧ j.pc = c.pc + 4 ∧ j.ckpt = c.pc + 4 ∧
          j.wait = .none ∧ c.WritesScalar j d (BitVec.ofNat 64 (me.keptCount cmd new n).2) ∧ c.SameVector j ∧ c.SameSpecial j ∧
          j.fflags = c.fflags ∧ (Rules.rowWork cmd = false → k = stack) ∧
          (t.stack k).seqr = (s.stack k).seqr ++ [{ new with id := s.nextId }] ∧ (∀ i, i ≠ k → t.stack i = s.stack i) ∧
          ((∀ g b h r l w p e z q, cmd.work ≠ .lkacc g b h r l w p e z q) → s.SameMemory t ∧
            (Rules.rowWork cmd = false → new = cmd ∧ (me.keptCount cmd new n).2 = n))) ∧
    (∀ off d a x, c.wait = .seal off d a x → s.sealReady c off a x = true →
      ∃ t, exec (if off then .sealoff d a x 0 else .sealarm d a x 0) me = .next t ∧
        exec (.sealWaitDone c.id) s = .next { t with cur := s.cur }) ∧
    ∀ t : State, c.wait = .sideLog → c.stopAsked = false → (s.cell c.id.cell).log.length < 64 → me.closeStrip = .ok t →
      t.me.stopAsked = false → exec (.sideLogRoom c.id) s = .next { t.upd (fun k => { k with wait := .none }) with cur := s.cur } ∧ t.me.strip = .empty

namespace Sys2Proof.Rules

open Sys2Proof.Machine

/-- A member that was resident is Stopping, its crews' harts are asked to stop with their event latch set, and nothing else has
changed (R255). -/
def stopsMember (s t : State) (x : Member) : Prop :=
  t.member? x.id = some { x with state := .stopping } ∧ t = { s with members := t.members, cores := t.cores } ∧
  (∀ m, m ≠ x.id → t.member? m = s.member? m) ∧
  ∀ id, t.core? id = (s.core? id).map fun c =>
    if (x.crews.map Crew.ref).contains (c.crewRef?.getD ⟨⟨0, 0, 0⟩, 0⟩) && c.crewRef?.isSome then
      { c with stopAsked := true, latch := true } else c

/-- A victim that gives its lanes before another (R253). -/
def givesBefore (s : State) (a b : Core) : Prop :=
  ∃ x i y j, a.crew = some (x, i) ∧ b.crew = some (y, j) ∧
    let placed (r : CrewRef) : Nat := (s.crew? r).elim 0 Crew.movedAt
    (s.crewPri x < s.crewPri y ∨
      (s.crewPri x = s.crewPri y ∧ (placed y < placed x ∨ (x = y ∧ j < i))))

/-- Two doublewords written with a mask: the fields of a queue register (R387). -/
def queueFields (d0 d1 : Word) : Quad := ⟨d0 &&& 0xC70F0000FFFFFFFF, d1 &&& 0x0000FFFFFFFFFF80, 0, 0⟩

end Sys2Proof.Rules

/-- The victims of R253 and their order: those of a member's reclaim on a cell, by priority, then the latest placement or resumption, then
the highest hart rank of a crew; each gives as many lanes as it can, down to 1, until the need is met. -/
def Sys2Proof.Rules.victimsResult : Prop :=
  ∀ (s : State) (m : MemberId) (y : CrewPlace) (z : Nat × Nat × List Nat) (xs : List Core),
    (s.underWay m).placement m = none → s.lockageFor m = none → ((s.underWay m).lanesGiven m).placement m = some [y] → y.cells = [z] →
    let due (c : Core) : Nat := (c.target.getD c.grant).toNat
    let here (c : Core) : Bool := !c.isSteward && decide (c.id.cell = cellKey y.die z.1)
    (∀ c, c ∈ xs ↔ c ∈ s.cores ∧ here c = true ∧ 1 < due c ∧ ∃ r, c.crewRef? = some r ∧ s.crewPri r < s.queuePri m.queue) →
    s.cores.Nodup → xs.Pairwise (Rules.givesBefore s) →
    let free := 16 - ((s.cores.filter here).map due).sum
    let need := recLanes (s.recordOf m) * z.2.2.length - free
    s.wantedReclaims m = xs.zipIdx.filterMap fun x =>
      let n := min (need - ((xs.take x.2).map fun c => due c - 1).sum) (due x.1 - 1)
      if n = 0 then none else some (x.1.id, due x.1 - n)

/-- The save of a gang (R256 to R258, R381, R382, R418): each hart's scalar, vector, mask and tile registers and its program counter in its
context of its crew's save area, and of each cell rank the hold bytes below the record's discard behind the contexts; the crews have
left their cells. Said of save areas that do not meet. -/
def Sys2Proof.Rules.gangSaveResult : Prop :=
  ∀ (s : State) (x : Member), s.member? x.id = some x → x.state = .stopping → (∀ w ∈ x.crews, w.ref.mem = x.id) →
    (x.crews.map Crew.ref).Nodup → x.moves = [] → (∀ y ∈ s.cells, y.2.queue = []) → s.outbound = [] → s.areaHeld x = false →
    let rec_ := s.recordOf x.id
    let n := recDiscard rec_
    let area := 0x40000 + 0x7000 * recHarts rec_
    let size := area + n * recCells rec_
    (∀ w ∈ x.crews, w.cells.length = recCells rec_ ∧ w.save + size ≤ 2 ^ 42 ∧
      (∀ a, w.save ≤ a → a < w.save + size → s.sealedAt a = false) ∧
      ∀ v ∈ x.crews, v.ref ≠ w.ref → w.save + size ≤ v.save ∨ v.save + size ≤ w.save) →
    (∀ w ∈ x.crews, (∀ c ∈ s.hartsOf w.ref, c.stopped = true ∧ (s.die c.id.die).nonHome = [] ∧
      ∃ hr, c.crew = some (w.ref, hr) ∧ hr < 256 ∧ hr < recHarts rec_) ∧ ((s.hartsOf w.ref).map Core.hartRank).Nodup) →
    (∃ w ∈ x.crews, s.hartsOf w.ref ≠ []) → s.Canonical →
    ∃ t y, exec (.gangSaveDone x.id) s = .next t ∧ t.member? x.id = some y ∧ y.state = .saved ∧
      y.crews.map Crew.ref = x.crews.map Crew.ref ∧ (∀ k ∈ y.crews, k.resident = false ∧ t.hartsOf k.ref = []) ∧
      ∀ w ∈ x.crews,
        (∀ c ∈ s.hartsOf w.ref, ∀ hr, c.crew = some (w.ref, hr) →
          let saved (o : Nat) : Word := t.readWord (w.save + 0x40000 + 0x7000 * hr + o)
          (∀ i : Fin 32, i ≠ 0 → saved (8 * (i.val - 1)) = c.g.get i) ∧ saved 0xF8 = c.pc ∧
          (∀ i j, i < 64 → j < 16 → (saved (0x100 + 128 * i + 8 * j)).toNat = getBits (c.vreg i) (64 * j) 64) ∧
          (∀ i j, 1 ≤ i → i < 48 → j < 8 → (saved (0x2100 + 64 * (i - 1) + 8 * j)).toNat = getBits (c.mreg i) (64 * j) 64) ∧
          ∀ i j, i < 8 → j < 128 → (saved (0x2CC0 + 1024 * i + 8 * j)).toNat = getBits (c.yreg i) (64 * j) 64) ∧
        ∀ (r p block : Nat), w.cells[r]? = some (p, block) → ∀ j, j < n →
          t.locByte (w.save + area + n * r + j) = s.locByte (holdLoc w.die p (block * 2 ^ 16 + j))

/-- Lane reclaims and their victims, stop requests, forced stops, the save of a gang and its return (R123, R253 to R261, R418, R380 to
R382, R392): the pending grant, the stopping member, the hart at cr.ckpt, registers and hold in the save area, and the harts and holds
that have them again, with the bits of cr.moved (R260). Where the rules leave room it follows the model's choices of logs 4 and 23, of
log 14 for a parked hart, of log 16 for a stop in split mode and of log 35 for a forced stop in a user handler. -/
def Obligations.PreemptionResult : Prop :=
  Rules.victimsResult ∧
  (∀ (s : State) (m : MemberId) (vs : List (CoreId × Nat)), m ∈ s.candidatesNow → s.wantedReclaims m = vs → (vs.map Prod.fst).Nodup →
    ∃ t, exec (.laneReclaimRequest vs) s = .next t ∧ t = { s with cores := t.cores } ∧ ∀ id, t.core? id = (s.core? id).map fun c =>
      match vs.find? fun v => decide (v.1 = id) with
      | some v => if c.isSteward = false ∧ 1 ≤ v.2 ∧ v.2 < (c.target.getD c.grant).toNat then
          { c with target := some (BitVec.ofNat 5 v.2), latch := true } else c
      | none => c) ∧
  (∀ (s : State) (x : Member), s.member? x.id = some x → x.state = .resident →
    (s.preemptReason x.id = true → ∃ t, exec (.preemptRequest x.id) s = .next t ∧ Rules.stopsMember s t x) ∧
    (∀ (c : Core) (r : CrewRef) (n : BitVec 5), s.core? c.id = some c → c.crewRef? = some r → r.mem = x.id → c.target = some n →
      n < c.grant → ∃ t, exec (.reclaimTimeout c.id) s = .next t ∧ Rules.stopsMember s t x) ∧
    (x.backfill = true → (∀ k ∈ x.crews, k.movedAt + 1000 * bits (quadAt x.id.queue s.queues).d0 31 0 ≤ s.time) →
      1000 * bits (quadAt x.id.queue s.queues).d0 31 0 ≤ s.time →
      ∃ t, exec (.backfillBoundExpiry x.id) s = .next t ∧ Rules.stopsMember s t x)) ∧
  (∀ (s : State) (c : Core), s.core? c.id = some c → c.stopAsked = true → c.stopped = false → c.frame = none → c.isSteward = false →
    let forced (p : Core → Prop) : Prop := ∃ t k, exec (.forcedStop c.id) s = .next t ∧ t.core? c.id = some k ∧ k.stopped = true ∧
      c.SameVector k ∧ k.fflags = c.fflags ∧ (∀ id, id ≠ c.id → t.core? id = s.core? id) ∧ s.SameMemory t ∧ p k
    let unwound (k : Core) : Prop := k.ckpt = c.ckpt ∧ k.pc = c.ckpt ∧ k.strip = .empty ∧ (c.atCheckpoint = false → k.wait = .none) ∧
      k.cause = (if c.ckptKept && !c.atCheckpoint then { c.cause with active := false } else c.cause) ∧
      ∀ r : Fin 32, k.g.get r = ((c.strip.hist.reverse.find? fun e => e.1 = r.val).map Prod.snd).getD (c.g.get r)
    let natural : Prop := c.split.on = false ∧ c.parked = none ∧
      (c.wait.natural = true ∨ c.atCheckpoint = true ∧ c.asksRemote = false)
    (c.atStop = false → c.noStrip = false → forced unwound) ∧
    (c.atStop = false → c.noStrip = true → c.strip.buf = [] → forced fun k => k.ckpt = c.ckpt ∧ k.pc = c.pc ∧ k.wait = c.wait ∧
      k.g = c.g ∧ k.cause = c.cause ∧ k.strip = .empty) ∧
    (∀ u w, natural → c.noStrip = false → { s with cur := c.id }.closeStrip = .error ⟨u, .wait w⟩ → forced unwound) ∧
    (c.split.on = true → c.parked = none → forced fun k => k = { c with stopped := true, around := false }) ∧
    (natural → c.strip.buf = [] →
      forced fun k => k.ckpt = c.pc ∧ k.pc = c.pc ∧ k.wait = c.wait ∧ k.g = c.g ∧ k.strip = .empty) ∧
    (c.parked.isSome = true → c.split.on = false → c.strip.buf = [] → forced fun k => k.parked = c.parked ∧
      k.ckpt = c.ckpt ∧ k.pc = c.pc ∧ k.wait = c.wait ∧ k.g = c.g ∧ k.cause = c.cause)) ∧
  Rules.gangSaveResult ∧
  (∀ (s : State) (x : Member) (ps : List CrewPlace), s.member? x.id = some x → x.state = .saved → x.energyHeld = false →
    s.boot.overheated = false → s.areaHeld x = false → s.switchHeld x = false → ps.length = x.crews.length → (ps.map CrewPlace.die).Nodup →
    (∀ (i : Nat) (w : Crew) (y : CrewPlace), x.crews[i]? = some w → ps[i]? = some y → s.resumeFits x w y = true ∧ w.ref = ⟨x.id, i⟩) →
    (∀ d, (s.die d).nonHome = []) →
    ∃ t z, exec (.crewResume x.id ps) s = .next t ∧ t.member? x.id = some z ∧ z.state = .resident ∧ z.moves = [] ∧
      z.crews.length = ps.length ∧ ∀ (i : Nat) (y : CrewPlace), ps[i]? = some y → ∃ k, z.crews[i]? = some k ∧ k.ref = ⟨x.id, i⟩ ∧
        k.resident = true ∧ k.die = y.die ∧ k.cells = y.cells.map (fun q => (q.1, q.2.1))) ∧
  ∀ (s : State) (x : Member) (w : Crew) (y : CrewPlace), s.member? x.id = some x → x.state = .saved → x.energyHeld = false →
    s.boot.overheated = false → s.areaHeld x = false → x.crews = [w] → w.ref.mem = x.id → s.resumeFits x w y = true →
    (∀ k ∈ s.crewClaims w.ref, (s.stack k).launch = some (x.id.queue, x.id.seq)) →
    let n := recDiscard (s.recordOf x.id)
    let area := w.save + 0x40000 + 0x7000 * recHarts (s.recordOf x.id)
    n ≤ recBlocks (s.recordOf x.id) * 2 ^ 16 → area + n * recCells (s.recordOf x.id) ≤ 2 ^ 42 → w.save + 2 ^ 24 ≤ 2 ^ 42 →
    (s.die y.die).nonHome = [] → (∀ h ∈ w.stops, h.rank < 256) → s.hartsOf w.ref = [] → 1 ≤ recCells (s.recordOf x.id) →
    ∃ t z k, exec (.crewResume x.id [y]) s = .next t ∧ t.member? x.id = some z ∧ z.state = .resident ∧ z.crews = [k] ∧
      k.resident = true ∧ k.die = y.die ∧ k.cells = y.cells.map (fun q => (q.1, q.2.1)) ∧
      (∀ (r : Nat) (q : Nat × Nat × List Nat), y.cells[r]? = some q → ∀ j, j < recBlocks (s.recordOf x.id) * 2 ^ 16 →
        t.locByte (holdLoc y.die q.1 (q.2.1 * 2 ^ 16 + j)) = if j < n then s.locByte (area + n * r + j) else 0) ∧
      ∀ h ∈ w.stops, ∃ c ∈ t.cores, c.crew = some (w.ref, h.rank) ∧ c.stopped = false ∧ c.latch = true ∧ c.wait = h.wait.resumed ∧
        c.parked = h.parked ∧ c.grant = h.grant ∧ (∀ p, h.parked = some p → c.split.lane = Fin.ofNat 16 p.lane) ∧
        c.moved = h.moved ||| (if y.die ≠ w.die then 3 else if y.cells.map (fun q => s.physCell y.die q.1) ≠ w.phys then 1 else 0) ∧
        let saved (o : Nat) : Word := s.readWord (w.save + 0x40000 + 0x7000 * h.rank + o)
        c.pc = saved 0xF8 ∧ (∀ i : Fin 32, i ≠ 0 → c.g.get i = saved (8 * (i.val - 1))) ∧
        (∀ i j, i < 64 → j < 16 → getBits (c.vreg i) (64 * j) 64 = (saved (0x100 + 128 * i + 8 * j)).toNat) ∧
        (∀ i j, 1 ≤ i → i < 48 → j < 8 → getBits (c.mreg i) (64 * j) 64 = (saved (0x2100 + 64 * (i - 1) + 8 * j)).toNat) ∧
        ∀ i j, i < 8 → j < 128 → getBits (c.yreg i) (64 * j) 64 = (saved (0x2CC0 + 1024 * i + 8 * j)).toNat

/-- Queues, records and members (R207, R265, R387 to R396): a queue enabled or disabled; a good record of a host taken; a candidate
placed, which then completes its placing, unless it has passed its ceiling or stands on a retired cell meanwhile (R403, R412); a member
whose crew is done arrives and is counted. Where the rules leave room it follows the model's choices of logs 10 and 24, and of log 13 for
what the harts of a placed member see when they fetch. -/
def Obligations.AdmissionResult : Prop :=
  (∀ (s : State) (q : Nat) (d0 d1 : Word),
    (d0.getLsbD 63 = true → (quadAt q s.queues).d0.getLsbD 63 = false → ∃ t, exec (.queueEnable q d0 d1) s = .next t ∧
      t = { s with queues := t.queues } ∧ ∀ j, quadAt j t.queues = if j = q then Rules.queueFields d0 d1 else quadAt j s.queues) ∧
    ∃ t, exec (.queueDisable q) s = .next t ∧ t = { s with queues := t.queues } ∧ ∀ j, quadAt j t.queues =
      if j = q then { quadAt q s.queues with d0 := (quadAt q s.queues).d0 &&& 0x7FFFFFFFFFFFFFFF } else quadAt j s.queues) ∧
  (∀ (s : State) (q : Nat), q < 64 → s.boot.stage = 9 → (quadAt q s.queues).d0.getLsbD 63 = true →
    let cb := s.controlBlock q
    let head := s.readWord (cb + 0x10)
    let slots := 2 ^ bits (quadAt q s.queues).d0 51 48
    let rec_ := (List.range 16).map fun j => s.readWord (cb + 0x80 + 128 * (head.toNat % slots) + 8 * j)
    cb + 0x80 + 128 * slots ≤ 2 ^ 42 → (s.readWord (cb + 0x20)).getLsbD 63 = false → s.batches = [] → s.binds = [] →
    s.heldAt cb = false → s.heldAt (cb + 0x80 + 128 * (head.toNat % slots)) = false → s.sealedAt (cb + 0x20) = false →
    0 < (s.readWord cb - head).toNat →
    (slots < (s.readWord cb - head).toNat → ∃ t, exec (.slotRead q) s = .next t ∧
      (t.readWord (cb + 0x20)).getLsbD 63 = true ∧ t.batches = []) ∧
    ((s.readWord cb - head).toNat ≤ slots → badRecord rec_ true = false → recTrain rec_ = false → 1 ≤ recCount rec_ →
      ∃ t b, exec (.slotRead q) s = .next t ∧ t.batches = [b] ∧ b.queue = q ∧ b.seq = head.toNat ∧ b.dw = rec_ ∧ b.next = 0 ∧
        b.deps = [] ∧ b.ok = 0 ∧ b.killed = 0 ∧ b.finished = false ∧ b.readyAt = s.time ∧ t.cores = s.cores)) ∧
  (∀ (s : State) (id : MemberId) (ps : List CrewPlace), s.boot.overheated = false → (∀ q, q < 64 → s.checkOverflow q = s) →
    s.members = [] → s.nextCandidate [] = some id → s.placement id = some ps →
    let t0 := (s.place id ps).advance id.queue
    t0.nextCandidate [] = none →
    ∃ t m, exec .admissionDecision s = .next t ∧ t.member? id = some m ∧ m.state = .placing ∧ m.crews.length = ps.length ∧
      (∀ k ∈ m.crews, k.resident = true ∧ k.placedAt = s.time) ∧
      ∀ (i : Nat) (y : CrewPlace), ps[i]? = some y → ∃ k : Crew, m.crews[i]? = some k ∧ k.ref = ⟨id, i⟩ ∧ k.die = y.die ∧
        k.cells = y.cells.map (fun q => (q.1, q.2.1))) ∧
  (∀ (s : State) (x : Member) (k : Crew), s.member? x.id = some x → x.state = .placing → x.crews = [k] → k.ref.mem = x.id →
    s.crewClaims k.ref = [] → recImage (s.recordOf x.id) = 0 → (∀ c ∈ s.cores, (s.die c.id.die).nonHome = []) →
    x.energyHeld = false → (∀ y ∈ k.cells, (s.die k.die).retire.getLsbD y.1 = false) →
    (∀ y ∈ k.cells, y.2 + recBlocks (s.recordOf x.id) ≤ 8) →
    ∃ t z, exec (.placingComplete x.id) s = .next t ∧ t.member? x.id = some z ∧ z.state = .resident ∧
      (∀ id, t.core? id = (s.core? id).map fun c =>
        let c' := if c.crewRef? = some k.ref then { c with stopped := false } else c
        if c.crewRef?.map CrewRef.mem = some x.id then { c' with code := t.codeView } else c') ∧
      ∀ y ∈ k.cells, ∀ j, j < recBlocks (s.recordOf x.id) * 2 ^ 16 → t.locByte (holdLoc k.die y.1 (y.2 * 2 ^ 16 + j)) = 0) ∧
  ∀ (s : State) (x : Member) (b : Batch) (k : Crew), s.member? x.id = some x → s.batches = [b] → b.queue = x.id.queue → b.seq = x.id.seq →
    x.state = .resident → x.crews = [k] → k.ref.mem = x.id → s.crewDone k = true → (s.die k.die).nonHome = [] → b.deps = [] →
    s.heldAt (s.controlBlock x.id.queue) = false →
    b.ok + b.killed + 1 < recCount b.dw → b.finished = false →
    ∃ t z c, exec (.memberComplete x.id) s = .next t ∧ t.member? x.id = some z ∧ z.state = .done ∧ z.crews = [] ∧
      Rules.arrived s t b.doneObj 1 ∧ t.batches = [c] ∧ c.ok = b.ok + 1 ∧ c.killed = b.killed ∧ c.finished = false

namespace Sys2Proof.Rules

open Sys2Proof.Machine

/-- Nothing but die `d` has changed, which is now `x`. -/
def oneDie (s t : State) (d : Nat) (x : Die) : Prop :=
  t = { s with dies := t.dies } ∧ t.die d = x ∧ ∀ e, e ≠ d → t.die e = s.die e

/-- The registers that a doubleword store to die-control space writes whole, with the bits they keep (R363, R399). -/
def controlFields : List (Nat × Word) :=
  [(0x00, 0x0000FFFFFFFF8000), (0x08, 0x0000FFFFFFFFC000), (0x20, 0x000FFFFFFFFF0000), (0xA0010, 0xFFFFFFFF), (0xA0018, 0xFFFF),
    (0xA0020, 0xFFFFFFFFFFFFFFFF), (0xA0028, 7), (0xA0030, 0xFF), (0xA0048, 0xFFFFFFFFFFFFFFFF)]

/-- A replica set with doubleword `j` written (R375). -/
def setField (x : ReplicaSet) (j : Nat) (w : Word) : ReplicaSet :=
  if j = 0 then { x with d0 := w } else if j = 1 then { x with d1 := w } else if j = 2 then { x with d2 := w } else { x with d3 := w }

end Sys2Proof.Rules

/-- Translation and the steward's registers (R362 to R371, R376, R377, R382): a walk fills the TLBs; a shoot-down starts and ends;
resident entries, die-control registers and the consumed count are written, the replica sets of the I/O dies with those of every die by
the broadcast alias alone (R375); a side-log entry is performed; a parked hart is resumed,
forwarded, written and ended. Where the rules leave room it follows the model's choices of log 22. -/
def Obligations.StewardEventResult : Prop :=
  (∀ (s : State) (d p : Nat) (va w : Word) (huge : Bool), tlbFind va (s.cell (cellKey d p)).tlb = none → tlbFind va (s.die d).tlb = none →
    (s.die d).residents va = [] → (∀ e a, s.homeWait e a = none) → Rules.walksTo s d va huge w →
    let e : TlbEntry := ⟨huge, Rules.fld va 51 (if huge then 28 else 16), w⟩
    ∃ t, exec (.pageWalk d p va) s = .next t ∧ e ∈ (t.cell (cellKey d p)).tlb ∧ e ∈ (t.die d).tlb ∧ s.SameMemory t ∧ t.cores = s.cores) ∧
  (∀ (s : State) (d : Nat), (s.die d).tlbBusy = false → ∀ v : Word, ∃ t, exec (.tlbcmdWrite d v) s = .next t ∧
    Rules.oneDie s t d { s.die d with tlbBusy := true, tlbFrom := (s.die d).tlbva, tlbCount := v.toNat % 2 ^ 32 }) ∧
  (∀ (s : State) (d : Nat) (c : Core), (s.die d).tlbBusy = true → s.core? (.steward d) = some c →
    (∀ k ∈ s.cores, ∀ e ∈ k.strip.buf, e.leaf = none) → s.outbound = [] →
    let lo := (s.die d).tlbFrom.toNat
    let n := (s.die d).tlbCount
    let hits (e : TlbEntry) : Prop :=
      let size := if e.huge then 2 ^ 28 else 2 ^ 16
      n = 0 ∨ (lo < (e.vpn + 1) * size ∧ e.vpn * size < lo + n * 2 ^ 16)
    ∃ t, exec (.shootdownDone d) s = .next t ∧ (t.die d).tlbBusy = false ∧ t.core? (.steward d) = some { c with latch := true } ∧
      (∀ k e, e ∈ (t.cell k).tlb ↔ e ∈ (s.cell k).tlb ∧ ¬ hits e) ∧ (∀ k e, e ∈ (t.die k).tlb ↔ e ∈ (s.die k).tlb ∧ ¬ hits e) ∧
      s.SameMemory t) ∧
  (∀ (s : State) (d i : Nat) (v : Word), (∀ k ∈ s.cores, ∀ e ∈ k.strip.buf, e.leaf = none) → s.outbound = [] → i < 2 ^ 14 →
    ∀ bcast high, ∃ t, exec (.rtEntryWrite d bcast i high v) s = .next t ∧
      (bcast = false → t = { s with dies := t.dies }) ∧
      (bcast = true → ∀ c, s.core? (.steward d) = some c → t.core? (.steward d) = some { c with latch := true }) ∧
      ∀ e, if (if bcast then e < 128 else e = d) then t.die e = { s.die e with rt := (t.die e).rt } ∧
          ∀ j, tblGet (0, 0) j (t.die e).rt =
            let old := tblGet (0, 0) j (s.die e).rt
            if j ≠ i then old else if high then (old.1, v &&& ~~~0x2000) else (v &&& 0x000FFFFFF0000000, old.2)
        else t.die e = s.die e) ∧
  (∀ (s u : State) (d p : Nat) (e : LogEntry) (q : Place), s.Canonical → p < 64 → (s.cell (cellKey d p)).log = [e] → e.atomic = none →
    e.va.toNat < 2 ^ 52 → q.loc + e.data.length ≤ 2 ^ 42 →
    (∀ k, k ≠ cellKey d p → (s.cell k).log = []) → (∀ m ∈ s.members, ∀ k ∈ m.crews, k.log = []) →
    s.replayPlace e = some (u, .ok q) → u.accessWait e.core.die q (!u.hartThere e) = none → q.strong = true →
    isRemote q.loc = false → q.replicated = false →
    ∃ t, exec (.slreplayWrite d e.va) s = .next t ∧ (t.cell (cellKey d p)).log = [] ∧
      ∀ j x, e.data[j]? = some x → t.locByte (q.loc + j) = (u.dropNonHome e.core.die (q.loc / 64)).locByte (q.loc + j) &&& ~~~x.2 ||| (x.1 &&& x.2)) ∧
  (∀ (s : State) (d : Nat) (w c : Core) (p : Parked), s.core? (.steward d) = some w →
    c.id = .hart d (w.st.hsel.toNat / 4) (w.st.hsel.toNat % 4) → s.core? c.id = some c → c.parked = some p →
    (s.recordWaits c = false → ∃ t, exec (.hctlResume d) s = .next t ∧ Rules.oneCore s t c.id fun k =>
      k = { c with parked := none, latch := true }.setPc p.rpc) ∧
    (c.cause.active = false → c.tvec &&& ~~~3 ≠ 0 → s.recordWaits c = false →
      ∃ t, exec (.hctlForward d) s = .next t ∧ Rules.oneCore s t c.id fun k => k.parked = none ∧ k.latch = true ∧ k.cause.active = true ∧ k.cause.code = p.info.cause.code ∧ k.epc = p.tpc ∧ k.eaddr = p.info.addr ∧
      k.curPc = c.tvec &&& ~~~3 ∧ k.g = c.g ∧ c.SameVector k) ∧
    (∀ r x, c.crewRef? = some r → s.member? r.mem = some x → x.id = r.mem → x.state ≠ .done → x.state ≠ .killed →
      (∃ k ∈ x.crews, k.ref = r) →
      ∃ t y, exec (.hctlEndCrew d) s = .next t ∧ t.member? r.mem = some y ∧ y.state = .killed ∧ y.kcause = p.info.cause.code.toNat ∧
        ∀ k ∈ t.cores, k.crewRef? ≠ some r) ∧
    (∀ v, (∀ off, off < 0x7000 → off ≠ 0xF8 → ∃ t, exec (.hartContextWrite d off v) s = .next t ∧
        Rules.oneCore s t c.id fun k => k = c.setCtx off v) ∧
      (∀ i : Fin 32, i ≠ 0 → ∃ t, exec (.hartContextWrite d (8 * (i.val - 1)) v) s = .next t ∧ Rules.oneCore s t c.id fun k =>
        k = { c with g := c.g.set i v }) ∧
      (∃ t, exec (.hartContextWrite d 0xF8 v) s = .next t ∧ Rules.oneCore s t c.id fun k =>
        k = { c with parked := some { p with rpc := v } }.setPc v) ∧
      ∀ i j, i < 64 → j < 16 → ∃ t, exec (.hartContextWrite d (0x100 + 128 * i + 8 * j) v) s = .next t ∧
        Rules.oneCore s t c.id fun k => k.g = c.g ∧ ∀ n, n < 64 → ∀ q, q < 16 →
          getBits (k.vreg n) (64 * q) 64 = if n = i ∧ q = j then v.toNat else getBits (c.vreg n) (64 * q) 64)) ∧
  (∀ (s : State) (d : Nat) (v : Word),
    ((s.die d).faultWait = [] → ∃ t, exec (.fqtailWrite d v) s = .next t ∧
      Rules.oneDie s t d { s.die d with fqtail := BitVec.ofNat 32 v.toNat }) ∧
    ∀ r, (s.die d).faultWait = [r] → r.length = 8 → s.Canonical → s.homeWait d (Rules.ringSlot s d) = none →
      s.sealedAt (Rules.ringSlot s d) = false → ((s.die d).fqhead - BitVec.ofNat 32 v.toNat).toNat < 256 →
      ∃ t, exec (.fqtailWrite d v) s = .next t ∧ (t.die d).fqtail = BitVec.ofNat 32 v.toNat ∧ (t.die d).faultWait = [] ∧
        (t.die d).fqhead = (s.die d).fqhead + 1 ∧ ∀ j, j < 8 → some (t.readWord (Rules.ringSlot s d + 8 * j)) = r[j]?) ∧
  (∀ (s : State) (d : Nat) (off : Nat) (m v : Word), (off, m) ∈ Rules.controlFields ∨
      (0x70000 ≤ off ∧ off < 0x72000 ∧ off % 8 = 0 ∧ m = 0x8000000000003FFF) →
    (∃ t, exec (.regWrite d false off v) s = .next t ∧ t = { s with dies := t.dies } ∧ t.controlRead d off = v &&& m ∧
      ∀ e, e ≠ d → t.die e = s.die e) ∧
    ∃ t, exec (.regWrite d true off v) s = .next t ∧ s.SameMemory t ∧ (∀ e, e < 128 → t.controlRead e off = v &&& m) ∧
      ∀ k, tblGet ⟨0, 0, 0, 0⟩ k t.ioSets =
        let x := tblGet ⟨0, 0, 0, 0⟩ k s.ioSets
        if 0x70000 ≤ off ∧ off < 0x72000 ∧ k = (off - 0x70000) / 32 then Rules.setField x (off % 32 / 8) (v &&& m) else x) ∧
  ∀ (s : State) (d : Nat) (v : Word),
    (∀ bcast, exec (.regWrite d bcast 0x28 v) s = exec (.tlbcmdWrite d v) s ∧ exec (.regWrite d bcast 0x40 v) s = exec (.slreplayWrite d v) s ∧
      ∀ i high, i < 2 ^ 14 →
        exec (.regWrite d bcast (0x10000 + 16 * i + if high then 8 else 0) v) s = exec (.rtEntryWrite d bcast i high v) s) ∧
    exec (.regWrite d false 0x18 v) s = exec (.fqtailWrite d v) s ∧
    (v.toNat % 4 = 1 → exec (.regWrite d false 0x38 v) s = exec (.hctlResume d) s) ∧
    (v.toNat % 4 = 2 → exec (.regWrite d false 0x38 v) s = exec (.hctlForward d) s) ∧
    (v.toNat % 4 = 3 → exec (.regWrite d false 0x38 v) s = exec (.hctlEndCrew d) s) ∧
    (∀ k, k < 0xE00 → exec (.regWrite d false (0x80000 + 8 * k) v) s = exec (.hartContextWrite d (8 * k) v) s) ∧
    (∀ j, j < 2 ^ 11 → (s.stack (j / 16)).lock = none → (s.stack (j / 16)).retrain = [] →
      ∃ t, exec (.regWrite d false (0x50000 + 8 * j) v) s = .next t ∧
      ∀ i, i < 8 → t.frameResident d (8 * j + i) = v.getLsbD (8 * i)) ∧
    (∀ k, k < 256 → exec (.regWrite d false (0x60000 + 8 * k) v) s = .next s) ∧
    (∃ t, exec (.regWrite d false 0xA0040 v) s = .next t ∧ t = { s with dies := t.dies } ∧
      t.controlRead d 0xA0040 = s.controlRead d 0xA0040 &&& ~~~v) ∧
    ∀ i j, i < 256 → j < 4 → exec (.regWrite d false (0x100000 + 32 * i + 8 * j) v) s = .next s ∧
      ((∀ y ∈ s.qps, ∀ x ∈ y.2.held, x.head.rkey.toNat % 256 ≠ i) →
        ∃ t, exec (.regWrite d true (0x100000 + 32 * i + 8 * j) v) s = .next t ∧ s.SameMemory t ∧
          (quadAt i t.regions).get j = regionMask j v ∧ ∀ k, k ≠ i → quadAt k t.regions = quadAt k s.regions) ∧
      ((∃ y ∈ s.qps, ∃ x ∈ y.2.held, x.head.rkey.toNat % 256 = i) → (quadAt i s.regions).d0.getLsbD 63 = true →
        v.getLsbD 63 = false → exec (.regWrite d true (0x100000 + 32 * i) v) s = .next s)

namespace Sys2Proof.Rules

open Sys2Proof.Machine

/-- A die's own register has changed and nothing else. -/
def setsDie (o : Host.Outcome State Fault Refusal) (s : State) (d : Nat) (x : Die) : Prop := ∃ t, o = .next t ∧ oneDie s t d x

/-- Energy charged to one crew: its account, and cr.energy in µJ of its harts (R126, R402). -/
def charged (s t : State) (k : Crew) (n : Nat) : Prop :=
  t.crew? k.ref = some { k with energy := k.energy + n } ∧
    ∀ c, c.crewRef? = some k.ref → s.core? c.id = some c → ∃ x, t.core? c.id = some { c with
      energy := BitVec.ofNat 64 ((k.energy + n) / 1000), share := x }

/-- Temperatures, in 1/16 °C, that raise no alarm (R360, R408). -/
def mild (temps : List Int) : Prop := ∀ x ∈ temps, -800 ≤ x ∧ x < 1920

/-- The hottest of a die's sites, its own and those of the stacks it owns (R399, R406), is at least, or at most, some temperature
in 1/16 °C. -/
def hotter (s : State) (temps : List Int) (d : Nat) (x : Int) : Prop := ∃ y ∈ s.dieSites d, x ≤ temps.getD (16 * y.1 + y.2) 0
def cooler (s : State) (temps : List Int) (d : Nat) (x : Int) : Prop := ∀ y ∈ s.dieSites d, temps.getD (16 * y.1 + y.2) 0 ≤ x

end Sys2Proof.Rules

/-- Machine firmware on the management page (R379, R384, R398, R402, R403): the budget is applied, telemetry written, a ceiling raised
or, if it is not above the account, its member killed with kcause 0x42, and for a member not held only cack set; configuration read,
written and refused; an energy sample is charged, and a crew that passes its ceiling is stopped with ENERGY pending. Where the rules
leave room it follows the model's choices of log 25, and of log 26 and 34 in the premises that the page is neither held nor sealed. -/
def Obligations.FirmwareResult : Prop :=
  ∀ (s : State), s.boot.stage = 9 → s.heldAt mgmtPage = false → s.sealedAt mgmtPage = false →
    let page (t : State) (off : Nat) : Word := t.readWord (mgmtPage + off)
    (∀ b, b = (if (page s 0).toNat % 2 ^ 32 = 0 then 18000 else (page s 0).toNat % 2 ^ 32) → 1200 ≤ b → b ≤ 18000 →
      (page s 8).getLsbD 63 = false ∨ s.idSet = true → (b = s.budget → exec .mgmtPoll s = .next s) ∧ (b ≠ s.budget → ∃ t, exec .mgmtPoll s = .next t ∧ t.budget = b ∧ t.panel = s.panel ∧ ∀ d, d < 128 →
        let y := (75000 + 55000 * ((stacksOf d).filter fun k => decide (s.owner k = d)).length) * (b - 600) / 16640
        t.die d = { s.die d with dbudget := BitVec.ofNat 32 y })) ∧
    (∀ x : BitVec 21, s.idSet = false → s.wantedBudget = s.budget → (page s 8).getLsbD 63 = true → x = BitVec.ofNat 21 (page s 8).toNat →
      ∃ t, exec .mgmtPoll s = .next t ∧ t = { s with panel := x, idSet := true }) ∧
    (∀ w : Telemetry, Rules.mild w.temps → ∃ t, exec (.telemetryWrite w) s = .next t ∧ page t 0x100 = page s 0x100 + 2 ∧
      page t 0x108 = BitVec.ofNat 64 s.time ∧ page t 0x110 = BitVec.ofNat 64 (w.power % 2 ^ 32) ∧
      page t 0x118 = BitVec.ofNat 64 (((List.range 128).map fun d => (s.die d).denergy / 1000).sum + 600 * s.time / 1000) ∧ page t 0x128 = BitVec.ofNat 64 s.ceTotal ∧
      page t 0x130 = BitVec.ofNat 64 s.ueTotal ∧ (∀ d, d < 128 → page t (0x140 + 32 * d) = (s.die d).dpower.setWidth 64 ∧
        page t (0x140 + 32 * d + 16) = BitVec.ofNat 64 ((s.die d).denergy / 1000) ∧ page t (0x140 + 32 * d + 24) = (s.die d).stretch) ∧
      ∀ l, l < mgmtPage + 0x100 ∨ mgmtPage + 0x1140 ≤ l → t.locByte l = s.locByte l) ∧
    (page s 0x28 ≠ page s 0x20 →
      (∀ m : Member, s.members = [m] → m.energyHeld = true → memberWord m.id = page s 0x10 →
        let account := (m.crews.map Crew.energy).foldr (· + ·) 0 / 1000
        (account < (page s 0x18).toNat → ∃ t, exec .ceilingCommand s = .next t ∧ page t 0x28 = page s 0x20 ∧
          t.members = [{ m with energyHeld := false, ceiling := page s 0x18 }] ∧ t.cores = s.cores) ∧
        ((page s 0x18).toNat ≤ account → m.state ≠ .done → m.state ≠ .killed →
          ∃ t y, exec .ceilingCommand s = .next t ∧ page t 0x28 = page s 0x20 ∧ t.member? m.id = some y ∧ y.state = .killed ∧
            y.kcause = 0x42 ∧ y.crews = [] ∧ ∀ c ∈ t.cores, ∀ k ∈ m.crews, c.crewRef? ≠ some k.ref)) ∧
      ((∀ m ∈ s.members, m.energyHeld = true → memberWord m.id ≠ page s 0x10) →
        ∃ t, exec .ceilingCommand s = .next t ∧ page t 0x28 = page s 0x20 ∧ t = { s with homeCache := t.homeCache } ∧
          ∀ l, l < mgmtPage + 0x28 ∨ mgmtPage + 0x30 ≤ l → t.locByte l = s.locByte l)) ∧
    (page s 0x28 = page s 0x20 → exec .ceilingCommand s = .next s) ∧
    (page s 0x70 = page s 0x68 → exec .configRequest s = .next s) ∧
    (∀ d, d < 128 → page s 0x70 ≠ page s 0x68 →
      ((page s 0x40).toNat = 2 ^ 31 + d * 2 ^ 24 + 0x48 → ∃ t, exec .configRequest s = .next t ∧ page t 0x48 = (s.die d).spbase ∧
        page t 0x70 = page s 0x68 ∧ t.locByte (mgmtPage + 0x78) = 0 ∧ t.cores = s.cores) ∧
      ((page s 0x40).toNat = d * 2 ^ 24 + 0x48 → (page s 0x48).toNat % 2 ^ 16 = 0 → (page s 0x48).toNat < 2 ^ 48 →
        (∀ y ∈ s.saves, y.1 < (s.die d).spbase.toNat) →
        ∃ t, exec .configRequest s = .next t ∧ (t.die d).spbase = page s 0x48 ∧ page t 0x70 = page s 0x68 ∧
          t.locByte (mgmtPage + 0x78) = 0 ∧ ∀ e, e ≠ d → t.die e = s.die e) ∧
      ((page s 0x40).toNat = d * 2 ^ 24 + 0x48 → (page s 0x48).toNat % 2 ^ 16 ≠ 0 ∨ 2 ^ 48 ≤ (page s 0x48).toNat →
        ∃ t, exec .configRequest s = .next t ∧ page t 0x70 = page s 0x68 ∧ t.locByte (mgmtPage + 0x78) = 2 ∧ t.dies = s.dies) ∧
      (∀ i, i < 256 → (page s 0x40).toNat = 2 ^ 31 + d * 2 ^ 24 + 0x100000 + 32 * i → ∃ t, exec .configRequest s = .next t ∧
        page t 0x70 = page s 0x68 ∧ t.locByte (mgmtPage + 0x78) = 0 ∧ t.regions = s.regions ∧
        ∀ j, j < 4 → page t (0x48 + 8 * j) = (quadAt i s.regions).get j) ∧
      (∀ i, i < 256 → (page s 0x40).toNat = d * 2 ^ 24 + 0x100000 + 32 * i →
        (∀ j, j < 4 → regionMask j (page s (0x48 + 8 * j)) = page s (0x48 + 8 * j)) → (page s 0x48).getLsbD 63 = false →
        (∀ y ∈ s.qps, ∀ x ∈ y.2.held, x.head.rkey.toNat % 256 ≠ i) → ∃ t, exec .configRequest s = .next t ∧
          page t 0x70 = page s 0x68 ∧ t.locByte (mgmtPage + 0x78) = 0 ∧ t.dies = s.dies ∧
          (∀ j, j < 4 → (quadAt i t.regions).get j = page s (0x48 + 8 * j)) ∧ ∀ k, k ≠ i → quadAt k t.regions = quadAt k s.regions) ∧
      ((page s 0x40).toNat = d * 2 ^ 24 → ∃ t, exec .configRequest s = .next t ∧ page t 0x70 = page s 0x68 ∧
        t.locByte (mgmtPage + 0x78) = 1 ∧ t.dies = s.dies)) ∧
    (∀ (d : Nat) (e : EnergySample), ∃ t, exec (.energyCharge d e) s = .next t ∧ (t.die d).dpower = BitVec.ofNat 32 e.power ∧
      (t.die d).denergy = (s.die d).denergy + (e.cells.map Prod.snd).sum + e.rest + e.idle +
        ((e.stackTbl.filter fun y => decide (s.owner y.1 = d)).map Prod.snd).sum) ∧
    ∀ (d : Nat) (e : EnergySample) (m : Member) (k : Crew), e.cells = [] → e.stackTbl = [] → s.members = [m] → m.crews = [k] →
      k.ref.mem = m.id → k.resident = true → k.die = d → k.cells ≠ [] →
      (m.ceiling = 0 → ∃ t, exec (.energyCharge d e) s = .next t ∧ Rules.charged s t k e.rest ∧
        t.die d = { s.die d with dpower := BitVec.ofNat 32 e.power, denergy := (s.die d).denergy + e.rest + e.idle }) ∧
      (m.ceiling ≠ 0 → m.ceiling.toNat < (k.energy + e.rest) / 1000 → m.energyHeld = false → m.state = .resident →
        ∃ t y, exec (.energyCharge d e) s = .next t ∧ t.members = [y] ∧ y.energyHeld = true ∧ y.state = .stopping ∧
          ∀ c, s.core? c.id = some c → c.crew = some (k.ref, 0) → ∃ x, t.core? c.id = some x ∧ x.pending.energy = true ∧
            x.stopAsked = true ∧ x.latch = true)

/-- Energy, heat and clocks of a die (R404 to R408): its drain halves and doubles, its budget steps, the hard limit and its end,
heaters, gated lane groups, stretched cycles and the guard voltage; a hot crew with a cooler candidate is stopped for its move. Where
the rules leave room it follows the model's choices of log 25. -/
def Obligations.ThermalEventResult : Prop :=
  ∀ (s : State) (d : Nat), let x := s.die d
    (x.dbudget < x.dpower → Rules.setsDie (exec (.drainHalve d) s) s d { x with drain := BitVec.ofNat 32 (x.drain.toNat / 2) }) ∧
    (10 * x.dpower.toNat ≤ 9 * x.dbudget.toNat → 1 ≤ x.drain.toNat → x.drain.toNat ≤ 65536 → x.coolDrain = none →
      Rules.setsDie (exec (.drainDouble d) s) s d { x with drain := BitVec.ofNat 32 (min 65536 (2 * x.drain.toNat)) }) ∧
    (∀ (temps : List Int), temps.length = 256 → Rules.mild temps → let w := { s with temps := temps }
      (let full := (75000 + 55000 * ((stacksOf d).filter fun k => decide (s.owner k = d)).length) * (s.budget - 600) / 16640
      let b := x.dbudget.toNat
      (Rules.hotter s temps d (16 * x.thot.toNat) → s.members = [] → 3 * full / 10 ≤ b →
        Rules.setsDie (exec (.thermalBudgetStep d temps) s) w d { x with dbudget := BitVec.ofNat 32 (max (3 * full / 10) (b - full / 10)) }) ∧
      (Rules.cooler s temps d (16 * x.thot.toNat - 80) → b < full →
        Rules.setsDie (exec (.thermalBudgetStep d temps) s) w d { x with dbudget := BitVec.ofNat 32 (min full (b + full / 10)) })) ∧
      (Rules.hotter s temps d 1680 → x.coolDrain = none → Rules.setsDie (exec (.hardThermalLimit d temps) s) w d
        { x with coolDrain := some (x.drain, x.vfsel), vfsel := 0, drain := BitVec.ofNat 32 (x.drain.toNat / 8) }) ∧
      (∀ dr vf, (∀ t ∈ temps, t < 1600) → x.coolDrain = some (dr, vf) → Rules.setsDie (exec (.thermalRecover d temps) s) w d
        { x with coolDrain := none, vfsel := vf, drain := dr }) ∧
      (s.boot.stage = 9 → d < 128 → temps.getD (16 * (dieSite d).1 + (dieSite d).2) 0 < -80 → ∃ t, exec (.coldHeater temps) s = .next t ∧
        (t.die d).heater = true ∧ t = { w with dies := t.dies, boot := { s.boot with heaterUsed := true } }) ∧
      (s.boot.stage = 9 → (∀ t ∈ temps, 0 ≤ t) → ∃ t, exec (.coldHeaterStop temps) s = .next t ∧ (∀ e, (t.die e).heater = false) ∧
        t = { w with dies := t.dies }) ∧
      (let g := s.part.guard
      let word (i : Nat) : Nat := (g.getD i 0).toNat + 256 * (g.getD (i + 1) 0).toNat
      ∀ y : Int, Rules.hotter s temps d y → Rules.cooler s temps d y →
        let v := if y < 0 then word (4 * d) * (-y).toNat / 16 else if 1360 < y then word (4 * d + 2) * (y - 1360).toNat / 16 else 0
        Rules.setsDie (exec (.voltageGuardUpdate d temps) s) w d { x with guard := v }) ∧
      ∀ (m : Member) (k : Crew) (e : Nat), s.members = [m] → m.crews = [k] → k.ref.mem = m.id → s.movable temps m k = some e →
        ∃ t y, exec (.heatMoveCheck temps) s = .next t ∧ t.members = [y] ∧ y.state = .stopping ∧ y.moves = m.moves ++ [(k.ref.rank, e)] ∧
          ∀ id, t.core? id = (s.core? id).map fun c => if c.crewRef? = some k.ref then { c with stopAsked := true, latch := true } else c) ∧
    (∀ n, Rules.setsDie (exec (.supplyDroop d n) s) s d { x with stretch := x.stretch + BitVec.ofNat 64 n }) ∧
    ∀ p g, (g < 4 → ∃ t, exec (.laneGroupGate d p g) s = .next t ∧ t = { s with cells := t.cells } ∧
        (∀ i, i ∈ (t.cell (cellKey d p)).gated ↔ i = g ∨ i ∈ (s.cell (cellKey d p)).gated) ∧ ∀ k, k ≠ cellKey d p → t.cell k = s.cell k) ∧
      ∃ t, exec (.laneGroupWake d p g) s = .next t ∧ t = { s with cells := t.cells } ∧
        (∀ i, i ∈ (t.cell (cellKey d p)).gated ↔ i ≠ g ∧ i ∈ (s.cell (cellKey d p)).gated) ∧ ∀ k, k ≠ cellKey d p → t.cell k = s.cell k

/-- Retraining, scrubbing and errors (R410 to R413): banks under retraining, failed modules, corrected and uncorrectable errors, lost
flits, and a dead die, whose stacks go to their other candidates, which hold no non-home copies of them then (R271), and whose members
are killed. Where the rules leave room it follows the model's choices of log 26. -/
def Obligations.ErrorEventResult : Prop :=
  (∀ (s : State) (k g : Nat), g < 64 →
    let now := s.temps.getD (16 * (stackSite k).1 + (stackSite k).2) 0
    let was := s.groupTrained k g
    ((s.stack k).retrain = [] → 160 ≤ now - was ∨ 160 ≤ was - now → ∃ t, exec (.dramRetrain k g true) s = .next t ∧
      t = { s with stackTbl := t.stackTbl } ∧ t.stack k = { s.stack k with retrain := [g] } ∧ ∀ j, j ≠ k → t.stack j = s.stack j) ∧
    ((s.stack k).retrain = [g] → ∃ t, exec (.dramRetrain k g false) s = .next t ∧ t = { s with stackTbl := t.stackTbl } ∧
      t.stack k = { s.stack k with retrain := [], trained := (t.stack k).trained } ∧ t.groupTrained k g = now ∧
      ∀ j, j ≠ k → t.stack j = s.stack j)) ∧
  (∀ (s : State) (d e m : Nat) (rate : Bool), e < 4 → m < 8 → (s.die d).modules.count (e, m) < 4 →
    let now := s.temps.getD (16 * (dieSite d).1 + (dieSite d).2) 0
    let was := s.moduleTrained d e m
    rate = true ∨ 160 ≤ now - was ∨ 160 ≤ was - now →
      Rules.setsDie (exec (.linkRetrain d e m ⟨rate, false⟩) s) s d { s.die d with modules := (e, m) :: (s.die d).modules } ∧
      ∃ t, exec (.linkRetrain d e m ⟨rate, true⟩) s = .next t ∧ Rules.oneDie s t d { s.die d with trained := (t.die d).trained } ∧
        t.moduleTrained d e m = now) ∧
  (∀ s : State, exec .dramScrub s = .next s ∧ exec .sramScrub s = .next s) ∧
  (∀ (s : State) (e : EccError), let x := s.die e.die
    let up (n : BitVec 16) : BitVec 16 := BitVec.ofNat 16 (min 65535 (n.toNat + 1))
    (e.corrected = true → ∃ t, exec (.eccError e) s = .next t ∧ t.ceTotal = s.ceTotal + 1 ∧ t.cores = s.cores ∧
      t.die e.die = (if e.dram then { x with dce := up x.dce } else { x with cce := up x.cce })) ∧
    (e.corrected = false → ∃ t, exec (.eccError e) s = .next t ∧ t.ueTotal = s.ueTotal + 1 ∧ (t.die e.die).ue = up x.ue) ∧
    ∀ (c : Core), e.corrected = false → e.cell = none → e.consumer = some c.id → s.core? c.id = some c → ∃ t,
      exec (.eccError e) s = .next t ∧ t.ueTotal = s.ueTotal + 1 ∧ t.die e.die = { x with ue := up x.ue } ∧
        t.core? c.id = some { c with pending := { c.pending with ecc := some (c.pending.ecc.getD e.addr) } }) ∧
  (∀ (s : State) (d : Nat), let x := s.die d
    Rules.setsDie (exec (.linkFlitError d none) s) s d (if x.retries = 65535 then
      { x with retries := 0, lrt := BitVec.ofNat 16 (min 65535 (x.lrt.toNat + 1)) } else { x with retries := x.retries + 1 }) ∧
    ∀ (c : Core) (a : Word), s.core? c.id = some c → ∃ t, exec (.linkFlitError d (some (c.id, a))) s = .next t ∧
      Rules.oneCore s t c.id fun k => k = { c with pending := { c.pending with link := some (c.pending.link.getD a) } }) ∧
  ∀ (s : State) (d : Nat), d < 128 → (s.die d).dead = false → ∃ t, exec (.dieDead d) s = .next t ∧ (t.die d).dead = true ∧
    (t.die d).nonHome = [] ∧ t.core? (.steward d) = none ∧
    (∀ e, e ≠ d → t.die e = { s.die e with nonHome := (s.die e).nonHome.filter fun x =>
      let k := stackOf (64 * x.line)
      !(decide (s.owner k = d) && decide (otherCandidate d k = e)) }) ∧
    (∀ k, k < 128 → s.owner k = d → t.owner k = otherCandidate d k ∧ (t.stack k).lock = none ∧
      (t.stack k).orphan = (s.die (otherCandidate d k)).dead) ∧
    (∀ m, s.member? m.id = some m → (∃ k ∈ m.crews, k.resident = true ∧ k.die = d) → m.state ≠ .done → m.state ≠ .killed →
      ∃ y, t.member? m.id = some y ∧ y.state = .killed ∧ y.kcause = 0x41 ∧ y.crews = []) ∧
    ∀ c ∈ s.cores, c.id ≠ .steward d →
      (∀ k ∈ s.cores, k.id = c.id → ∀ m ∈ s.members, ∀ w ∈ m.crews, k.crewRef? = some w.ref →
        ∀ v ∈ m.crews, v.resident = false ∨ v.die ≠ d) →
      ∃ b ∈ t.cores, b.id = c.id ∧ b.pc = c.pc ∧ b.g = c.g

namespace Sys2Proof.Rules

open Sys2Proof.Machine

/-- An incoming request passes the checks of R385: its queue pair is connected, its region is valid with its tag and the right of bit
`right`, its `n` bytes lie in the region and in one frame of device memory, of a stack that has not lost both candidates, and its home
takes it now. -/
def granted (s : State) (q : RdmaHead) (right n : Nat) (pa : Nat) : Prop :=
  let r := s.region q
  let vbase := fld r.d1 51 16 * 2 ^ 16
  (∃ x, tblGet? q.qp s.qps = some x ∧ x.cm = .established ∧ x.error = false ∧ x.held = []) ∧ q.spoilt = false ∧
    r.d0.getLsbD 63 = true ∧ fld r.d0 31 8 = q.rkey.toNat / 256 ∧ r.d0.getLsbD right = true ∧ vbase ≤ q.va.toNat ∧
    q.va.toNat + n ≤ vbase + fld r.d3 47 16 * 2 ^ 16 ∧ pa = fld r.d2 47 16 * 2 ^ 16 + (q.va.toNat - vbase) ∧
    1 ≤ n ∧ pa % 2 ^ 28 + n ≤ 2 ^ 28 ∧ pa + n ≤ 2 ^ 42 ∧ (s.stack (stackOf pa)).orphan = false ∧ ∀ i, i < n → s.heldAt (pa + i) = false ∧
      ∀ f ∈ s.ioFrames (frameOf (pa + i)), s.heldAt (inFrame f (pa + i)) = false

/-- The frame of a device address and its replicas are not sealed at its home (R285, R373). -/
def unsealed (s : State) (pa : Nat) : Prop :=
  let d := s.owner (stackOf pa)
  ∀ f ∈ s.ioFrames (frameOf pa), (s.die d).sealt.getLsbD f = false

/-- Bytes written at home from `pa` on, in every replica of their frame (R285, R286), and one answer sent. -/
def putAtHome (s t : State) (pa : Nat) (bs : List Byte) (r : Reply) : Prop :=
  t = { s with homeCache := t.homeCache, tx := s.tx ++ [r] } ∧
    let fs := s.ioFrames (frameOf pa)
    (∀ i, i < bs.length → ∀ f ∈ fs, t.locByte (inFrame f (pa + i)) = bs.getD i 0) ∧
    ∀ l, (∀ i, i < bs.length → ∀ f ∈ fs, l ≠ inFrame f (pa + i)) → t.locByte l = s.locByte l

/-- Queue pair `qp` is now `x`, the answers `rs` have been sent, and no other has changed. -/
def qpSet (s t : State) (qp : Nat) (x : Qp) (rs : List Reply) : Prop :=
  t = { s with qps := t.qps, tx := s.tx ++ rs, ticks := t.ticks } ∧ tblGet? qp t.qps = some x ∧
    ∀ p, p ≠ qp → tblGet? p t.qps = tblGet? p s.qps

/-- A queue pair may begin a connection: the panel is released and the pair is one of 4,096 and idle or rejected. -/
def unconnected (s : State) (qp : Nat) : Prop :=
  s.boot.stage = 9 ∧ qp < 4096 ∧ ((tblGet Qp.reset qp s.qps).cm = .idle ∨ (tblGet Qp.reset qp s.qps).cm = .rejected)

/-- A boot frame that the panel takes before release: its op, its address, and the rules of the header (R351). -/
def heard (s : State) (f : BootFrame) (op : BitVec 8) : Prop :=
  f.op = op ∧ s.boot.powered = true ∧ 2 ≤ s.boot.stage ∧ s.boot.stage ≤ 8 ∧ (f.dst = s.boot.mac ∨ f.dst = 0xFFFFFFFFFFFF) ∧
    f.flags = 0 ∧ f.status = 0 ∧ (f.op = 3 ∨ f.offset = 0) ∧ f.length.toNat ≤ 1024 ∧ f.length.toNat = f.payload.length

/-- The reply to a boot frame: to its source, with its sequence number (R351). -/
def bootReply (s : State) (f : BootFrame) (op : BitVec 8) (status : Nat) (payload : List Byte) : Reply :=
  .boot ⟨s.boot.mac, f.src, op, 0, f.seq, f.offset, BitVec.ofNat 16 payload.length, BitVec.ofNat 16 status, payload⟩

/-- No core, and no bank command in any stack: what is left when firmware that runs ends (R350; log 28). -/
def firmwareEnded (s : State) : State :=
  { s with cores := [], stackTbl := s.stackTbl.map fun y => (y.1, { y.2 with seqr := [], parked := [] }) }

/-- The boot block has changed, and `rs` have been sent. -/
def bootSet (o : Host.Outcome State Fault Refusal) (s : State) (b : Boot) (rs : List Reply) : Prop :=
  o = .next { s with boot := b, tx := s.tx ++ rs }

end Sys2Proof.Rules

/-- The host and fabric ports (R285, R286, R383 to R386): incoming writes, reads and atomics at home, and their refusals; connection
messages, congestion and flow control; answers to the panel's own requests, their retries and their failures. Where the rules leave room it
follows the model's choices of logs 27 and 33. -/
def Obligations.LinkResult : Prop :=
  ∀ s : State,
    (∀ (q : RdmaHead) (data : List Byte) (pa : Nat), Rules.granted s q 61 data.length pa → Rules.unsealed s pa →
      ∃ t, exec (.rdmaWrite q data) s = .next t ∧ Rules.putAtHome s t pa data (.ack q.qp)) ∧
    (∀ (q : RdmaHead) (n pa : Nat), Rules.granted s q 62 n pa →
      exec (.rdmaRead q n) s = .next { s with tx := s.tx ++ [.readData q.qp ((List.range n).map fun i => s.locByte (pa + i))] }) ∧
    (∀ (q : RdmaHead) (pa : Nat) (x y : Word), Rules.granted s q 60 8 pa → q.va.toNat % 8 = 0 → Rules.unsealed s pa →
      let old := BitVec.ofNat 64 (Rules.locNat s pa 8)
      (∃ t, exec (.rdmaCompareSwap q x y) s = .next t ∧
        Rules.putAtHome s t pa (Rules.leBytes 8 (if old = x then y else old).toNat) (.atomicData q.qp old)) ∧
      ∃ t, exec (.rdmaFetchAdd q x) s = .next t ∧ Rules.putAtHome s t pa (Rules.leBytes 8 (old + x).toNat) (.atomicData q.qp old)) ∧
    (∀ (q : RdmaHead) (x : Qp), tblGet? q.qp s.qps = some x → x.cm = .established → x.error = false → x.held = [] →
      exec (.rdmaUnsupportedOp q) s = .next { s with tx := s.tx ++ [.nak q.qp "Invalid Request"] } ∧
      ((s.region q).d0.getLsbD 63 = false ∨ Rules.fld (s.region q).d0 31 8 ≠ q.rkey.toNat / 256 → s.eventRing.d0.getLsbD 63 = false →
        ∀ i, ((∃ n, n ≤ 2 ^ 31 ∧ i = .rdmaRead q n) ∨ (∃ data, data.length ≤ 2 ^ 31 ∧ i = .rdmaWrite q data) ∨ (∃ a b, i = .rdmaCompareSwap q a b) ∨ ∃ a, i = .rdmaFetchAdd q a) →
          exec i s = .next { s with tx := s.tx ++ [.nak q.qp "Remote Access Error"] })) ∧
    (∀ port, port < 36 → exec (.nonRcPacket port) s = .next { s with dropped := s.dropped + 1 }) ∧
    (∀ (qp : Nat) (x : Qp), tblGet? qp s.qps = some x →
      ((∀ u, x.cnpAt = some u → u + 50000 ≤ s.time) → ∃ t, exec (.ecnMarkedPacket qp) s = .next t ∧
        Rules.qpSet s t qp { x with cnpAt := some s.time } [.cnp qp]) ∧
      ((∃ u, x.cnpAt = some u ∧ s.time < u + 50000) → exec (.ecnMarkedPacket qp) s = .next s) ∧
      (0 < x.rate → ∃ t r, exec (.cnpReceived qp) s = .next t ∧ r < x.rate ∧ Rules.qpSet s t qp { x with rate := r } []) ∧
      (x.cm = .reqReceived → (∃ t r m a, exec (.cmRtu qp) s = .next t ∧ m ∈ [1024, 2048, 4096] ∧
          Rules.qpSet s t qp ⟨.established, false, 7, 7, m, a, r, none, []⟩ []) ∧
        exec (.cmMraTimeout qp) s = .next { s with tx := s.tx ++ [.cm qp "MRA"] }) ∧
      (x.cm ≠ .established → ∃ t, exec (.cmRej qp) s = .next t ∧ Rules.qpSet s t qp { Qp.reset with cm := .rejected } [])) ∧
    (∀ qp port, Rules.unconnected s qp → port < 36 →
      (∃ t, exec (.cmReq qp port) s = .next t ∧ Rules.qpSet s t qp { Qp.reset with cm := .reqReceived } [.cm qp "REP"]) ∧
      ∃ t r m a, exec (.cmRep qp port) s = .next t ∧ m ∈ [1024, 2048, 4096] ∧
        Rules.qpSet s t qp ⟨.established, false, 7, 7, m, a, r, none, []⟩ [.cm qp "RTU"]) ∧
    (∀ qp, (∃ t, exec (.cmDreq qp) s = .next t ∧ Rules.qpSet s t qp Qp.reset [.cm qp "DREP"]) ∧
      ∃ t, exec (.cmDrep qp) s = .next t ∧ Rules.qpSet s t qp Qp.reset []) ∧
    (∀ port prio, port < 36 → prio < 8 →
      ((∀ y ∈ s.paused, y.1 ≠ port) → exec (.pfcPauseFrame port prio true) s = .next { s with paused := (port, prio) :: s.paused }) ∧
      ∃ t, exec (.pfcPauseFrame port prio false) s = .next t ∧ t = { s with paused := t.paused } ∧
        ∀ y, y ∈ t.paused ↔ y ∈ s.paused ∧ y ≠ (port, prio)) ∧
    ∀ (o : Outbound) (c : Core), s.outbound = [o] → o.valid = true → isControl o.pa = false → o.core = some c.id → s.core? c.id = some c →
      (o.waits = true → o.write = [] → o.merge = [] → ∀ data : List Byte, data.length = (if o.atomic.isSome then 8 else o.read) →
        ∃ t y, exec (.outboundResponse o.id data) s = .next t ∧ t.outbound = [] ∧ t.core? c.id = some { c with remote := y } ∧
          (∀ i, i < data.length → tblGet? (o.base + accessKey o.elem o.pa + i) y = data[i]?) ∧ s.SameMemory t) ∧
      (∃ t k, exec (.outboundNak ⟨o.id, false⟩) s = .next t ∧ t.outbound = [] ∧ s.SameMemory t ∧ t.core? c.id = some k ∧
        if o.waits then tblGet? (o.base + failKey o.elem o.pa) k.remote = some 0 ∧ k = { c with remote := k.remote }
        else k = { c with pending := { c.pending with link := some (c.pending.link.getD o.va) } }) ∧
      ∀ (qp : Nat) (x : Qp), o.qp = qp → tblGet? qp s.qps = some x →
        let again : State := { s with outbound := [{ o with sentAt := s.time }] }
        let lost (t : State) : Prop := t.outbound = [] ∧ tblGet? qp t.qps = some { x with error := true }
        (0 < x.rnr → ∃ t, exec (.outboundNak ⟨o.id, true⟩) s = .next t ∧
          Rules.qpSet again t qp { x with rnr := x.rnr - 1 } [.retry qp]) ∧
        (x.rnr = 0 → ∃ t, exec (.outboundNak ⟨o.id, true⟩) s = .next t ∧ lost t) ∧
        (s.time < o.sentAt + x.timeout → exec (.localAckTimeout qp) s = .next s) ∧
        (o.sentAt + x.timeout ≤ s.time →
          (0 < x.retries → ∃ t, exec (.localAckTimeout qp) s = .next t ∧
            Rules.qpSet again t qp { x with retries := x.retries - 1 } [.retry qp]) ∧
          (x.retries = 0 → ∃ t, exec (.localAckTimeout qp) s = .next t ∧ lost t))

/-- Bring-up (R349 to R361): power good, the stages and their temperature gates, the loaded firmware and the applied map, the boot
protocol's requests and their answers, STATUS after release too, the verdicts at END, attestation, the security alarm and power off; at
120 °C every member is killed (R408). Where the rules leave room it follows the model's choices of logs 1 and 28, of log 29 for the machine
interrupt that an alarm after release makes pending in every steward core, and of log 25 for the kill of the members that are not placed. -/
def Obligations.BootResult : Prop :=
  ∀ s : State, let b := s.boot
    (∀ temps, b.powered = false → Rules.mild temps → ∃ t, exec (.powerGood temps) s = .next t ∧ t = { State.reset with temps := temps, boot := t.boot, ticks := t.ticks } ∧
      t.boot.stage = 1 ∧ t.boot.idkey = derivedKey ∧ t.boot.secret.isSome ∧ t.boot.alarm = false) ∧
    (∃ t, exec .powerOff s = .next t ∧ t.boot.powered = false ∧ t = { State.reset with boot := t.boot, ticks := t.ticks }) ∧
    (b.powered = true → b.stage = 1 →
      ((∀ x ∈ s.temps, -160 ≤ x) → exec .romComplete s = .next { s with boot := { b with stage := 2 } }) ∧
      ((∃ x ∈ s.temps, x < -160) → exec .romComplete s = .next { s with
        boot := { b with stage := 3, heating := true, heaterUsed := true, after := 2 } })) ∧
    (∀ temps, (∀ x ∈ temps, -160 ≤ x ∧ x < 1920) →
      (b.heating = true → ∃ t, exec (.heatExit temps) s = .next t ∧ t = { s with
        temps := temps
        boot := { b with
          heating := false
          stage := if b.part.verified = false ∨ b.fw.verified = false then 2 else if b.after = 6 then 6 else 4 } }) ∧
      (b.powered = true → b.stage = 4 ∨ (b.stage = 6 ∧ s.cores ≠ []) → ∃ t, exec (.trainingTempCheck temps) s = .next t ∧
        t = { s with temps := temps, boot := { b with stage := b.stage + 1 } })) ∧
    (∀ temps, Rules.mild temps → b.powered = true →
      ((b.stage = 5 ∨ b.stage = 7) → (∃ x ∈ temps, x < -192) →
        ∃ t, exec (.trainingTempCheck temps) s = .next t ∧ t.cores = [] ∧ t.boot.aborts = b.aborts + 1 ∧
          t.boot.stage = if b.aborts < 2 then 3 else 15) ∧
      ((b.stage = 2 ∨ b.stage = 4 ∨ b.stage = 6) → (∃ x ∈ temps, x < -160) → exec (.trainingTempCheck temps) s = .next { s with
        temps := temps, boot := { b with stage := 3, heating := true, heaterUsed := true, after := b.stage } })) ∧
    (b.stage = 5 → exec .linksDone s = .next { s with boot := { b with stage := 6 } }) ∧
    (b.stage = 7 → exec .dramTrainDone s = .next { s with boot := { b with stage := 8 } }) ∧
    (b.stage = 6 → s.cores = [] → b.fw.body.length ≤ 2 ^ 24 → ∃ t, exec .loadDone s = .next t ∧ t.cores.length = 128 ∧
      (∀ d, d < 128 → ∃ c, t.core? (.steward d) = some c ∧ c.level = .machine ∧ c.pc.toNat % 4 = 0 ∧ c.pc.toNat / 2 ^ 35 = d ∧
        ∀ i, i < b.fw.body.length → t.locByte (c.pc.toNat + i) = b.fw.body.getD i 0) ∧
      t.boot.stage = if warm s.temps then 7 else 3) ∧
    (b.stage = 8 → ∃ t, exec .mapDone s = .next t ∧ t.boot = { b with stage := 9, trainTemps := s.temps } ∧ t.time = 0 ∧
      t.part = partOf b.part.body ∧ t.ceTotal = 0 ∧ t.ueTotal = 0 ∧
      t.cores = s.cores.filter (·.isSteward) ∧ (quadAt 0 t.regions).d0.getLsbD 63 = true ∧
      (∀ d, d < 128 → (t.die d).rt = [] ∧ (t.die d).denergy = 0 ∧ (t.die d).stretch = 0) ∧
      ∀ i, i < 65536 → t.locByte (mgmtPage + i) = 0) ∧
    (∀ f, Rules.heard s f 1 → Rules.bootSet (exec (.bootHello f) s) s b [Rules.bootReply s f 0x81 0
      (Rules.leBytes 4 Config.bootRomVersion.toNat ++ Rules.leBytes 1 b.stage ++ Rules.leBytes 1 b.idkey.isSome.toNat ++
        Rules.leBytes 2 (BitVec.ofInt 16 (lowestOf s.temps)).toNat ++ maskRomHash ++ b.publicBytes ++ Rules.leBytes 12 0)]) ∧
    (∀ f kind total, Rules.heard s f 2 → f.payload = Rules.leBytes 4 kind ++ Rules.leBytes 4 total → total < 2 ^ 32 →
      (kind = 1 → b.stage ≤ 3 → total ≤ 0x340 + 2 ^ 20 → ∃ t y, exec (.bootBegin f) s = .next t ∧ Rules.bootSet (.next t) (Rules.firmwareEnded s) t.boot
        [Rules.bootReply s f 0x82 0 []] ∧ t.boot.opened = 1 ∧ t.boot.part = ⟨true, total, [], y, false⟩) ∧
      (kind = 2 → b.stage ≤ 3 → b.part.verified = true → total ≤ 0x340 + 12 * 2 ^ 20 → ∃ t y, exec (.bootBegin f) s = .next t ∧
        Rules.bootSet (.next t) (Rules.firmwareEnded s) t.boot [Rules.bootReply s f 0x82 0 []] ∧ t.boot.opened = 2 ∧ t.boot.fw = ⟨true, total, [], y, false⟩ ∧
        t.boot.part = b.part) ∧
      ((kind = 2 ∧ b.part.verified = false) ∨ ((kind = 1 ∨ kind = 2) ∧ 4 ≤ b.stage) →
        Rules.bootSet (exec (.bootBegin f) s) s b [Rules.bootReply s f 0x82 7 []])) ∧
    (∀ f k, k = 1 ∨ k = 2 → Rules.heard s f 3 → b.opened = k → Memory.wf (b.image k).bytes = true →
      f.offset.toNat + f.payload.length ≤ (b.image k).total →
      ∃ t y, exec (.bootData f) s = .next t ∧ Rules.bootSet (.next t) s (b.setImage k { b.image k with bytes := y })
          [Rules.bootReply s f 0x83 0 []] ∧
        ∀ a, memRead y a = if f.offset.toNat ≤ a ∧ a < f.offset.toNat + f.payload.length then f.payload.getD (a - f.offset.toNat) 0
          else memRead (b.image k).bytes a) ∧
    (∀ f k, k = 1 ∨ k = 2 → Rules.heard s f 4 → f.payload = Rules.leBytes 4 k → b.opened = k →
      let v := b.verdict k
      (∃ t, exec (.bootEnd f) s = .next t ∧ Rules.bootSet (.next t) s t.boot [Rules.bootReply s f 0x84 v []] ∧ t.boot.opened = 0 ∧
        t.boot.image (3 - k) = b.image (3 - k) ∧
        if v = 0 then t.boot.image k = { b.image k with opened := false, verdict := 0, verified := true } ∧
          t.boot.stage = if (b.image (3 - k)).verified = true ∧ b.heating = false then 4 else b.stage
        else (t.boot.image k).verified = false ∧ (t.boot.image k).bytes = [] ∧ (t.boot.image k).verdict.toNat = v ∧
          t.boot.stage = b.stage) ∧
      ((b.image k).field 0 4 ≠ 0x4458494D ∨ (b.image k).field 4 2 ≠ k → v = 11)) ∧
    (∀ f, Rules.heard s f 5 ∨ b.stage = 9 ∧ Rules.heard { s with boot := { b with stage := 8 } } f 5 →
      ∀ h : Nat, h = (if b.heating = true ∨ ∃ y ∈ s.dies, y.2.heater = true then 1 else 0) →
      Rules.bootSet (exec (.bootStatus f) s) s b [Rules.bootReply s f 0x85 0
      (Rules.leBytes 1 b.stage ++ [b.part.verdict, b.fw.verdict] ++ Rules.leBytes 1 h ++ Rules.leBytes 1 b.aborts ++
        Rules.leBytes 1 b.acause.toNat)]) ∧
    (∀ f, Rules.heard s f 6 → f.payload.length = 32 →
      (b.alarm = true → Rules.bootSet (exec (.bootAttest f) s) s b [Rules.bootReply s f 0x86 8 []]) ∧
      (∀ k z, b.alarm = false → b.idkey = some k → b.secret = some z → b.part.verified = true → b.fw.verified = true →
        let body := f.payload ++ Rules.leBytes 4 Config.bootRomVersion.toNat ++ Rules.leBytes 1 b.stage ++ Rules.leBytes 1 b.heaterUsed.toNat ++
          [0, 0] ++ sha256 (memReads b.part.bytes 0 b.part.total) ++ sha256 (memReads b.fw.bytes 0 b.fw.total)
        Rules.bootSet (exec (.bootAttest f) s) s b [match ecdsaSign k (beBytes 32 z.toNat) body with
          | some sig => Rules.bootReply s f 0x86 0 (body ++ Rules.leBytes 32 sig.1 ++ Rules.leBytes 32 sig.2)
          | none => Rules.bootReply s f 0x86 8 []])) ∧
    (∀ f, Rules.heard s f f.op → f.op = 0 ∨ 6 < f.op.toNat → Rules.bootSet (exec (.bootUnknownOp f) s) s b [Rules.bootReply s f 0xFF 1 []]) ∧
    (∀ temps, (∃ y ∈ temps, y < -800) → (∀ y ∈ temps, y < 1920) → b.powered = true → b.alarm = false → b.stage ≠ 9 →
      exec (.securityAlarm ⟨0, temps⟩) s = .next { s with temps := temps, boot := { b with
        acause := b.acause ||| 8, alarm := true, secret := none, idkey := none, stage := 15, heating := false } }) ∧
    (∀ x temps, (∃ y ∈ temps, 1920 ≤ y) → b.powered = true → b.overheated = false → b.stage = 9 → (s.members.map Member.id).Nodup →
      ∃ t, exec (.securityAlarm ⟨x, temps⟩) s = .next t ∧ t.boot.overheated = true ∧ ∀ m ∈ t.members, m.state = .done ∨ m.state = .killed) ∧
    ∀ (x : BitVec 3) (temps : List Int), Rules.mild temps → x ≠ 0 → b.powered = true → b.alarm = false →
      let raised := { b with acause := b.acause ||| x.setWidth 4, alarm := true, secret := none, idkey := none }
      (b.stage ≠ 9 → exec (.securityAlarm ⟨x, temps⟩) s = .next { s with temps := temps, boot := { raised with stage := 15, heating := false } }) ∧
      (b.stage = 9 → exec (.securityAlarm ⟨x, temps⟩) s = .next { s with
        temps := temps
        boot := raised
        cores := s.cores.map fun c => if c.isSteward then { c with st := { c.st with mip := true } } else c })
end

