-- ==== Sys2Proof/Laws/Memory.lean ====
section
/-! SUPPORT. Memories: a write changes one byte, and every operation keeps the canonical form. -/

namespace Sys2Proof.Machine

/-- Every address of a memory lies above `a`. -/
def Memory.above (a : Nat) (m : Memory) : Prop := ∀ e ∈ m, a < e.1

theorem Memory.wf_cons (j : Nat) (y : Byte) (m : Memory) :
    Memory.wf ((j, y) :: m) = true ↔ y ≠ 0 ∧ Memory.above j m ∧ Memory.wf m = true := by
  induction m generalizing j y with
  | nil => simp [Memory.wf, Memory.above]
  | cons e m ih =>
    obtain ⟨k, z⟩ := e
    simp only [Memory.wf, Bool.and_eq_true, Bool.not_eq_true', decide_eq_false_iff_not, decide_eq_true_eq, Memory.above,
      List.mem_cons, forall_eq_or_imp]
    constructor
    · rintro ⟨⟨hy, hk⟩, h⟩
      have hm := ((ih k z).1 h).2.1
      exact ⟨hy, ⟨hk, fun e he => Nat.lt_trans hk (hm e he)⟩, h⟩
    · rintro ⟨hy, ⟨hk, _⟩, h⟩
      exact ⟨⟨hy, hk⟩, h⟩

theorem Memory.above_nil (j : Nat) : Memory.above j [] := fun _ h => by cases h

theorem Memory.above_cons (j : Nat) (e : Nat × Byte) (m : Memory) :
    Memory.above j (e :: m) ↔ j < e.1 ∧ Memory.above j m := by
  simp only [Memory.above, List.mem_cons, forall_eq_or_imp]

/-- A write reaches no address below those it finds and its own. -/
theorem memWrite_above (a : Nat) (b : Byte) (m : Memory) (j : Nat) (hj : j < a) (h : Memory.above j m) :
    Memory.above j (memWrite a b m) := by
  induction m with
  | nil => unfold memWrite; split <;> simp [Memory.above_nil, Memory.above_cons, hj]
  | cons e m ih =>
    have hm := ((Memory.above_cons _ _ _).1 h).2
    unfold memWrite
    split
    · split <;> simp only [Memory.above_cons] <;> simp_all [Memory.above_cons]
    · split
      · split
        · exact hm
        · exact (Memory.above_cons _ _ _).2 ⟨hj, hm⟩
      · exact (Memory.above_cons _ _ _).2 ⟨((Memory.above_cons _ _ _).1 h).1, ih hm⟩

/-- A write keeps the canonical form. -/
theorem memWrite_wf (a : Nat) (b : Byte) (m : Memory) (h : Memory.wf m = true) : Memory.wf (memWrite a b m) = true := by
  induction m with
  | nil => unfold memWrite; split <;> simp_all [Memory.wf]
  | cons e m ih =>
    obtain ⟨k, z⟩ := e
    obtain ⟨hz, hk, hm⟩ := (Memory.wf_cons k z m).1 h
    unfold memWrite
    split
    · split
      · exact h
      · refine (Memory.wf_cons a b _).2 ⟨‹_›, ?_, h⟩
        intro e he
        rcases List.mem_cons.1 he with rfl | he
        · assumption
        · exact Nat.lt_trans ‹a < k› (hk e he)
    · split
      · split
        · exact hm
        · subst_vars; exact (Memory.wf_cons _ b _).2 ⟨‹_›, hk, hm⟩
      · exact (Memory.wf_cons k z _).2 ⟨hz, memWrite_above a b m k (by omega) hk, ih hm⟩

/-- Clearing keeps the canonical form. -/
theorem memFilter_wf (p : Nat × Byte → Bool) (m : Memory) (h : Memory.wf m = true) : Memory.wf (m.filter p) = true := by
  induction m with
  | nil => rfl
  | cons e m ih =>
    obtain ⟨k, z⟩ := e
    obtain ⟨hz, hk, hm⟩ := (Memory.wf_cons k z m).1 h
    rw [List.filter_cons]
    split
    · exact (Memory.wf_cons k z _).2 ⟨hz, fun e he => hk e (List.mem_filter.1 he).1, ih hm⟩
    · exact ih hm

theorem memClear_wf (a n : Nat) (m : Memory) (h : Memory.wf m = true) : Memory.wf (memClear a n m) = true :=
  memFilter_wf _ m h

/-- Writing a string of bytes keeps the canonical form. -/
theorem memWrites_wf (a : Nat) (bs : List Byte) (m : Memory) (h : Memory.wf m = true) :
    Memory.wf (memWrites a bs m) = true := by
  induction bs generalizing a m with
  | nil => exact h
  | cons b bs ih => exact ih (a + 1) _ (memWrite_wf a b m h)

/-- Writing a list of bytes, each at its own place, keeps the canonical form. -/
theorem memFold_wf (f : Nat × Byte → Nat) (es : List (Nat × Byte)) (m : Memory) (h : Memory.wf m = true) :
    Memory.wf (es.foldl (fun t e => memWrite (f e) e.2 t) m) = true := by
  induction es generalizing m with
  | nil => exact h
  | cons e es ih => exact ih _ (memWrite_wf _ _ m h)

/-- No entry of a memory lies at or below the address its entries lie above. -/
theorem memRead_above (a : Nat) (m : Memory) (h : Memory.above a m) (x : Nat) (hx : x ≤ a) : memRead m x = 0 := by
  unfold memRead tblGet
  induction m with
  | nil => rfl
  | cons e m ih =>
    obtain ⟨k, z⟩ := e
    have hk : a < k := h (k, z) (by simp)
    have : k ≠ x := by omega
    simp only [tblGet?, this, if_false]
    exact ih fun e he => h e (by simp [he])

theorem memRead_cons (k : Nat) (z : Byte) (m : Memory) (x : Nat) :
    memRead ((k, z) :: m) x = if k = x then z else memRead m x := by
  unfold memRead tblGet; rw [tblGet?]; split <;> rfl

/-- A read after a write: the byte written, and every other byte as before. -/
theorem memRead_memWrite (a : Nat) (b : Byte) (m : Memory) (h : Memory.wf m = true) (x : Nat) :
    memRead (memWrite a b m) x = if x = a then b else memRead m x := by
  induction m with
  | nil =>
    unfold memWrite
    split
    · split
      · subst_vars; rfl
      · rfl
    · rw [memRead_cons]; simp only [eq_comm]
  | cons e m ih =>
    obtain ⟨k, z⟩ := e
    obtain ⟨-, hk, hm⟩ := (Memory.wf_cons k z m).1 h
    have ih := ih hm
    unfold memWrite
    split
    · have ha : memRead ((k, z) :: m) a = 0 := by
        have : k ≠ a := by omega
        rw [memRead_cons, if_neg this]
        exact memRead_above k m hk a (by omega)
      split
      · split
        · rename_i hb hx; rw [hx, ha, hb]
        · rfl
      · rw [memRead_cons]; simp only [eq_comm]
    · split
      · rename_i hka; subst hka
        have hr := memRead_above k m hk k (Nat.le_refl k)
        split
        · rename_i hb
          by_cases hx : x = k
          · rw [hx, hr, hb]; simp
          · rw [memRead_cons, if_neg hx, if_neg fun h' => hx h'.symm]
        · by_cases hx : x = k
          · rw [hx, memRead_cons]; simp
          · rw [memRead_cons, memRead_cons, if_neg hx, if_neg fun h' => hx h'.symm, if_neg fun h' => hx h'.symm]
      · rw [memRead_cons, memRead_cons, ih]
        by_cases hx : k = x
        · subst hx; rw [if_pos rfl, if_pos rfl]; split
          · omega
          · rfl
        · rw [if_neg hx, if_neg hx]

theorem tblGet?_cons {α : Type} (i : Nat) (y : α) (t : Tbl α) (j : Nat) :
    tblGet? j ((i, y) :: t) = if i = j then some y else tblGet? j t := rfl

/-- A table after one entry is set. -/
theorem tblGet?_tblSet {α : Type} (k : Nat) (x : α) (t : Tbl α) (j : Nat) :
    tblGet? j (tblSet k x t) = if j = k then some x else tblGet? j t := by
  have flip : (k = j) = (j = k) := propext eq_comm
  induction t with
  | nil => unfold tblSet; rw [tblGet?_cons]; simp only [flip]
  | cons e t ih =>
    obtain ⟨i, y⟩ := e
    unfold tblSet
    split
    · rw [tblGet?_cons]; simp only [flip]
    · split
      · rename_i hik; subst hik
        by_cases h : j = i
        · rw [tblGet?_cons, if_pos h.symm, if_pos h]
        · rw [tblGet?_cons, tblGet?_cons, if_neg h, if_neg fun h' => h h'.symm, if_neg fun h' => h h'.symm]
      · rw [tblGet?_cons, tblGet?_cons, ih]
        by_cases h : i = j
        · subst h; rw [if_pos rfl, if_pos rfl, if_neg ‹_›]
        · rw [if_neg h, if_neg h]

/-- The same with a default. -/
theorem tblGet_tblSet {α : Type} (d : α) (k : Nat) (x : α) (t : Tbl α) (j : Nat) :
    tblGet d j (tblSet k x t) = if j = k then x else tblGet d j t := by
  unfold tblGet; rw [tblGet?_tblSet]; split <;> rfl

/-- Dies, stacks and cells of a state with one of them changed. -/
theorem State.die_modDie (s : State) (d : Nat) (f : Die → Die) (j : Nat) :
    (s.modDie d f).die j = if j = d then f (s.die d) else s.die j := tblGet_tblSet _ _ _ _ _

theorem State.stack_setStack (s : State) (k : Nat) (x : Stack) (j : Nat) :
    (s.setStack k x).stack j = if j = k then x else s.stack j := tblGet_tblSet _ _ _ _ _

theorem State.cell_modCell (s : State) (k : Nat) (f : Cell → Cell) (j : Nat) :
    (s.modCell k f).cell j = if j = k then f (s.cell k) else s.cell j := tblGet_tblSet _ _ _ _ _

/-- A byte written at its coherence point keeps the canonical form of the memories. -/
theorem State.setLocByte_wf (s : State) (loc : Nat) (b : Byte)
    (h : Memory.wf s.hold = true ∧ Memory.wf s.dram = true ∧ Memory.wf s.mailbox = true) :
    Memory.wf (s.setLocByte loc b).hold = true ∧ Memory.wf (s.setLocByte loc b).dram = true ∧
      Memory.wf (s.setLocByte loc b).mailbox = true := by
  unfold State.setLocByte
  split
  · exact ⟨memWrite_wf _ _ _ h.1, h.2⟩
  · split
    · exact ⟨h.1, h.2.1, memWrite_wf _ _ _ h.2.2⟩
    · exact h

/-- So do masked bytes written in order. -/
theorem State.setLocBytes_wf (s : State) (loc : Nat) (bs : List (Byte × Byte))
    (h : Memory.wf s.hold = true ∧ Memory.wf s.dram = true ∧ Memory.wf s.mailbox = true) :
    Memory.wf (s.setLocBytes loc bs).hold = true ∧ Memory.wf (s.setLocBytes loc bs).dram = true ∧
      Memory.wf (s.setLocBytes loc bs).mailbox = true := by
  induction bs generalizing s loc with
  | nil => exact h
  | cons e bs ih => exact ih _ _ (State.setLocByte_wf s loc _ h)

/-- So do bytes that a sealed frame may refuse. -/
theorem State.putUnsealed_wf (s : State) (loc : Nat) (bs : List Byte)
    (h : Memory.wf s.hold = true ∧ Memory.wf s.dram = true ∧ Memory.wf s.mailbox = true) :
    Memory.wf (s.putUnsealed loc bs).hold = true ∧ Memory.wf (s.putUnsealed loc bs).dram = true ∧
      Memory.wf (s.putUnsealed loc bs).mailbox = true := by
  unfold State.putUnsealed
  have h' : ∀ (b : Bool) (t : State) (l : Nat) (xs : List (Byte × Byte)),
      Memory.wf t.hold = true ∧ Memory.wf t.dram = true ∧ Memory.wf t.mailbox = true →
      let u := if b then t else t.setLocBytes l xs
      Memory.wf u.hold = true ∧ Memory.wf u.dram = true ∧ Memory.wf u.mailbox = true := by
    intro b t l xs ht
    cases b
    · exact State.setLocBytes_wf t l xs ht
    · exact ht
  exact h' _ _ _ _ (h' _ _ _ _ h)

end Sys2Proof.Machine
end

