-- ==== Sys2Proof/Laws/State.lean ====
section
/-! SUPPORT. What each update of a state or a core leaves as it was, field by field. -/

namespace Sys2Proof.Machine

@[simp] theorem State.modCore_time (s : State) (id : CoreId) (f : Core → Core) : (s.modCore id f).time = s.time := rfl
@[simp] theorem State.modCore_ticks (s : State) (id : CoreId) (f : Core → Core) : (s.modCore id f).ticks = s.ticks := rfl
@[simp] theorem State.modCore_schedule (s : State) (id : CoreId) (f : Core → Core) : (s.modCore id f).schedule = s.schedule := rfl
@[simp] theorem State.modCore_turn (s : State) (id : CoreId) (f : Core → Core) : (s.modCore id f).turn = s.turn := rfl
@[simp] theorem State.modCore_cur (s : State) (id : CoreId) (f : Core → Core) : (s.modCore id f).cur = s.cur := rfl
@[simp] theorem State.modCore_boot (s : State) (id : CoreId) (f : Core → Core) : (s.modCore id f).boot = s.boot := rfl
@[simp] theorem State.modCore_part (s : State) (id : CoreId) (f : Core → Core) : (s.modCore id f).part = s.part := rfl
@[simp] theorem State.modCore_panel (s : State) (id : CoreId) (f : Core → Core) : (s.modCore id f).panel = s.panel := rfl
@[simp] theorem State.modCore_idSet (s : State) (id : CoreId) (f : Core → Core) : (s.modCore id f).idSet = s.idSet := rfl
@[simp] theorem State.modCore_hold (s : State) (id : CoreId) (f : Core → Core) : (s.modCore id f).hold = s.hold := rfl
@[simp] theorem State.modCore_dram (s : State) (id : CoreId) (f : Core → Core) : (s.modCore id f).dram = s.dram := rfl
@[simp] theorem State.modCore_homeCache (s : State) (id : CoreId) (f : Core → Core) : (s.modCore id f).homeCache = s.homeCache := rfl
@[simp] theorem State.modCore_mailbox (s : State) (id : CoreId) (f : Core → Core) : (s.modCore id f).mailbox = s.mailbox := rfl
@[simp] theorem State.modCore_cells (s : State) (id : CoreId) (f : Core → Core) : (s.modCore id f).cells = s.cells := rfl
@[simp] theorem State.modCore_dies (s : State) (id : CoreId) (f : Core → Core) : (s.modCore id f).dies = s.dies := rfl
@[simp] theorem State.modCore_stackTbl (s : State) (id : CoreId) (f : Core → Core) : (s.modCore id f).stackTbl = s.stackTbl := rfl
@[simp] theorem State.modCore_members (s : State) (id : CoreId) (f : Core → Core) : (s.modCore id f).members = s.members := rfl
@[simp] theorem State.modCore_batches (s : State) (id : CoreId) (f : Core → Core) : (s.modCore id f).batches = s.batches := rfl
@[simp] theorem State.modCore_phases (s : State) (id : CoreId) (f : Core → Core) : (s.modCore id f).phases = s.phases := rfl
@[simp] theorem State.modCore_late (s : State) (id : CoreId) (f : Core → Core) : (s.modCore id f).late = s.late := rfl
@[simp] theorem State.modCore_binds (s : State) (id : CoreId) (f : Core → Core) : (s.modCore id f).binds = s.binds := rfl
@[simp] theorem State.modCore_queues (s : State) (id : CoreId) (f : Core → Core) : (s.modCore id f).queues = s.queues := rfl
@[simp] theorem State.modCore_regions (s : State) (id : CoreId) (f : Core → Core) : (s.modCore id f).regions = s.regions := rfl
@[simp] theorem State.modCore_windows (s : State) (id : CoreId) (f : Core → Core) : (s.modCore id f).windows = s.windows := rfl
@[simp] theorem State.modCore_ioSets (s : State) (id : CoreId) (f : Core → Core) : (s.modCore id f).ioSets = s.ioSets := rfl
@[simp] theorem State.modCore_eventRing (s : State) (id : CoreId) (f : Core → Core) : (s.modCore id f).eventRing = s.eventRing := rfl
@[simp] theorem State.modCore_eventSerial (s : State) (id : CoreId) (f : Core → Core) : (s.modCore id f).eventSerial = s.eventSerial := rfl
@[simp] theorem State.modCore_qps (s : State) (id : CoreId) (f : Core → Core) : (s.modCore id f).qps = s.qps := rfl
@[simp] theorem State.modCore_dropped (s : State) (id : CoreId) (f : Core → Core) : (s.modCore id f).dropped = s.dropped := rfl
@[simp] theorem State.modCore_paused (s : State) (id : CoreId) (f : Core → Core) : (s.modCore id f).paused = s.paused := rfl
@[simp] theorem State.modCore_outbound (s : State) (id : CoreId) (f : Core → Core) : (s.modCore id f).outbound = s.outbound := rfl
@[simp] theorem State.modCore_tx (s : State) (id : CoreId) (f : Core → Core) : (s.modCore id f).tx = s.tx := rfl
@[simp] theorem State.modCore_nextId (s : State) (id : CoreId) (f : Core → Core) : (s.modCore id f).nextId = s.nextId := rfl
@[simp] theorem State.modCore_temps (s : State) (id : CoreId) (f : Core → Core) : (s.modCore id f).temps = s.temps := rfl
@[simp] theorem State.modCore_budget (s : State) (id : CoreId) (f : Core → Core) : (s.modCore id f).budget = s.budget := rfl
@[simp] theorem State.modCore_ceTotal (s : State) (id : CoreId) (f : Core → Core) : (s.modCore id f).ceTotal = s.ceTotal := rfl
@[simp] theorem State.modCore_ueTotal (s : State) (id : CoreId) (f : Core → Core) : (s.modCore id f).ueTotal = s.ueTotal := rfl

@[simp] theorem State.upd_time (s : State) (f : Core → Core) : (s.upd f).time = s.time := rfl
@[simp] theorem State.upd_ticks (s : State) (f : Core → Core) : (s.upd f).ticks = s.ticks := rfl
@[simp] theorem State.upd_schedule (s : State) (f : Core → Core) : (s.upd f).schedule = s.schedule := rfl
@[simp] theorem State.upd_turn (s : State) (f : Core → Core) : (s.upd f).turn = s.turn := rfl
@[simp] theorem State.upd_cur (s : State) (f : Core → Core) : (s.upd f).cur = s.cur := rfl
@[simp] theorem State.upd_boot (s : State) (f : Core → Core) : (s.upd f).boot = s.boot := rfl
@[simp] theorem State.upd_part (s : State) (f : Core → Core) : (s.upd f).part = s.part := rfl
@[simp] theorem State.upd_panel (s : State) (f : Core → Core) : (s.upd f).panel = s.panel := rfl
@[simp] theorem State.upd_idSet (s : State) (f : Core → Core) : (s.upd f).idSet = s.idSet := rfl
@[simp] theorem State.upd_hold (s : State) (f : Core → Core) : (s.upd f).hold = s.hold := rfl
@[simp] theorem State.upd_dram (s : State) (f : Core → Core) : (s.upd f).dram = s.dram := rfl
@[simp] theorem State.upd_homeCache (s : State) (f : Core → Core) : (s.upd f).homeCache = s.homeCache := rfl
@[simp] theorem State.upd_mailbox (s : State) (f : Core → Core) : (s.upd f).mailbox = s.mailbox := rfl
@[simp] theorem State.upd_cells (s : State) (f : Core → Core) : (s.upd f).cells = s.cells := rfl
@[simp] theorem State.upd_dies (s : State) (f : Core → Core) : (s.upd f).dies = s.dies := rfl
@[simp] theorem State.upd_stackTbl (s : State) (f : Core → Core) : (s.upd f).stackTbl = s.stackTbl := rfl
@[simp] theorem State.upd_members (s : State) (f : Core → Core) : (s.upd f).members = s.members := rfl
@[simp] theorem State.upd_batches (s : State) (f : Core → Core) : (s.upd f).batches = s.batches := rfl
@[simp] theorem State.upd_phases (s : State) (f : Core → Core) : (s.upd f).phases = s.phases := rfl
@[simp] theorem State.upd_late (s : State) (f : Core → Core) : (s.upd f).late = s.late := rfl
@[simp] theorem State.upd_binds (s : State) (f : Core → Core) : (s.upd f).binds = s.binds := rfl
@[simp] theorem State.upd_queues (s : State) (f : Core → Core) : (s.upd f).queues = s.queues := rfl
@[simp] theorem State.upd_regions (s : State) (f : Core → Core) : (s.upd f).regions = s.regions := rfl
@[simp] theorem State.upd_windows (s : State) (f : Core → Core) : (s.upd f).windows = s.windows := rfl
@[simp] theorem State.upd_ioSets (s : State) (f : Core → Core) : (s.upd f).ioSets = s.ioSets := rfl
@[simp] theorem State.upd_eventRing (s : State) (f : Core → Core) : (s.upd f).eventRing = s.eventRing := rfl
@[simp] theorem State.upd_eventSerial (s : State) (f : Core → Core) : (s.upd f).eventSerial = s.eventSerial := rfl
@[simp] theorem State.upd_qps (s : State) (f : Core → Core) : (s.upd f).qps = s.qps := rfl
@[simp] theorem State.upd_dropped (s : State) (f : Core → Core) : (s.upd f).dropped = s.dropped := rfl
@[simp] theorem State.upd_paused (s : State) (f : Core → Core) : (s.upd f).paused = s.paused := rfl
@[simp] theorem State.upd_outbound (s : State) (f : Core → Core) : (s.upd f).outbound = s.outbound := rfl
@[simp] theorem State.upd_tx (s : State) (f : Core → Core) : (s.upd f).tx = s.tx := rfl
@[simp] theorem State.upd_nextId (s : State) (f : Core → Core) : (s.upd f).nextId = s.nextId := rfl
@[simp] theorem State.upd_temps (s : State) (f : Core → Core) : (s.upd f).temps = s.temps := rfl
@[simp] theorem State.upd_budget (s : State) (f : Core → Core) : (s.upd f).budget = s.budget := rfl
@[simp] theorem State.upd_ceTotal (s : State) (f : Core → Core) : (s.upd f).ceTotal = s.ceTotal := rfl
@[simp] theorem State.upd_ueTotal (s : State) (f : Core → Core) : (s.upd f).ueTotal = s.ueTotal := rfl

@[simp] theorem State.setStack_time (s : State) (k : Nat) (x : Stack) : (s.setStack k x).time = s.time := rfl
@[simp] theorem State.setStack_ticks (s : State) (k : Nat) (x : Stack) : (s.setStack k x).ticks = s.ticks := rfl
@[simp] theorem State.setStack_schedule (s : State) (k : Nat) (x : Stack) : (s.setStack k x).schedule = s.schedule := rfl
@[simp] theorem State.setStack_turn (s : State) (k : Nat) (x : Stack) : (s.setStack k x).turn = s.turn := rfl
@[simp] theorem State.setStack_cur (s : State) (k : Nat) (x : Stack) : (s.setStack k x).cur = s.cur := rfl
@[simp] theorem State.setStack_boot (s : State) (k : Nat) (x : Stack) : (s.setStack k x).boot = s.boot := rfl
@[simp] theorem State.setStack_part (s : State) (k : Nat) (x : Stack) : (s.setStack k x).part = s.part := rfl
@[simp] theorem State.setStack_panel (s : State) (k : Nat) (x : Stack) : (s.setStack k x).panel = s.panel := rfl
@[simp] theorem State.setStack_idSet (s : State) (k : Nat) (x : Stack) : (s.setStack k x).idSet = s.idSet := rfl
@[simp] theorem State.setStack_cores (s : State) (k : Nat) (x : Stack) : (s.setStack k x).cores = s.cores := rfl
@[simp] theorem State.setStack_hold (s : State) (k : Nat) (x : Stack) : (s.setStack k x).hold = s.hold := rfl
@[simp] theorem State.setStack_dram (s : State) (k : Nat) (x : Stack) : (s.setStack k x).dram = s.dram := rfl
@[simp] theorem State.setStack_homeCache (s : State) (k : Nat) (x : Stack) : (s.setStack k x).homeCache = s.homeCache := rfl
@[simp] theorem State.setStack_mailbox (s : State) (k : Nat) (x : Stack) : (s.setStack k x).mailbox = s.mailbox := rfl
@[simp] theorem State.setStack_cells (s : State) (k : Nat) (x : Stack) : (s.setStack k x).cells = s.cells := rfl
@[simp] theorem State.setStack_dies (s : State) (k : Nat) (x : Stack) : (s.setStack k x).dies = s.dies := rfl
@[simp] theorem State.setStack_members (s : State) (k : Nat) (x : Stack) : (s.setStack k x).members = s.members := rfl
@[simp] theorem State.setStack_batches (s : State) (k : Nat) (x : Stack) : (s.setStack k x).batches = s.batches := rfl
@[simp] theorem State.setStack_phases (s : State) (k : Nat) (x : Stack) : (s.setStack k x).phases = s.phases := rfl
@[simp] theorem State.setStack_late (s : State) (k : Nat) (x : Stack) : (s.setStack k x).late = s.late := rfl
@[simp] theorem State.setStack_binds (s : State) (k : Nat) (x : Stack) : (s.setStack k x).binds = s.binds := rfl
@[simp] theorem State.setStack_queues (s : State) (k : Nat) (x : Stack) : (s.setStack k x).queues = s.queues := rfl
@[simp] theorem State.setStack_regions (s : State) (k : Nat) (x : Stack) : (s.setStack k x).regions = s.regions := rfl
@[simp] theorem State.setStack_windows (s : State) (k : Nat) (x : Stack) : (s.setStack k x).windows = s.windows := rfl
@[simp] theorem State.setStack_ioSets (s : State) (k : Nat) (x : Stack) : (s.setStack k x).ioSets = s.ioSets := rfl
@[simp] theorem State.setStack_eventRing (s : State) (k : Nat) (x : Stack) : (s.setStack k x).eventRing = s.eventRing := rfl
@[simp] theorem State.setStack_eventSerial (s : State) (k : Nat) (x : Stack) : (s.setStack k x).eventSerial = s.eventSerial := rfl
@[simp] theorem State.setStack_qps (s : State) (k : Nat) (x : Stack) : (s.setStack k x).qps = s.qps := rfl
@[simp] theorem State.setStack_dropped (s : State) (k : Nat) (x : Stack) : (s.setStack k x).dropped = s.dropped := rfl
@[simp] theorem State.setStack_paused (s : State) (k : Nat) (x : Stack) : (s.setStack k x).paused = s.paused := rfl
@[simp] theorem State.setStack_outbound (s : State) (k : Nat) (x : Stack) : (s.setStack k x).outbound = s.outbound := rfl
@[simp] theorem State.setStack_tx (s : State) (k : Nat) (x : Stack) : (s.setStack k x).tx = s.tx := rfl
@[simp] theorem State.setStack_nextId (s : State) (k : Nat) (x : Stack) : (s.setStack k x).nextId = s.nextId := rfl
@[simp] theorem State.setStack_temps (s : State) (k : Nat) (x : Stack) : (s.setStack k x).temps = s.temps := rfl
@[simp] theorem State.setStack_budget (s : State) (k : Nat) (x : Stack) : (s.setStack k x).budget = s.budget := rfl
@[simp] theorem State.setStack_ceTotal (s : State) (k : Nat) (x : Stack) : (s.setStack k x).ceTotal = s.ceTotal := rfl
@[simp] theorem State.setStack_ueTotal (s : State) (k : Nat) (x : Stack) : (s.setStack k x).ueTotal = s.ueTotal := rfl

@[simp] theorem State.modDie_time (s : State) (d : Nat) (f : Die → Die) : (s.modDie d f).time = s.time := rfl
@[simp] theorem State.modDie_ticks (s : State) (d : Nat) (f : Die → Die) : (s.modDie d f).ticks = s.ticks := rfl
@[simp] theorem State.modDie_schedule (s : State) (d : Nat) (f : Die → Die) : (s.modDie d f).schedule = s.schedule := rfl
@[simp] theorem State.modDie_turn (s : State) (d : Nat) (f : Die → Die) : (s.modDie d f).turn = s.turn := rfl
@[simp] theorem State.modDie_cur (s : State) (d : Nat) (f : Die → Die) : (s.modDie d f).cur = s.cur := rfl
@[simp] theorem State.modDie_boot (s : State) (d : Nat) (f : Die → Die) : (s.modDie d f).boot = s.boot := rfl
@[simp] theorem State.modDie_part (s : State) (d : Nat) (f : Die → Die) : (s.modDie d f).part = s.part := rfl
@[simp] theorem State.modDie_panel (s : State) (d : Nat) (f : Die → Die) : (s.modDie d f).panel = s.panel := rfl
@[simp] theorem State.modDie_idSet (s : State) (d : Nat) (f : Die → Die) : (s.modDie d f).idSet = s.idSet := rfl
@[simp] theorem State.modDie_cores (s : State) (d : Nat) (f : Die → Die) : (s.modDie d f).cores = s.cores := rfl
@[simp] theorem State.modDie_hold (s : State) (d : Nat) (f : Die → Die) : (s.modDie d f).hold = s.hold := rfl
@[simp] theorem State.modDie_dram (s : State) (d : Nat) (f : Die → Die) : (s.modDie d f).dram = s.dram := rfl
@[simp] theorem State.modDie_homeCache (s : State) (d : Nat) (f : Die → Die) : (s.modDie d f).homeCache = s.homeCache := rfl
@[simp] theorem State.modDie_mailbox (s : State) (d : Nat) (f : Die → Die) : (s.modDie d f).mailbox = s.mailbox := rfl
@[simp] theorem State.modDie_cells (s : State) (d : Nat) (f : Die → Die) : (s.modDie d f).cells = s.cells := rfl
@[simp] theorem State.modDie_stackTbl (s : State) (d : Nat) (f : Die → Die) : (s.modDie d f).stackTbl = s.stackTbl := rfl
@[simp] theorem State.modDie_members (s : State) (d : Nat) (f : Die → Die) : (s.modDie d f).members = s.members := rfl
@[simp] theorem State.modDie_batches (s : State) (d : Nat) (f : Die → Die) : (s.modDie d f).batches = s.batches := rfl
@[simp] theorem State.modDie_phases (s : State) (d : Nat) (f : Die → Die) : (s.modDie d f).phases = s.phases := rfl
@[simp] theorem State.modDie_late (s : State) (d : Nat) (f : Die → Die) : (s.modDie d f).late = s.late := rfl
@[simp] theorem State.modDie_binds (s : State) (d : Nat) (f : Die → Die) : (s.modDie d f).binds = s.binds := rfl
@[simp] theorem State.modDie_queues (s : State) (d : Nat) (f : Die → Die) : (s.modDie d f).queues = s.queues := rfl
@[simp] theorem State.modDie_regions (s : State) (d : Nat) (f : Die → Die) : (s.modDie d f).regions = s.regions := rfl
@[simp] theorem State.modDie_windows (s : State) (d : Nat) (f : Die → Die) : (s.modDie d f).windows = s.windows := rfl
@[simp] theorem State.modDie_ioSets (s : State) (d : Nat) (f : Die → Die) : (s.modDie d f).ioSets = s.ioSets := rfl
@[simp] theorem State.modDie_eventRing (s : State) (d : Nat) (f : Die → Die) : (s.modDie d f).eventRing = s.eventRing := rfl
@[simp] theorem State.modDie_eventSerial (s : State) (d : Nat) (f : Die → Die) : (s.modDie d f).eventSerial = s.eventSerial := rfl
@[simp] theorem State.modDie_qps (s : State) (d : Nat) (f : Die → Die) : (s.modDie d f).qps = s.qps := rfl
@[simp] theorem State.modDie_dropped (s : State) (d : Nat) (f : Die → Die) : (s.modDie d f).dropped = s.dropped := rfl
@[simp] theorem State.modDie_paused (s : State) (d : Nat) (f : Die → Die) : (s.modDie d f).paused = s.paused := rfl
@[simp] theorem State.modDie_outbound (s : State) (d : Nat) (f : Die → Die) : (s.modDie d f).outbound = s.outbound := rfl
@[simp] theorem State.modDie_tx (s : State) (d : Nat) (f : Die → Die) : (s.modDie d f).tx = s.tx := rfl
@[simp] theorem State.modDie_nextId (s : State) (d : Nat) (f : Die → Die) : (s.modDie d f).nextId = s.nextId := rfl
@[simp] theorem State.modDie_temps (s : State) (d : Nat) (f : Die → Die) : (s.modDie d f).temps = s.temps := rfl
@[simp] theorem State.modDie_budget (s : State) (d : Nat) (f : Die → Die) : (s.modDie d f).budget = s.budget := rfl
@[simp] theorem State.modDie_ceTotal (s : State) (d : Nat) (f : Die → Die) : (s.modDie d f).ceTotal = s.ceTotal := rfl
@[simp] theorem State.modDie_ueTotal (s : State) (d : Nat) (f : Die → Die) : (s.modDie d f).ueTotal = s.ueTotal := rfl

@[simp] theorem State.modCell_time (s : State) (k : Nat) (f : Cell → Cell) : (s.modCell k f).time = s.time := rfl
@[simp] theorem State.modCell_ticks (s : State) (k : Nat) (f : Cell → Cell) : (s.modCell k f).ticks = s.ticks := rfl
@[simp] theorem State.modCell_schedule (s : State) (k : Nat) (f : Cell → Cell) : (s.modCell k f).schedule = s.schedule := rfl
@[simp] theorem State.modCell_turn (s : State) (k : Nat) (f : Cell → Cell) : (s.modCell k f).turn = s.turn := rfl
@[simp] theorem State.modCell_cur (s : State) (k : Nat) (f : Cell → Cell) : (s.modCell k f).cur = s.cur := rfl
@[simp] theorem State.modCell_boot (s : State) (k : Nat) (f : Cell → Cell) : (s.modCell k f).boot = s.boot := rfl
@[simp] theorem State.modCell_part (s : State) (k : Nat) (f : Cell → Cell) : (s.modCell k f).part = s.part := rfl
@[simp] theorem State.modCell_panel (s : State) (k : Nat) (f : Cell → Cell) : (s.modCell k f).panel = s.panel := rfl
@[simp] theorem State.modCell_idSet (s : State) (k : Nat) (f : Cell → Cell) : (s.modCell k f).idSet = s.idSet := rfl
@[simp] theorem State.modCell_cores (s : State) (k : Nat) (f : Cell → Cell) : (s.modCell k f).cores = s.cores := rfl
@[simp] theorem State.modCell_hold (s : State) (k : Nat) (f : Cell → Cell) : (s.modCell k f).hold = s.hold := rfl
@[simp] theorem State.modCell_dram (s : State) (k : Nat) (f : Cell → Cell) : (s.modCell k f).dram = s.dram := rfl
@[simp] theorem State.modCell_homeCache (s : State) (k : Nat) (f : Cell → Cell) : (s.modCell k f).homeCache = s.homeCache := rfl
@[simp] theorem State.modCell_mailbox (s : State) (k : Nat) (f : Cell → Cell) : (s.modCell k f).mailbox = s.mailbox := rfl
@[simp] theorem State.modCell_dies (s : State) (k : Nat) (f : Cell → Cell) : (s.modCell k f).dies = s.dies := rfl
@[simp] theorem State.modCell_stackTbl (s : State) (k : Nat) (f : Cell → Cell) : (s.modCell k f).stackTbl = s.stackTbl := rfl
@[simp] theorem State.modCell_members (s : State) (k : Nat) (f : Cell → Cell) : (s.modCell k f).members = s.members := rfl
@[simp] theorem State.modCell_batches (s : State) (k : Nat) (f : Cell → Cell) : (s.modCell k f).batches = s.batches := rfl
@[simp] theorem State.modCell_phases (s : State) (k : Nat) (f : Cell → Cell) : (s.modCell k f).phases = s.phases := rfl
@[simp] theorem State.modCell_late (s : State) (k : Nat) (f : Cell → Cell) : (s.modCell k f).late = s.late := rfl
@[simp] theorem State.modCell_binds (s : State) (k : Nat) (f : Cell → Cell) : (s.modCell k f).binds = s.binds := rfl
@[simp] theorem State.modCell_queues (s : State) (k : Nat) (f : Cell → Cell) : (s.modCell k f).queues = s.queues := rfl
@[simp] theorem State.modCell_regions (s : State) (k : Nat) (f : Cell → Cell) : (s.modCell k f).regions = s.regions := rfl
@[simp] theorem State.modCell_windows (s : State) (k : Nat) (f : Cell → Cell) : (s.modCell k f).windows = s.windows := rfl
@[simp] theorem State.modCell_ioSets (s : State) (k : Nat) (f : Cell → Cell) : (s.modCell k f).ioSets = s.ioSets := rfl
@[simp] theorem State.modCell_eventRing (s : State) (k : Nat) (f : Cell → Cell) : (s.modCell k f).eventRing = s.eventRing := rfl
@[simp] theorem State.modCell_eventSerial (s : State) (k : Nat) (f : Cell → Cell) : (s.modCell k f).eventSerial = s.eventSerial := rfl
@[simp] theorem State.modCell_qps (s : State) (k : Nat) (f : Cell → Cell) : (s.modCell k f).qps = s.qps := rfl
@[simp] theorem State.modCell_dropped (s : State) (k : Nat) (f : Cell → Cell) : (s.modCell k f).dropped = s.dropped := rfl
@[simp] theorem State.modCell_paused (s : State) (k : Nat) (f : Cell → Cell) : (s.modCell k f).paused = s.paused := rfl
@[simp] theorem State.modCell_outbound (s : State) (k : Nat) (f : Cell → Cell) : (s.modCell k f).outbound = s.outbound := rfl
@[simp] theorem State.modCell_tx (s : State) (k : Nat) (f : Cell → Cell) : (s.modCell k f).tx = s.tx := rfl
@[simp] theorem State.modCell_nextId (s : State) (k : Nat) (f : Cell → Cell) : (s.modCell k f).nextId = s.nextId := rfl
@[simp] theorem State.modCell_temps (s : State) (k : Nat) (f : Cell → Cell) : (s.modCell k f).temps = s.temps := rfl
@[simp] theorem State.modCell_budget (s : State) (k : Nat) (f : Cell → Cell) : (s.modCell k f).budget = s.budget := rfl
@[simp] theorem State.modCell_ceTotal (s : State) (k : Nat) (f : Cell → Cell) : (s.modCell k f).ceTotal = s.ceTotal := rfl
@[simp] theorem State.modCell_ueTotal (s : State) (k : Nat) (f : Cell → Cell) : (s.modCell k f).ueTotal = s.ueTotal := rfl

@[simp] theorem State.signal_time (s : State) (id : CoreId) : (s.signal id).time = s.time := rfl
@[simp] theorem State.signal_ticks (s : State) (id : CoreId) : (s.signal id).ticks = s.ticks := rfl
@[simp] theorem State.signal_schedule (s : State) (id : CoreId) : (s.signal id).schedule = s.schedule := rfl
@[simp] theorem State.signal_turn (s : State) (id : CoreId) : (s.signal id).turn = s.turn := rfl
@[simp] theorem State.signal_cur (s : State) (id : CoreId) : (s.signal id).cur = s.cur := rfl
@[simp] theorem State.signal_boot (s : State) (id : CoreId) : (s.signal id).boot = s.boot := rfl
@[simp] theorem State.signal_part (s : State) (id : CoreId) : (s.signal id).part = s.part := rfl
@[simp] theorem State.signal_panel (s : State) (id : CoreId) : (s.signal id).panel = s.panel := rfl
@[simp] theorem State.signal_idSet (s : State) (id : CoreId) : (s.signal id).idSet = s.idSet := rfl
@[simp] theorem State.signal_hold (s : State) (id : CoreId) : (s.signal id).hold = s.hold := rfl
@[simp] theorem State.signal_dram (s : State) (id : CoreId) : (s.signal id).dram = s.dram := rfl
@[simp] theorem State.signal_homeCache (s : State) (id : CoreId) : (s.signal id).homeCache = s.homeCache := rfl
@[simp] theorem State.signal_mailbox (s : State) (id : CoreId) : (s.signal id).mailbox = s.mailbox := rfl
@[simp] theorem State.signal_cells (s : State) (id : CoreId) : (s.signal id).cells = s.cells := rfl
@[simp] theorem State.signal_dies (s : State) (id : CoreId) : (s.signal id).dies = s.dies := rfl
@[simp] theorem State.signal_stackTbl (s : State) (id : CoreId) : (s.signal id).stackTbl = s.stackTbl := rfl
@[simp] theorem State.signal_members (s : State) (id : CoreId) : (s.signal id).members = s.members := rfl
@[simp] theorem State.signal_batches (s : State) (id : CoreId) : (s.signal id).batches = s.batches := rfl
@[simp] theorem State.signal_phases (s : State) (id : CoreId) : (s.signal id).phases = s.phases := rfl
@[simp] theorem State.signal_late (s : State) (id : CoreId) : (s.signal id).late = s.late := rfl
@[simp] theorem State.signal_binds (s : State) (id : CoreId) : (s.signal id).binds = s.binds := rfl
@[simp] theorem State.signal_queues (s : State) (id : CoreId) : (s.signal id).queues = s.queues := rfl
@[simp] theorem State.signal_regions (s : State) (id : CoreId) : (s.signal id).regions = s.regions := rfl
@[simp] theorem State.signal_windows (s : State) (id : CoreId) : (s.signal id).windows = s.windows := rfl
@[simp] theorem State.signal_ioSets (s : State) (id : CoreId) : (s.signal id).ioSets = s.ioSets := rfl
@[simp] theorem State.signal_eventRing (s : State) (id : CoreId) : (s.signal id).eventRing = s.eventRing := rfl
@[simp] theorem State.signal_eventSerial (s : State) (id : CoreId) : (s.signal id).eventSerial = s.eventSerial := rfl
@[simp] theorem State.signal_qps (s : State) (id : CoreId) : (s.signal id).qps = s.qps := rfl
@[simp] theorem State.signal_dropped (s : State) (id : CoreId) : (s.signal id).dropped = s.dropped := rfl
@[simp] theorem State.signal_paused (s : State) (id : CoreId) : (s.signal id).paused = s.paused := rfl
@[simp] theorem State.signal_outbound (s : State) (id : CoreId) : (s.signal id).outbound = s.outbound := rfl
@[simp] theorem State.signal_tx (s : State) (id : CoreId) : (s.signal id).tx = s.tx := rfl
@[simp] theorem State.signal_nextId (s : State) (id : CoreId) : (s.signal id).nextId = s.nextId := rfl
@[simp] theorem State.signal_temps (s : State) (id : CoreId) : (s.signal id).temps = s.temps := rfl
@[simp] theorem State.signal_budget (s : State) (id : CoreId) : (s.signal id).budget = s.budget := rfl
@[simp] theorem State.signal_ceTotal (s : State) (id : CoreId) : (s.signal id).ceTotal = s.ceTotal := rfl
@[simp] theorem State.signal_ueTotal (s : State) (id : CoreId) : (s.signal id).ueTotal = s.ueTotal := rfl

@[simp] theorem State.tick_schedule (s : State) : (s.tick).schedule = s.schedule := rfl
@[simp] theorem State.tick_turn (s : State) : (s.tick).turn = s.turn := rfl
@[simp] theorem State.tick_cur (s : State) : (s.tick).cur = s.cur := rfl
@[simp] theorem State.tick_boot (s : State) : (s.tick).boot = s.boot := rfl
@[simp] theorem State.tick_part (s : State) : (s.tick).part = s.part := rfl
@[simp] theorem State.tick_panel (s : State) : (s.tick).panel = s.panel := rfl
@[simp] theorem State.tick_idSet (s : State) : (s.tick).idSet = s.idSet := rfl
@[simp] theorem State.tick_cores (s : State) : (s.tick).cores = s.cores := rfl
@[simp] theorem State.tick_hold (s : State) : (s.tick).hold = s.hold := rfl
@[simp] theorem State.tick_dram (s : State) : (s.tick).dram = s.dram := rfl
@[simp] theorem State.tick_homeCache (s : State) : (s.tick).homeCache = s.homeCache := rfl
@[simp] theorem State.tick_mailbox (s : State) : (s.tick).mailbox = s.mailbox := rfl
@[simp] theorem State.tick_dies (s : State) : (s.tick).dies = s.dies := rfl
@[simp] theorem State.tick_stackTbl (s : State) : (s.tick).stackTbl = s.stackTbl := rfl
@[simp] theorem State.tick_members (s : State) : (s.tick).members = s.members := rfl
@[simp] theorem State.tick_batches (s : State) : (s.tick).batches = s.batches := rfl
@[simp] theorem State.tick_phases (s : State) : (s.tick).phases = s.phases := rfl
@[simp] theorem State.tick_late (s : State) : (s.tick).late = s.late := rfl
@[simp] theorem State.tick_binds (s : State) : (s.tick).binds = s.binds := rfl
@[simp] theorem State.tick_queues (s : State) : (s.tick).queues = s.queues := rfl
@[simp] theorem State.tick_regions (s : State) : (s.tick).regions = s.regions := rfl
@[simp] theorem State.tick_windows (s : State) : (s.tick).windows = s.windows := rfl
@[simp] theorem State.tick_ioSets (s : State) : (s.tick).ioSets = s.ioSets := rfl
@[simp] theorem State.tick_eventRing (s : State) : (s.tick).eventRing = s.eventRing := rfl
@[simp] theorem State.tick_eventSerial (s : State) : (s.tick).eventSerial = s.eventSerial := rfl
@[simp] theorem State.tick_qps (s : State) : (s.tick).qps = s.qps := rfl
@[simp] theorem State.tick_dropped (s : State) : (s.tick).dropped = s.dropped := rfl
@[simp] theorem State.tick_paused (s : State) : (s.tick).paused = s.paused := rfl
@[simp] theorem State.tick_outbound (s : State) : (s.tick).outbound = s.outbound := rfl
@[simp] theorem State.tick_tx (s : State) : (s.tick).tx = s.tx := rfl
@[simp] theorem State.tick_nextId (s : State) : (s.tick).nextId = s.nextId := rfl
@[simp] theorem State.tick_temps (s : State) : (s.tick).temps = s.temps := rfl
@[simp] theorem State.tick_budget (s : State) : (s.tick).budget = s.budget := rfl
@[simp] theorem State.tick_ceTotal (s : State) : (s.tick).ceTotal = s.ceTotal := rfl
@[simp] theorem State.tick_ueTotal (s : State) : (s.tick).ueTotal = s.ueTotal := rfl

@[simp] theorem Core.setV_id (c : Core) (n : Nat) (x : BitVec 1024) : (c.setV n x).id = c.id := by unfold Core.setV; split <;> rfl
@[simp] theorem Core.setV_crew (c : Core) (n : Nat) (x : BitVec 1024) : (c.setV n x).crew = c.crew := by unfold Core.setV; split <;> rfl
@[simp] theorem Core.setV_level (c : Core) (n : Nat) (x : BitVec 1024) : (c.setV n x).level = c.level := by unfold Core.setV; split <;> rfl
@[simp] theorem Core.setV_g (c : Core) (n : Nat) (x : BitVec 1024) : (c.setV n x).g = c.g := by unfold Core.setV; split <;> rfl
@[simp] theorem Core.setV_m (c : Core) (n : Nat) (x : BitVec 1024) : (c.setV n x).m = c.m := by unfold Core.setV; split <;> rfl
@[simp] theorem Core.setV_y (c : Core) (n : Nat) (x : BitVec 1024) : (c.setV n x).y = c.y := by unfold Core.setV; split <;> rfl
@[simp] theorem Core.setV_dtab (c : Core) (n : Nat) (x : BitVec 1024) : (c.setV n x).dtab = c.dtab := by unfold Core.setV; split <;> rfl
@[simp] theorem Core.setV_lq (c : Core) (n : Nat) (x : BitVec 1024) : (c.setV n x).lq = c.lq := by unfold Core.setV; split <;> rfl
@[simp] theorem Core.setV_pc (c : Core) (n : Nat) (x : BitVec 1024) : (c.setV n x).pc = c.pc := by unfold Core.setV; split <;> rfl
@[simp] theorem Core.setV_frm (c : Core) (n : Nat) (x : BitVec 1024) : (c.setV n x).frm = c.frm := by unfold Core.setV; split <;> rfl
@[simp] theorem Core.setV_fflags (c : Core) (n : Nat) (x : BitVec 1024) : (c.setV n x).fflags = c.fflags := by unfold Core.setV; split <;> rfl
@[simp] theorem Core.setV_tvec (c : Core) (n : Nat) (x : BitVec 1024) : (c.setV n x).tvec = c.tvec := by unfold Core.setV; split <;> rfl
@[simp] theorem Core.setV_epc (c : Core) (n : Nat) (x : BitVec 1024) : (c.setV n x).epc = c.epc := by unfold Core.setV; split <;> rfl
@[simp] theorem Core.setV_cause (c : Core) (n : Nat) (x : BitVec 1024) : (c.setV n x).cause = c.cause := by unfold Core.setV; split <;> rfl
@[simp] theorem Core.setV_eaddr (c : Core) (n : Nat) (x : BitVec 1024) : (c.setV n x).eaddr = c.eaddr := by unfold Core.setV; split <;> rfl
@[simp] theorem Core.setV_eelem (c : Core) (n : Nat) (x : BitVec 1024) : (c.setV n x).eelem = c.eelem := by unfold Core.setV; split <;> rfl
@[simp] theorem Core.setV_moved (c : Core) (n : Nat) (x : BitVec 1024) : (c.setV n x).moved = c.moved := by unfold Core.setV; split <;> rfl
@[simp] theorem Core.setV_scratch (c : Core) (n : Nat) (x : BitVec 1024) : (c.setV n x).scratch = c.scratch := by unfold Core.setV; split <;> rfl
@[simp] theorem Core.setV_vl (c : Core) (n : Nat) (x : BitVec 1024) : (c.setV n x).vl = c.vl := by unfold Core.setV; split <;> rfl
@[simp] theorem Core.setV_rc (c : Core) (n : Nat) (x : BitVec 1024) : (c.setV n x).rc = c.rc := by unfold Core.setV; split <;> rfl
@[simp] theorem Core.setV_ill (c : Core) (n : Nat) (x : BitVec 1024) : (c.setV n x).ill = c.ill := by unfold Core.setV; split <;> rfl
@[simp] theorem Core.setV_glog (c : Core) (n : Nat) (x : BitVec 1024) : (c.setV n x).glog = c.glog := by unfold Core.setV; split <;> rfl
@[simp] theorem Core.setV_fmt (c : Core) (n : Nat) (x : BitVec 1024) : (c.setV n x).fmt = c.fmt := by unfold Core.setV; split <;> rfl
@[simp] theorem Core.setV_ckpt (c : Core) (n : Nat) (x : BitVec 1024) : (c.setV n x).ckpt = c.ckpt := by unfold Core.setV; split <;> rfl
@[simp] theorem Core.setV_grant (c : Core) (n : Nat) (x : BitVec 1024) : (c.setV n x).grant = c.grant := by unfold Core.setV; split <;> rfl
@[simp] theorem Core.setV_split (c : Core) (n : Nat) (x : BitVec 1024) : (c.setV n x).split = c.split := by unfold Core.setV; split <;> rfl
@[simp] theorem Core.setV_crewReg (c : Core) (n : Nat) (x : BitVec 1024) : (c.setV n x).crewReg = c.crewReg := by unfold Core.setV; split <;> rfl
@[simp] theorem Core.setV_rank (c : Core) (n : Nat) (x : BitVec 1024) : (c.setV n x).rank = c.rank := by unfold Core.setV; split <;> rfl
@[simp] theorem Core.setV_holdsize (c : Core) (n : Nat) (x : BitVec 1024) : (c.setV n x).holdsize = c.holdsize := by unfold Core.setV; split <;> rfl
@[simp] theorem Core.setV_holdbase (c : Core) (n : Nat) (x : BitVec 1024) : (c.setV n x).holdbase = c.holdbase := by unfold Core.setV; split <;> rfl
@[simp] theorem Core.setV_cellphys (c : Core) (n : Nat) (x : BitVec 1024) : (c.setV n x).cellphys = c.cellphys := by unfold Core.setV; split <;> rfl
@[simp] theorem Core.setV_energy (c : Core) (n : Nat) (x : BitVec 1024) : (c.setV n x).energy = c.energy := by unfold Core.setV; split <;> rfl
@[simp] theorem Core.setV_st (c : Core) (n : Nat) (x : BitVec 1024) : (c.setV n x).st = c.st := by unfold Core.setV; split <;> rfl
@[simp] theorem Core.setV_strip (c : Core) (n : Nat) (x : BitVec 1024) : (c.setV n x).strip = c.strip := by unfold Core.setV; split <;> rfl
@[simp] theorem Core.setV_stepwise (c : Core) (n : Nat) (x : BitVec 1024) : (c.setV n x).stepwise = c.stepwise := by unfold Core.setV; split <;> rfl
@[simp] theorem Core.setV_around (c : Core) (n : Nat) (x : BitVec 1024) : (c.setV n x).around = c.around := by unfold Core.setV; split <;> rfl
@[simp] theorem Core.setV_frame (c : Core) (n : Nat) (x : BitVec 1024) : (c.setV n x).frame = c.frame := by unfold Core.setV; split <;> rfl
@[simp] theorem Core.setV_latch (c : Core) (n : Nat) (x : BitVec 1024) : (c.setV n x).latch = c.latch := by unfold Core.setV; split <;> rfl
@[simp] theorem Core.setV_wait (c : Core) (n : Nat) (x : BitVec 1024) : (c.setV n x).wait = c.wait := by unfold Core.setV; split <;> rfl
@[simp] theorem Core.setV_laneWaits (c : Core) (n : Nat) (x : BitVec 1024) : (c.setV n x).laneWaits = c.laneWaits := by unfold Core.setV; split <;> rfl
@[simp] theorem Core.setV_ckptKept (c : Core) (n : Nat) (x : BitVec 1024) : (c.setV n x).ckptKept = c.ckptKept := by unfold Core.setV; split <;> rfl
@[simp] theorem Core.setV_parked (c : Core) (n : Nat) (x : BitVec 1024) : (c.setV n x).parked = c.parked := by unfold Core.setV; split <;> rfl
@[simp] theorem Core.setV_pending (c : Core) (n : Nat) (x : BitVec 1024) : (c.setV n x).pending = c.pending := by unfold Core.setV; split <;> rfl
@[simp] theorem Core.setV_request (c : Core) (n : Nat) (x : BitVec 1024) : (c.setV n x).request = c.request := by unfold Core.setV; split <;> rfl
@[simp] theorem Core.setV_target (c : Core) (n : Nat) (x : BitVec 1024) : (c.setV n x).target = c.target := by unfold Core.setV; split <;> rfl
@[simp] theorem Core.setV_stopAsked (c : Core) (n : Nat) (x : BitVec 1024) : (c.setV n x).stopAsked = c.stopAsked := by unfold Core.setV; split <;> rfl
@[simp] theorem Core.setV_stopped (c : Core) (n : Nat) (x : BitVec 1024) : (c.setV n x).stopped = c.stopped := by unfold Core.setV; split <;> rfl
@[simp] theorem Core.setV_cbars (c : Core) (n : Nat) (x : BitVec 1024) : (c.setV n x).cbars = c.cbars := by unfold Core.setV; split <;> rfl
@[simp] theorem Core.setV_tbars (c : Core) (n : Nat) (x : BitVec 1024) : (c.setV n x).tbars = c.tbars := by unfold Core.setV; split <;> rfl
@[simp] theorem Core.setV_released (c : Core) (n : Nat) (x : BitVec 1024) : (c.setV n x).released = c.released := by unfold Core.setV; split <;> rfl
@[simp] theorem Core.setV_share (c : Core) (n : Nat) (x : BitVec 1024) : (c.setV n x).share = c.share := by unfold Core.setV; split <;> rfl
@[simp] theorem Core.setV_dbg (c : Core) (n : Nat) (x : BitVec 1024) : (c.setV n x).dbg = c.dbg := by unfold Core.setV; split <;> rfl
@[simp] theorem Core.setV_dbgCount (c : Core) (n : Nat) (x : BitVec 1024) : (c.setV n x).dbgCount = c.dbgCount := by unfold Core.setV; split <;> rfl
@[simp] theorem Core.setV_code (c : Core) (n : Nat) (x : BitVec 1024) : (c.setV n x).code = c.code := by unfold Core.setV; split <;> rfl
@[simp] theorem Core.setV_fetched (c : Core) (n : Nat) (x : BitVec 1024) : (c.setV n x).fetched = c.fetched := by unfold Core.setV; split <;> rfl
@[simp] theorem Core.setV_remote (c : Core) (n : Nat) (x : BitVec 1024) : (c.setV n x).remote = c.remote := by unfold Core.setV; split <;> rfl
@[simp] theorem Core.setV_readySince (c : Core) (n : Nat) (x : BitVec 1024) : (c.setV n x).readySince = c.readySince := by unfold Core.setV; split <;> rfl

@[simp] theorem Core.setM_id (c : Core) (n : Nat) (x : BitVec 512) : (c.setM n x).id = c.id := by unfold Core.setM; (repeat' split) <;> rfl
@[simp] theorem Core.setM_crew (c : Core) (n : Nat) (x : BitVec 512) : (c.setM n x).crew = c.crew := by unfold Core.setM; (repeat' split) <;> rfl
@[simp] theorem Core.setM_level (c : Core) (n : Nat) (x : BitVec 512) : (c.setM n x).level = c.level := by unfold Core.setM; (repeat' split) <;> rfl
@[simp] theorem Core.setM_g (c : Core) (n : Nat) (x : BitVec 512) : (c.setM n x).g = c.g := by unfold Core.setM; (repeat' split) <;> rfl
@[simp] theorem Core.setM_v (c : Core) (n : Nat) (x : BitVec 512) : (c.setM n x).v = c.v := by unfold Core.setM; (repeat' split) <;> rfl
@[simp] theorem Core.setM_y (c : Core) (n : Nat) (x : BitVec 512) : (c.setM n x).y = c.y := by unfold Core.setM; (repeat' split) <;> rfl
@[simp] theorem Core.setM_dtab (c : Core) (n : Nat) (x : BitVec 512) : (c.setM n x).dtab = c.dtab := by unfold Core.setM; (repeat' split) <;> rfl
@[simp] theorem Core.setM_lq (c : Core) (n : Nat) (x : BitVec 512) : (c.setM n x).lq = c.lq := by unfold Core.setM; (repeat' split) <;> rfl
@[simp] theorem Core.setM_pc (c : Core) (n : Nat) (x : BitVec 512) : (c.setM n x).pc = c.pc := by unfold Core.setM; (repeat' split) <;> rfl
@[simp] theorem Core.setM_frm (c : Core) (n : Nat) (x : BitVec 512) : (c.setM n x).frm = c.frm := by unfold Core.setM; (repeat' split) <;> rfl
@[simp] theorem Core.setM_fflags (c : Core) (n : Nat) (x : BitVec 512) : (c.setM n x).fflags = c.fflags := by unfold Core.setM; (repeat' split) <;> rfl
@[simp] theorem Core.setM_tvec (c : Core) (n : Nat) (x : BitVec 512) : (c.setM n x).tvec = c.tvec := by unfold Core.setM; (repeat' split) <;> rfl
@[simp] theorem Core.setM_epc (c : Core) (n : Nat) (x : BitVec 512) : (c.setM n x).epc = c.epc := by unfold Core.setM; (repeat' split) <;> rfl
@[simp] theorem Core.setM_cause (c : Core) (n : Nat) (x : BitVec 512) : (c.setM n x).cause = c.cause := by unfold Core.setM; (repeat' split) <;> rfl
@[simp] theorem Core.setM_eaddr (c : Core) (n : Nat) (x : BitVec 512) : (c.setM n x).eaddr = c.eaddr := by unfold Core.setM; (repeat' split) <;> rfl
@[simp] theorem Core.setM_eelem (c : Core) (n : Nat) (x : BitVec 512) : (c.setM n x).eelem = c.eelem := by unfold Core.setM; (repeat' split) <;> rfl
@[simp] theorem Core.setM_moved (c : Core) (n : Nat) (x : BitVec 512) : (c.setM n x).moved = c.moved := by unfold Core.setM; (repeat' split) <;> rfl
@[simp] theorem Core.setM_scratch (c : Core) (n : Nat) (x : BitVec 512) : (c.setM n x).scratch = c.scratch := by unfold Core.setM; (repeat' split) <;> rfl
@[simp] theorem Core.setM_vl (c : Core) (n : Nat) (x : BitVec 512) : (c.setM n x).vl = c.vl := by unfold Core.setM; (repeat' split) <;> rfl
@[simp] theorem Core.setM_rc (c : Core) (n : Nat) (x : BitVec 512) : (c.setM n x).rc = c.rc := by unfold Core.setM; (repeat' split) <;> rfl
@[simp] theorem Core.setM_ill (c : Core) (n : Nat) (x : BitVec 512) : (c.setM n x).ill = c.ill := by unfold Core.setM; (repeat' split) <;> rfl
@[simp] theorem Core.setM_glog (c : Core) (n : Nat) (x : BitVec 512) : (c.setM n x).glog = c.glog := by unfold Core.setM; (repeat' split) <;> rfl
@[simp] theorem Core.setM_fmt (c : Core) (n : Nat) (x : BitVec 512) : (c.setM n x).fmt = c.fmt := by unfold Core.setM; (repeat' split) <;> rfl
@[simp] theorem Core.setM_ckpt (c : Core) (n : Nat) (x : BitVec 512) : (c.setM n x).ckpt = c.ckpt := by unfold Core.setM; (repeat' split) <;> rfl
@[simp] theorem Core.setM_grant (c : Core) (n : Nat) (x : BitVec 512) : (c.setM n x).grant = c.grant := by unfold Core.setM; (repeat' split) <;> rfl
@[simp] theorem Core.setM_split (c : Core) (n : Nat) (x : BitVec 512) : (c.setM n x).split = c.split := by unfold Core.setM; (repeat' split) <;> rfl
@[simp] theorem Core.setM_crewReg (c : Core) (n : Nat) (x : BitVec 512) : (c.setM n x).crewReg = c.crewReg := by unfold Core.setM; (repeat' split) <;> rfl
@[simp] theorem Core.setM_rank (c : Core) (n : Nat) (x : BitVec 512) : (c.setM n x).rank = c.rank := by unfold Core.setM; (repeat' split) <;> rfl
@[simp] theorem Core.setM_holdsize (c : Core) (n : Nat) (x : BitVec 512) : (c.setM n x).holdsize = c.holdsize := by unfold Core.setM; (repeat' split) <;> rfl
@[simp] theorem Core.setM_holdbase (c : Core) (n : Nat) (x : BitVec 512) : (c.setM n x).holdbase = c.holdbase := by unfold Core.setM; (repeat' split) <;> rfl
@[simp] theorem Core.setM_cellphys (c : Core) (n : Nat) (x : BitVec 512) : (c.setM n x).cellphys = c.cellphys := by unfold Core.setM; (repeat' split) <;> rfl
@[simp] theorem Core.setM_energy (c : Core) (n : Nat) (x : BitVec 512) : (c.setM n x).energy = c.energy := by unfold Core.setM; (repeat' split) <;> rfl
@[simp] theorem Core.setM_st (c : Core) (n : Nat) (x : BitVec 512) : (c.setM n x).st = c.st := by unfold Core.setM; (repeat' split) <;> rfl
@[simp] theorem Core.setM_strip (c : Core) (n : Nat) (x : BitVec 512) : (c.setM n x).strip = c.strip := by unfold Core.setM; (repeat' split) <;> rfl
@[simp] theorem Core.setM_stepwise (c : Core) (n : Nat) (x : BitVec 512) : (c.setM n x).stepwise = c.stepwise := by unfold Core.setM; (repeat' split) <;> rfl
@[simp] theorem Core.setM_around (c : Core) (n : Nat) (x : BitVec 512) : (c.setM n x).around = c.around := by unfold Core.setM; (repeat' split) <;> rfl
@[simp] theorem Core.setM_frame (c : Core) (n : Nat) (x : BitVec 512) : (c.setM n x).frame = c.frame := by unfold Core.setM; (repeat' split) <;> rfl
@[simp] theorem Core.setM_latch (c : Core) (n : Nat) (x : BitVec 512) : (c.setM n x).latch = c.latch := by unfold Core.setM; (repeat' split) <;> rfl
@[simp] theorem Core.setM_wait (c : Core) (n : Nat) (x : BitVec 512) : (c.setM n x).wait = c.wait := by unfold Core.setM; (repeat' split) <;> rfl
@[simp] theorem Core.setM_laneWaits (c : Core) (n : Nat) (x : BitVec 512) : (c.setM n x).laneWaits = c.laneWaits := by unfold Core.setM; (repeat' split) <;> rfl
@[simp] theorem Core.setM_ckptKept (c : Core) (n : Nat) (x : BitVec 512) : (c.setM n x).ckptKept = c.ckptKept := by unfold Core.setM; (repeat' split) <;> rfl
@[simp] theorem Core.setM_parked (c : Core) (n : Nat) (x : BitVec 512) : (c.setM n x).parked = c.parked := by unfold Core.setM; (repeat' split) <;> rfl
@[simp] theorem Core.setM_pending (c : Core) (n : Nat) (x : BitVec 512) : (c.setM n x).pending = c.pending := by unfold Core.setM; (repeat' split) <;> rfl
@[simp] theorem Core.setM_request (c : Core) (n : Nat) (x : BitVec 512) : (c.setM n x).request = c.request := by unfold Core.setM; (repeat' split) <;> rfl
@[simp] theorem Core.setM_target (c : Core) (n : Nat) (x : BitVec 512) : (c.setM n x).target = c.target := by unfold Core.setM; (repeat' split) <;> rfl
@[simp] theorem Core.setM_stopAsked (c : Core) (n : Nat) (x : BitVec 512) : (c.setM n x).stopAsked = c.stopAsked := by unfold Core.setM; (repeat' split) <;> rfl
@[simp] theorem Core.setM_stopped (c : Core) (n : Nat) (x : BitVec 512) : (c.setM n x).stopped = c.stopped := by unfold Core.setM; (repeat' split) <;> rfl
@[simp] theorem Core.setM_cbars (c : Core) (n : Nat) (x : BitVec 512) : (c.setM n x).cbars = c.cbars := by unfold Core.setM; (repeat' split) <;> rfl
@[simp] theorem Core.setM_tbars (c : Core) (n : Nat) (x : BitVec 512) : (c.setM n x).tbars = c.tbars := by unfold Core.setM; (repeat' split) <;> rfl
@[simp] theorem Core.setM_released (c : Core) (n : Nat) (x : BitVec 512) : (c.setM n x).released = c.released := by unfold Core.setM; (repeat' split) <;> rfl
@[simp] theorem Core.setM_share (c : Core) (n : Nat) (x : BitVec 512) : (c.setM n x).share = c.share := by unfold Core.setM; (repeat' split) <;> rfl
@[simp] theorem Core.setM_dbg (c : Core) (n : Nat) (x : BitVec 512) : (c.setM n x).dbg = c.dbg := by unfold Core.setM; (repeat' split) <;> rfl
@[simp] theorem Core.setM_dbgCount (c : Core) (n : Nat) (x : BitVec 512) : (c.setM n x).dbgCount = c.dbgCount := by unfold Core.setM; (repeat' split) <;> rfl
@[simp] theorem Core.setM_code (c : Core) (n : Nat) (x : BitVec 512) : (c.setM n x).code = c.code := by unfold Core.setM; (repeat' split) <;> rfl
@[simp] theorem Core.setM_fetched (c : Core) (n : Nat) (x : BitVec 512) : (c.setM n x).fetched = c.fetched := by unfold Core.setM; (repeat' split) <;> rfl
@[simp] theorem Core.setM_remote (c : Core) (n : Nat) (x : BitVec 512) : (c.setM n x).remote = c.remote := by unfold Core.setM; (repeat' split) <;> rfl
@[simp] theorem Core.setM_readySince (c : Core) (n : Nat) (x : BitVec 512) : (c.setM n x).readySince = c.readySince := by unfold Core.setM; (repeat' split) <;> rfl

@[simp] theorem Core.setY_id (c : Core) (n : Nat) (x : BitVec 8192) : (c.setY n x).id = c.id := by unfold Core.setY; split <;> rfl
@[simp] theorem Core.setY_crew (c : Core) (n : Nat) (x : BitVec 8192) : (c.setY n x).crew = c.crew := by unfold Core.setY; split <;> rfl
@[simp] theorem Core.setY_level (c : Core) (n : Nat) (x : BitVec 8192) : (c.setY n x).level = c.level := by unfold Core.setY; split <;> rfl
@[simp] theorem Core.setY_g (c : Core) (n : Nat) (x : BitVec 8192) : (c.setY n x).g = c.g := by unfold Core.setY; split <;> rfl
@[simp] theorem Core.setY_v (c : Core) (n : Nat) (x : BitVec 8192) : (c.setY n x).v = c.v := by unfold Core.setY; split <;> rfl
@[simp] theorem Core.setY_m (c : Core) (n : Nat) (x : BitVec 8192) : (c.setY n x).m = c.m := by unfold Core.setY; split <;> rfl
@[simp] theorem Core.setY_dtab (c : Core) (n : Nat) (x : BitVec 8192) : (c.setY n x).dtab = c.dtab := by unfold Core.setY; split <;> rfl
@[simp] theorem Core.setY_lq (c : Core) (n : Nat) (x : BitVec 8192) : (c.setY n x).lq = c.lq := by unfold Core.setY; split <;> rfl
@[simp] theorem Core.setY_pc (c : Core) (n : Nat) (x : BitVec 8192) : (c.setY n x).pc = c.pc := by unfold Core.setY; split <;> rfl
@[simp] theorem Core.setY_frm (c : Core) (n : Nat) (x : BitVec 8192) : (c.setY n x).frm = c.frm := by unfold Core.setY; split <;> rfl
@[simp] theorem Core.setY_fflags (c : Core) (n : Nat) (x : BitVec 8192) : (c.setY n x).fflags = c.fflags := by unfold Core.setY; split <;> rfl
@[simp] theorem Core.setY_tvec (c : Core) (n : Nat) (x : BitVec 8192) : (c.setY n x).tvec = c.tvec := by unfold Core.setY; split <;> rfl
@[simp] theorem Core.setY_epc (c : Core) (n : Nat) (x : BitVec 8192) : (c.setY n x).epc = c.epc := by unfold Core.setY; split <;> rfl
@[simp] theorem Core.setY_cause (c : Core) (n : Nat) (x : BitVec 8192) : (c.setY n x).cause = c.cause := by unfold Core.setY; split <;> rfl
@[simp] theorem Core.setY_eaddr (c : Core) (n : Nat) (x : BitVec 8192) : (c.setY n x).eaddr = c.eaddr := by unfold Core.setY; split <;> rfl
@[simp] theorem Core.setY_eelem (c : Core) (n : Nat) (x : BitVec 8192) : (c.setY n x).eelem = c.eelem := by unfold Core.setY; split <;> rfl
@[simp] theorem Core.setY_moved (c : Core) (n : Nat) (x : BitVec 8192) : (c.setY n x).moved = c.moved := by unfold Core.setY; split <;> rfl
@[simp] theorem Core.setY_scratch (c : Core) (n : Nat) (x : BitVec 8192) : (c.setY n x).scratch = c.scratch := by unfold Core.setY; split <;> rfl
@[simp] theorem Core.setY_vl (c : Core) (n : Nat) (x : BitVec 8192) : (c.setY n x).vl = c.vl := by unfold Core.setY; split <;> rfl
@[simp] theorem Core.setY_rc (c : Core) (n : Nat) (x : BitVec 8192) : (c.setY n x).rc = c.rc := by unfold Core.setY; split <;> rfl
@[simp] theorem Core.setY_ill (c : Core) (n : Nat) (x : BitVec 8192) : (c.setY n x).ill = c.ill := by unfold Core.setY; split <;> rfl
@[simp] theorem Core.setY_glog (c : Core) (n : Nat) (x : BitVec 8192) : (c.setY n x).glog = c.glog := by unfold Core.setY; split <;> rfl
@[simp] theorem Core.setY_fmt (c : Core) (n : Nat) (x : BitVec 8192) : (c.setY n x).fmt = c.fmt := by unfold Core.setY; split <;> rfl
@[simp] theorem Core.setY_ckpt (c : Core) (n : Nat) (x : BitVec 8192) : (c.setY n x).ckpt = c.ckpt := by unfold Core.setY; split <;> rfl
@[simp] theorem Core.setY_grant (c : Core) (n : Nat) (x : BitVec 8192) : (c.setY n x).grant = c.grant := by unfold Core.setY; split <;> rfl
@[simp] theorem Core.setY_split (c : Core) (n : Nat) (x : BitVec 8192) : (c.setY n x).split = c.split := by unfold Core.setY; split <;> rfl
@[simp] theorem Core.setY_crewReg (c : Core) (n : Nat) (x : BitVec 8192) : (c.setY n x).crewReg = c.crewReg := by unfold Core.setY; split <;> rfl
@[simp] theorem Core.setY_rank (c : Core) (n : Nat) (x : BitVec 8192) : (c.setY n x).rank = c.rank := by unfold Core.setY; split <;> rfl
@[simp] theorem Core.setY_holdsize (c : Core) (n : Nat) (x : BitVec 8192) : (c.setY n x).holdsize = c.holdsize := by unfold Core.setY; split <;> rfl
@[simp] theorem Core.setY_holdbase (c : Core) (n : Nat) (x : BitVec 8192) : (c.setY n x).holdbase = c.holdbase := by unfold Core.setY; split <;> rfl
@[simp] theorem Core.setY_cellphys (c : Core) (n : Nat) (x : BitVec 8192) : (c.setY n x).cellphys = c.cellphys := by unfold Core.setY; split <;> rfl
@[simp] theorem Core.setY_energy (c : Core) (n : Nat) (x : BitVec 8192) : (c.setY n x).energy = c.energy := by unfold Core.setY; split <;> rfl
@[simp] theorem Core.setY_st (c : Core) (n : Nat) (x : BitVec 8192) : (c.setY n x).st = c.st := by unfold Core.setY; split <;> rfl
@[simp] theorem Core.setY_strip (c : Core) (n : Nat) (x : BitVec 8192) : (c.setY n x).strip = c.strip := by unfold Core.setY; split <;> rfl
@[simp] theorem Core.setY_stepwise (c : Core) (n : Nat) (x : BitVec 8192) : (c.setY n x).stepwise = c.stepwise := by unfold Core.setY; split <;> rfl
@[simp] theorem Core.setY_around (c : Core) (n : Nat) (x : BitVec 8192) : (c.setY n x).around = c.around := by unfold Core.setY; split <;> rfl
@[simp] theorem Core.setY_frame (c : Core) (n : Nat) (x : BitVec 8192) : (c.setY n x).frame = c.frame := by unfold Core.setY; split <;> rfl
@[simp] theorem Core.setY_latch (c : Core) (n : Nat) (x : BitVec 8192) : (c.setY n x).latch = c.latch := by unfold Core.setY; split <;> rfl
@[simp] theorem Core.setY_wait (c : Core) (n : Nat) (x : BitVec 8192) : (c.setY n x).wait = c.wait := by unfold Core.setY; split <;> rfl
@[simp] theorem Core.setY_laneWaits (c : Core) (n : Nat) (x : BitVec 8192) : (c.setY n x).laneWaits = c.laneWaits := by unfold Core.setY; split <;> rfl
@[simp] theorem Core.setY_ckptKept (c : Core) (n : Nat) (x : BitVec 8192) : (c.setY n x).ckptKept = c.ckptKept := by unfold Core.setY; split <;> rfl
@[simp] theorem Core.setY_parked (c : Core) (n : Nat) (x : BitVec 8192) : (c.setY n x).parked = c.parked := by unfold Core.setY; split <;> rfl
@[simp] theorem Core.setY_pending (c : Core) (n : Nat) (x : BitVec 8192) : (c.setY n x).pending = c.pending := by unfold Core.setY; split <;> rfl
@[simp] theorem Core.setY_request (c : Core) (n : Nat) (x : BitVec 8192) : (c.setY n x).request = c.request := by unfold Core.setY; split <;> rfl
@[simp] theorem Core.setY_target (c : Core) (n : Nat) (x : BitVec 8192) : (c.setY n x).target = c.target := by unfold Core.setY; split <;> rfl
@[simp] theorem Core.setY_stopAsked (c : Core) (n : Nat) (x : BitVec 8192) : (c.setY n x).stopAsked = c.stopAsked := by unfold Core.setY; split <;> rfl
@[simp] theorem Core.setY_stopped (c : Core) (n : Nat) (x : BitVec 8192) : (c.setY n x).stopped = c.stopped := by unfold Core.setY; split <;> rfl
@[simp] theorem Core.setY_cbars (c : Core) (n : Nat) (x : BitVec 8192) : (c.setY n x).cbars = c.cbars := by unfold Core.setY; split <;> rfl
@[simp] theorem Core.setY_tbars (c : Core) (n : Nat) (x : BitVec 8192) : (c.setY n x).tbars = c.tbars := by unfold Core.setY; split <;> rfl
@[simp] theorem Core.setY_released (c : Core) (n : Nat) (x : BitVec 8192) : (c.setY n x).released = c.released := by unfold Core.setY; split <;> rfl
@[simp] theorem Core.setY_share (c : Core) (n : Nat) (x : BitVec 8192) : (c.setY n x).share = c.share := by unfold Core.setY; split <;> rfl
@[simp] theorem Core.setY_dbg (c : Core) (n : Nat) (x : BitVec 8192) : (c.setY n x).dbg = c.dbg := by unfold Core.setY; split <;> rfl
@[simp] theorem Core.setY_dbgCount (c : Core) (n : Nat) (x : BitVec 8192) : (c.setY n x).dbgCount = c.dbgCount := by unfold Core.setY; split <;> rfl
@[simp] theorem Core.setY_code (c : Core) (n : Nat) (x : BitVec 8192) : (c.setY n x).code = c.code := by unfold Core.setY; split <;> rfl
@[simp] theorem Core.setY_fetched (c : Core) (n : Nat) (x : BitVec 8192) : (c.setY n x).fetched = c.fetched := by unfold Core.setY; split <;> rfl
@[simp] theorem Core.setY_remote (c : Core) (n : Nat) (x : BitVec 8192) : (c.setY n x).remote = c.remote := by unfold Core.setY; split <;> rfl
@[simp] theorem Core.setY_readySince (c : Core) (n : Nat) (x : BitVec 8192) : (c.setY n x).readySince = c.readySince := by unfold Core.setY; split <;> rfl

@[simp] theorem Core.setPc_id (c : Core) (a : Word) : (c.setPc a).id = c.id := by unfold Core.setPc; split <;> rfl
@[simp] theorem Core.setPc_crew (c : Core) (a : Word) : (c.setPc a).crew = c.crew := by unfold Core.setPc; split <;> rfl
@[simp] theorem Core.setPc_level (c : Core) (a : Word) : (c.setPc a).level = c.level := by unfold Core.setPc; split <;> rfl
@[simp] theorem Core.setPc_g (c : Core) (a : Word) : (c.setPc a).g = c.g := by unfold Core.setPc; split <;> rfl
@[simp] theorem Core.setPc_v (c : Core) (a : Word) : (c.setPc a).v = c.v := by unfold Core.setPc; split <;> rfl
@[simp] theorem Core.setPc_m (c : Core) (a : Word) : (c.setPc a).m = c.m := by unfold Core.setPc; split <;> rfl
@[simp] theorem Core.setPc_y (c : Core) (a : Word) : (c.setPc a).y = c.y := by unfold Core.setPc; split <;> rfl
@[simp] theorem Core.setPc_dtab (c : Core) (a : Word) : (c.setPc a).dtab = c.dtab := by unfold Core.setPc; split <;> rfl
@[simp] theorem Core.setPc_lq (c : Core) (a : Word) : (c.setPc a).lq = c.lq := by unfold Core.setPc; split <;> rfl
@[simp] theorem Core.setPc_frm (c : Core) (a : Word) : (c.setPc a).frm = c.frm := by unfold Core.setPc; split <;> rfl
@[simp] theorem Core.setPc_fflags (c : Core) (a : Word) : (c.setPc a).fflags = c.fflags := by unfold Core.setPc; split <;> rfl
@[simp] theorem Core.setPc_tvec (c : Core) (a : Word) : (c.setPc a).tvec = c.tvec := by unfold Core.setPc; split <;> rfl
@[simp] theorem Core.setPc_epc (c : Core) (a : Word) : (c.setPc a).epc = c.epc := by unfold Core.setPc; split <;> rfl
@[simp] theorem Core.setPc_cause (c : Core) (a : Word) : (c.setPc a).cause = c.cause := by unfold Core.setPc; split <;> rfl
@[simp] theorem Core.setPc_eaddr (c : Core) (a : Word) : (c.setPc a).eaddr = c.eaddr := by unfold Core.setPc; split <;> rfl
@[simp] theorem Core.setPc_eelem (c : Core) (a : Word) : (c.setPc a).eelem = c.eelem := by unfold Core.setPc; split <;> rfl
@[simp] theorem Core.setPc_moved (c : Core) (a : Word) : (c.setPc a).moved = c.moved := by unfold Core.setPc; split <;> rfl
@[simp] theorem Core.setPc_scratch (c : Core) (a : Word) : (c.setPc a).scratch = c.scratch := by unfold Core.setPc; split <;> rfl
@[simp] theorem Core.setPc_vl (c : Core) (a : Word) : (c.setPc a).vl = c.vl := by unfold Core.setPc; split <;> rfl
@[simp] theorem Core.setPc_rc (c : Core) (a : Word) : (c.setPc a).rc = c.rc := by unfold Core.setPc; split <;> rfl
@[simp] theorem Core.setPc_ill (c : Core) (a : Word) : (c.setPc a).ill = c.ill := by unfold Core.setPc; split <;> rfl
@[simp] theorem Core.setPc_glog (c : Core) (a : Word) : (c.setPc a).glog = c.glog := by unfold Core.setPc; split <;> rfl
@[simp] theorem Core.setPc_fmt (c : Core) (a : Word) : (c.setPc a).fmt = c.fmt := by unfold Core.setPc; split <;> rfl
@[simp] theorem Core.setPc_ckpt (c : Core) (a : Word) : (c.setPc a).ckpt = c.ckpt := by unfold Core.setPc; split <;> rfl
@[simp] theorem Core.setPc_grant (c : Core) (a : Word) : (c.setPc a).grant = c.grant := by unfold Core.setPc; split <;> rfl
@[simp] theorem Core.setPc_crewReg (c : Core) (a : Word) : (c.setPc a).crewReg = c.crewReg := by unfold Core.setPc; split <;> rfl
@[simp] theorem Core.setPc_rank (c : Core) (a : Word) : (c.setPc a).rank = c.rank := by unfold Core.setPc; split <;> rfl
@[simp] theorem Core.setPc_holdsize (c : Core) (a : Word) : (c.setPc a).holdsize = c.holdsize := by unfold Core.setPc; split <;> rfl
@[simp] theorem Core.setPc_holdbase (c : Core) (a : Word) : (c.setPc a).holdbase = c.holdbase := by unfold Core.setPc; split <;> rfl
@[simp] theorem Core.setPc_cellphys (c : Core) (a : Word) : (c.setPc a).cellphys = c.cellphys := by unfold Core.setPc; split <;> rfl
@[simp] theorem Core.setPc_energy (c : Core) (a : Word) : (c.setPc a).energy = c.energy := by unfold Core.setPc; split <;> rfl
@[simp] theorem Core.setPc_st (c : Core) (a : Word) : (c.setPc a).st = c.st := by unfold Core.setPc; split <;> rfl
@[simp] theorem Core.setPc_strip (c : Core) (a : Word) : (c.setPc a).strip = c.strip := by unfold Core.setPc; split <;> rfl
@[simp] theorem Core.setPc_stepwise (c : Core) (a : Word) : (c.setPc a).stepwise = c.stepwise := by unfold Core.setPc; split <;> rfl
@[simp] theorem Core.setPc_around (c : Core) (a : Word) : (c.setPc a).around = c.around := by unfold Core.setPc; split <;> rfl
@[simp] theorem Core.setPc_frame (c : Core) (a : Word) : (c.setPc a).frame = c.frame := by unfold Core.setPc; split <;> rfl
@[simp] theorem Core.setPc_latch (c : Core) (a : Word) : (c.setPc a).latch = c.latch := by unfold Core.setPc; split <;> rfl
@[simp] theorem Core.setPc_wait (c : Core) (a : Word) : (c.setPc a).wait = c.wait := by unfold Core.setPc; split <;> rfl
@[simp] theorem Core.setPc_laneWaits (c : Core) (a : Word) : (c.setPc a).laneWaits = c.laneWaits := by unfold Core.setPc; split <;> rfl
@[simp] theorem Core.setPc_ckptKept (c : Core) (a : Word) : (c.setPc a).ckptKept = c.ckptKept := by unfold Core.setPc; split <;> rfl
@[simp] theorem Core.setPc_parked (c : Core) (a : Word) : (c.setPc a).parked = c.parked := by unfold Core.setPc; split <;> rfl
@[simp] theorem Core.setPc_pending (c : Core) (a : Word) : (c.setPc a).pending = c.pending := by unfold Core.setPc; split <;> rfl
@[simp] theorem Core.setPc_request (c : Core) (a : Word) : (c.setPc a).request = c.request := by unfold Core.setPc; split <;> rfl
@[simp] theorem Core.setPc_target (c : Core) (a : Word) : (c.setPc a).target = c.target := by unfold Core.setPc; split <;> rfl
@[simp] theorem Core.setPc_stopAsked (c : Core) (a : Word) : (c.setPc a).stopAsked = c.stopAsked := by unfold Core.setPc; split <;> rfl
@[simp] theorem Core.setPc_stopped (c : Core) (a : Word) : (c.setPc a).stopped = c.stopped := by unfold Core.setPc; split <;> rfl
@[simp] theorem Core.setPc_cbars (c : Core) (a : Word) : (c.setPc a).cbars = c.cbars := by unfold Core.setPc; split <;> rfl
@[simp] theorem Core.setPc_tbars (c : Core) (a : Word) : (c.setPc a).tbars = c.tbars := by unfold Core.setPc; split <;> rfl
@[simp] theorem Core.setPc_released (c : Core) (a : Word) : (c.setPc a).released = c.released := by unfold Core.setPc; split <;> rfl
@[simp] theorem Core.setPc_share (c : Core) (a : Word) : (c.setPc a).share = c.share := by unfold Core.setPc; split <;> rfl
@[simp] theorem Core.setPc_dbg (c : Core) (a : Word) : (c.setPc a).dbg = c.dbg := by unfold Core.setPc; split <;> rfl
@[simp] theorem Core.setPc_dbgCount (c : Core) (a : Word) : (c.setPc a).dbgCount = c.dbgCount := by unfold Core.setPc; split <;> rfl
@[simp] theorem Core.setPc_code (c : Core) (a : Word) : (c.setPc a).code = c.code := by unfold Core.setPc; split <;> rfl
@[simp] theorem Core.setPc_fetched (c : Core) (a : Word) : (c.setPc a).fetched = c.fetched := by unfold Core.setPc; split <;> rfl
@[simp] theorem Core.setPc_remote (c : Core) (a : Word) : (c.setPc a).remote = c.remote := by unfold Core.setPc; split <;> rfl
@[simp] theorem Core.setPc_readySince (c : Core) (a : Word) : (c.setPc a).readySince = c.readySince := by unfold Core.setPc; split <;> rfl

@[simp] theorem Core.clearRemote_id (c : Core) : (c.clearRemote).id = c.id := rfl
@[simp] theorem Core.clearRemote_crew (c : Core) : (c.clearRemote).crew = c.crew := rfl
@[simp] theorem Core.clearRemote_level (c : Core) : (c.clearRemote).level = c.level := rfl
@[simp] theorem Core.clearRemote_g (c : Core) : (c.clearRemote).g = c.g := rfl
@[simp] theorem Core.clearRemote_v (c : Core) : (c.clearRemote).v = c.v := rfl
@[simp] theorem Core.clearRemote_m (c : Core) : (c.clearRemote).m = c.m := rfl
@[simp] theorem Core.clearRemote_y (c : Core) : (c.clearRemote).y = c.y := rfl
@[simp] theorem Core.clearRemote_dtab (c : Core) : (c.clearRemote).dtab = c.dtab := rfl
@[simp] theorem Core.clearRemote_lq (c : Core) : (c.clearRemote).lq = c.lq := rfl
@[simp] theorem Core.clearRemote_pc (c : Core) : (c.clearRemote).pc = c.pc := rfl
@[simp] theorem Core.clearRemote_frm (c : Core) : (c.clearRemote).frm = c.frm := rfl
@[simp] theorem Core.clearRemote_fflags (c : Core) : (c.clearRemote).fflags = c.fflags := rfl
@[simp] theorem Core.clearRemote_tvec (c : Core) : (c.clearRemote).tvec = c.tvec := rfl
@[simp] theorem Core.clearRemote_epc (c : Core) : (c.clearRemote).epc = c.epc := rfl
@[simp] theorem Core.clearRemote_cause (c : Core) : (c.clearRemote).cause = c.cause := rfl
@[simp] theorem Core.clearRemote_eaddr (c : Core) : (c.clearRemote).eaddr = c.eaddr := rfl
@[simp] theorem Core.clearRemote_eelem (c : Core) : (c.clearRemote).eelem = c.eelem := rfl
@[simp] theorem Core.clearRemote_moved (c : Core) : (c.clearRemote).moved = c.moved := rfl
@[simp] theorem Core.clearRemote_scratch (c : Core) : (c.clearRemote).scratch = c.scratch := rfl
@[simp] theorem Core.clearRemote_vl (c : Core) : (c.clearRemote).vl = c.vl := rfl
@[simp] theorem Core.clearRemote_rc (c : Core) : (c.clearRemote).rc = c.rc := rfl
@[simp] theorem Core.clearRemote_ill (c : Core) : (c.clearRemote).ill = c.ill := rfl
@[simp] theorem Core.clearRemote_glog (c : Core) : (c.clearRemote).glog = c.glog := rfl
@[simp] theorem Core.clearRemote_fmt (c : Core) : (c.clearRemote).fmt = c.fmt := rfl
@[simp] theorem Core.clearRemote_ckpt (c : Core) : (c.clearRemote).ckpt = c.ckpt := rfl
@[simp] theorem Core.clearRemote_grant (c : Core) : (c.clearRemote).grant = c.grant := rfl
@[simp] theorem Core.clearRemote_split (c : Core) : (c.clearRemote).split = c.split := rfl
@[simp] theorem Core.clearRemote_crewReg (c : Core) : (c.clearRemote).crewReg = c.crewReg := rfl
@[simp] theorem Core.clearRemote_rank (c : Core) : (c.clearRemote).rank = c.rank := rfl
@[simp] theorem Core.clearRemote_holdsize (c : Core) : (c.clearRemote).holdsize = c.holdsize := rfl
@[simp] theorem Core.clearRemote_holdbase (c : Core) : (c.clearRemote).holdbase = c.holdbase := rfl
@[simp] theorem Core.clearRemote_cellphys (c : Core) : (c.clearRemote).cellphys = c.cellphys := rfl
@[simp] theorem Core.clearRemote_energy (c : Core) : (c.clearRemote).energy = c.energy := rfl
@[simp] theorem Core.clearRemote_st (c : Core) : (c.clearRemote).st = c.st := rfl
@[simp] theorem Core.clearRemote_strip (c : Core) : (c.clearRemote).strip = c.strip := rfl
@[simp] theorem Core.clearRemote_stepwise (c : Core) : (c.clearRemote).stepwise = c.stepwise := rfl
@[simp] theorem Core.clearRemote_around (c : Core) : (c.clearRemote).around = c.around := rfl
@[simp] theorem Core.clearRemote_frame (c : Core) : (c.clearRemote).frame = c.frame := rfl
@[simp] theorem Core.clearRemote_latch (c : Core) : (c.clearRemote).latch = c.latch := rfl
@[simp] theorem Core.clearRemote_wait (c : Core) : (c.clearRemote).wait = c.wait := rfl
@[simp] theorem Core.clearRemote_laneWaits (c : Core) : (c.clearRemote).laneWaits = c.laneWaits := rfl
@[simp] theorem Core.clearRemote_ckptKept (c : Core) : (c.clearRemote).ckptKept = c.ckptKept := rfl
@[simp] theorem Core.clearRemote_parked (c : Core) : (c.clearRemote).parked = c.parked := rfl
@[simp] theorem Core.clearRemote_pending (c : Core) : (c.clearRemote).pending = c.pending := rfl
@[simp] theorem Core.clearRemote_request (c : Core) : (c.clearRemote).request = c.request := rfl
@[simp] theorem Core.clearRemote_target (c : Core) : (c.clearRemote).target = c.target := rfl
@[simp] theorem Core.clearRemote_stopAsked (c : Core) : (c.clearRemote).stopAsked = c.stopAsked := rfl
@[simp] theorem Core.clearRemote_stopped (c : Core) : (c.clearRemote).stopped = c.stopped := rfl
@[simp] theorem Core.clearRemote_cbars (c : Core) : (c.clearRemote).cbars = c.cbars := rfl
@[simp] theorem Core.clearRemote_tbars (c : Core) : (c.clearRemote).tbars = c.tbars := rfl
@[simp] theorem Core.clearRemote_released (c : Core) : (c.clearRemote).released = c.released := rfl
@[simp] theorem Core.clearRemote_share (c : Core) : (c.clearRemote).share = c.share := rfl
@[simp] theorem Core.clearRemote_dbg (c : Core) : (c.clearRemote).dbg = c.dbg := rfl
@[simp] theorem Core.clearRemote_dbgCount (c : Core) : (c.clearRemote).dbgCount = c.dbgCount := rfl
@[simp] theorem Core.clearRemote_code (c : Core) : (c.clearRemote).code = c.code := rfl
@[simp] theorem Core.clearRemote_fetched (c : Core) : (c.clearRemote).fetched = c.fetched := rfl
@[simp] theorem Core.clearRemote_readySince (c : Core) : (c.clearRemote).readySince = c.readySince := rfl

@[simp] theorem Core.clearLane_id (c : Core) : (c.clearLane).id = c.id := by unfold Core.clearLane; split <;> rfl
@[simp] theorem Core.clearLane_crew (c : Core) : (c.clearLane).crew = c.crew := by unfold Core.clearLane; split <;> rfl
@[simp] theorem Core.clearLane_level (c : Core) : (c.clearLane).level = c.level := by unfold Core.clearLane; split <;> rfl
@[simp] theorem Core.clearLane_g (c : Core) : (c.clearLane).g = c.g := by unfold Core.clearLane; split <;> rfl
@[simp] theorem Core.clearLane_v (c : Core) : (c.clearLane).v = c.v := by unfold Core.clearLane; split <;> rfl
@[simp] theorem Core.clearLane_m (c : Core) : (c.clearLane).m = c.m := by unfold Core.clearLane; split <;> rfl
@[simp] theorem Core.clearLane_y (c : Core) : (c.clearLane).y = c.y := by unfold Core.clearLane; split <;> rfl
@[simp] theorem Core.clearLane_dtab (c : Core) : (c.clearLane).dtab = c.dtab := by unfold Core.clearLane; split <;> rfl
@[simp] theorem Core.clearLane_lq (c : Core) : (c.clearLane).lq = c.lq := by unfold Core.clearLane; split <;> rfl
@[simp] theorem Core.clearLane_pc (c : Core) : (c.clearLane).pc = c.pc := by unfold Core.clearLane; split <;> rfl
@[simp] theorem Core.clearLane_frm (c : Core) : (c.clearLane).frm = c.frm := by unfold Core.clearLane; split <;> rfl
@[simp] theorem Core.clearLane_fflags (c : Core) : (c.clearLane).fflags = c.fflags := by unfold Core.clearLane; split <;> rfl
@[simp] theorem Core.clearLane_tvec (c : Core) : (c.clearLane).tvec = c.tvec := by unfold Core.clearLane; split <;> rfl
@[simp] theorem Core.clearLane_epc (c : Core) : (c.clearLane).epc = c.epc := by unfold Core.clearLane; split <;> rfl
@[simp] theorem Core.clearLane_cause (c : Core) : (c.clearLane).cause = c.cause := by unfold Core.clearLane; split <;> rfl
@[simp] theorem Core.clearLane_eaddr (c : Core) : (c.clearLane).eaddr = c.eaddr := by unfold Core.clearLane; split <;> rfl
@[simp] theorem Core.clearLane_eelem (c : Core) : (c.clearLane).eelem = c.eelem := by unfold Core.clearLane; split <;> rfl
@[simp] theorem Core.clearLane_moved (c : Core) : (c.clearLane).moved = c.moved := by unfold Core.clearLane; split <;> rfl
@[simp] theorem Core.clearLane_scratch (c : Core) : (c.clearLane).scratch = c.scratch := by unfold Core.clearLane; split <;> rfl
@[simp] theorem Core.clearLane_vl (c : Core) : (c.clearLane).vl = c.vl := by unfold Core.clearLane; split <;> rfl
@[simp] theorem Core.clearLane_rc (c : Core) : (c.clearLane).rc = c.rc := by unfold Core.clearLane; split <;> rfl
@[simp] theorem Core.clearLane_ill (c : Core) : (c.clearLane).ill = c.ill := by unfold Core.clearLane; split <;> rfl
@[simp] theorem Core.clearLane_glog (c : Core) : (c.clearLane).glog = c.glog := by unfold Core.clearLane; split <;> rfl
@[simp] theorem Core.clearLane_fmt (c : Core) : (c.clearLane).fmt = c.fmt := by unfold Core.clearLane; split <;> rfl
@[simp] theorem Core.clearLane_ckpt (c : Core) : (c.clearLane).ckpt = c.ckpt := by unfold Core.clearLane; split <;> rfl
@[simp] theorem Core.clearLane_grant (c : Core) : (c.clearLane).grant = c.grant := by unfold Core.clearLane; split <;> rfl
@[simp] theorem Core.clearLane_split (c : Core) : (c.clearLane).split = c.split := by unfold Core.clearLane; split <;> rfl
@[simp] theorem Core.clearLane_crewReg (c : Core) : (c.clearLane).crewReg = c.crewReg := by unfold Core.clearLane; split <;> rfl
@[simp] theorem Core.clearLane_rank (c : Core) : (c.clearLane).rank = c.rank := by unfold Core.clearLane; split <;> rfl
@[simp] theorem Core.clearLane_holdsize (c : Core) : (c.clearLane).holdsize = c.holdsize := by unfold Core.clearLane; split <;> rfl
@[simp] theorem Core.clearLane_holdbase (c : Core) : (c.clearLane).holdbase = c.holdbase := by unfold Core.clearLane; split <;> rfl
@[simp] theorem Core.clearLane_cellphys (c : Core) : (c.clearLane).cellphys = c.cellphys := by unfold Core.clearLane; split <;> rfl
@[simp] theorem Core.clearLane_energy (c : Core) : (c.clearLane).energy = c.energy := by unfold Core.clearLane; split <;> rfl
@[simp] theorem Core.clearLane_st (c : Core) : (c.clearLane).st = c.st := by unfold Core.clearLane; split <;> rfl
@[simp] theorem Core.clearLane_strip (c : Core) : (c.clearLane).strip = c.strip := by unfold Core.clearLane; split <;> rfl
@[simp] theorem Core.clearLane_stepwise (c : Core) : (c.clearLane).stepwise = c.stepwise := by unfold Core.clearLane; split <;> rfl
@[simp] theorem Core.clearLane_around (c : Core) : (c.clearLane).around = c.around := by unfold Core.clearLane; split <;> rfl
@[simp] theorem Core.clearLane_frame (c : Core) : (c.clearLane).frame = c.frame := by unfold Core.clearLane; split <;> rfl
@[simp] theorem Core.clearLane_latch (c : Core) : (c.clearLane).latch = c.latch := by unfold Core.clearLane; split <;> rfl
@[simp] theorem Core.clearLane_wait (c : Core) : (c.clearLane).wait = c.wait := by unfold Core.clearLane; split <;> rfl
@[simp] theorem Core.clearLane_ckptKept (c : Core) : (c.clearLane).ckptKept = c.ckptKept := by unfold Core.clearLane; split <;> rfl
@[simp] theorem Core.clearLane_parked (c : Core) : (c.clearLane).parked = c.parked := by unfold Core.clearLane; split <;> rfl
@[simp] theorem Core.clearLane_pending (c : Core) : (c.clearLane).pending = c.pending := by unfold Core.clearLane; split <;> rfl
@[simp] theorem Core.clearLane_request (c : Core) : (c.clearLane).request = c.request := by unfold Core.clearLane; split <;> rfl
@[simp] theorem Core.clearLane_target (c : Core) : (c.clearLane).target = c.target := by unfold Core.clearLane; split <;> rfl
@[simp] theorem Core.clearLane_stopAsked (c : Core) : (c.clearLane).stopAsked = c.stopAsked := by unfold Core.clearLane; split <;> rfl
@[simp] theorem Core.clearLane_stopped (c : Core) : (c.clearLane).stopped = c.stopped := by unfold Core.clearLane; split <;> rfl
@[simp] theorem Core.clearLane_cbars (c : Core) : (c.clearLane).cbars = c.cbars := by unfold Core.clearLane; split <;> rfl
@[simp] theorem Core.clearLane_tbars (c : Core) : (c.clearLane).tbars = c.tbars := by unfold Core.clearLane; split <;> rfl
@[simp] theorem Core.clearLane_released (c : Core) : (c.clearLane).released = c.released := by unfold Core.clearLane; split <;> rfl
@[simp] theorem Core.clearLane_share (c : Core) : (c.clearLane).share = c.share := by unfold Core.clearLane; split <;> rfl
@[simp] theorem Core.clearLane_dbg (c : Core) : (c.clearLane).dbg = c.dbg := by unfold Core.clearLane; split <;> rfl
@[simp] theorem Core.clearLane_dbgCount (c : Core) : (c.clearLane).dbgCount = c.dbgCount := by unfold Core.clearLane; split <;> rfl
@[simp] theorem Core.clearLane_code (c : Core) : (c.clearLane).code = c.code := by unfold Core.clearLane; split <;> rfl
@[simp] theorem Core.clearLane_fetched (c : Core) : (c.clearLane).fetched = c.fetched := by unfold Core.clearLane; split <;> rfl
@[simp] theorem Core.clearLane_remote (c : Core) : (c.clearLane).remote = c.remote := by unfold Core.clearLane; split <;> rfl
@[simp] theorem Core.clearLane_readySince (c : Core) : (c.clearLane).readySince = c.readySince := by unfold Core.clearLane; split <;> rfl

@[simp] theorem Core.putCkpt_id (c : Core) (a : Word) : (c.putCkpt a).id = c.id := rfl
@[simp] theorem Core.putCkpt_crew (c : Core) (a : Word) : (c.putCkpt a).crew = c.crew := rfl
@[simp] theorem Core.putCkpt_level (c : Core) (a : Word) : (c.putCkpt a).level = c.level := rfl
@[simp] theorem Core.putCkpt_g (c : Core) (a : Word) : (c.putCkpt a).g = c.g := rfl
@[simp] theorem Core.putCkpt_v (c : Core) (a : Word) : (c.putCkpt a).v = c.v := rfl
@[simp] theorem Core.putCkpt_m (c : Core) (a : Word) : (c.putCkpt a).m = c.m := rfl
@[simp] theorem Core.putCkpt_y (c : Core) (a : Word) : (c.putCkpt a).y = c.y := rfl
@[simp] theorem Core.putCkpt_dtab (c : Core) (a : Word) : (c.putCkpt a).dtab = c.dtab := rfl
@[simp] theorem Core.putCkpt_lq (c : Core) (a : Word) : (c.putCkpt a).lq = c.lq := rfl
@[simp] theorem Core.putCkpt_pc (c : Core) (a : Word) : (c.putCkpt a).pc = c.pc := rfl
@[simp] theorem Core.putCkpt_frm (c : Core) (a : Word) : (c.putCkpt a).frm = c.frm := rfl
@[simp] theorem Core.putCkpt_fflags (c : Core) (a : Word) : (c.putCkpt a).fflags = c.fflags := rfl
@[simp] theorem Core.putCkpt_tvec (c : Core) (a : Word) : (c.putCkpt a).tvec = c.tvec := rfl
@[simp] theorem Core.putCkpt_epc (c : Core) (a : Word) : (c.putCkpt a).epc = c.epc := rfl
@[simp] theorem Core.putCkpt_cause (c : Core) (a : Word) : (c.putCkpt a).cause = c.cause := rfl
@[simp] theorem Core.putCkpt_eaddr (c : Core) (a : Word) : (c.putCkpt a).eaddr = c.eaddr := rfl
@[simp] theorem Core.putCkpt_eelem (c : Core) (a : Word) : (c.putCkpt a).eelem = c.eelem := rfl
@[simp] theorem Core.putCkpt_moved (c : Core) (a : Word) : (c.putCkpt a).moved = c.moved := rfl
@[simp] theorem Core.putCkpt_scratch (c : Core) (a : Word) : (c.putCkpt a).scratch = c.scratch := rfl
@[simp] theorem Core.putCkpt_vl (c : Core) (a : Word) : (c.putCkpt a).vl = c.vl := rfl
@[simp] theorem Core.putCkpt_rc (c : Core) (a : Word) : (c.putCkpt a).rc = c.rc := rfl
@[simp] theorem Core.putCkpt_ill (c : Core) (a : Word) : (c.putCkpt a).ill = c.ill := rfl
@[simp] theorem Core.putCkpt_glog (c : Core) (a : Word) : (c.putCkpt a).glog = c.glog := rfl
@[simp] theorem Core.putCkpt_fmt (c : Core) (a : Word) : (c.putCkpt a).fmt = c.fmt := rfl
@[simp] theorem Core.putCkpt_grant (c : Core) (a : Word) : (c.putCkpt a).grant = c.grant := rfl
@[simp] theorem Core.putCkpt_split (c : Core) (a : Word) : (c.putCkpt a).split = c.split := rfl
@[simp] theorem Core.putCkpt_crewReg (c : Core) (a : Word) : (c.putCkpt a).crewReg = c.crewReg := rfl
@[simp] theorem Core.putCkpt_rank (c : Core) (a : Word) : (c.putCkpt a).rank = c.rank := rfl
@[simp] theorem Core.putCkpt_holdsize (c : Core) (a : Word) : (c.putCkpt a).holdsize = c.holdsize := rfl
@[simp] theorem Core.putCkpt_holdbase (c : Core) (a : Word) : (c.putCkpt a).holdbase = c.holdbase := rfl
@[simp] theorem Core.putCkpt_cellphys (c : Core) (a : Word) : (c.putCkpt a).cellphys = c.cellphys := rfl
@[simp] theorem Core.putCkpt_energy (c : Core) (a : Word) : (c.putCkpt a).energy = c.energy := rfl
@[simp] theorem Core.putCkpt_st (c : Core) (a : Word) : (c.putCkpt a).st = c.st := rfl
@[simp] theorem Core.putCkpt_strip (c : Core) (a : Word) : (c.putCkpt a).strip = c.strip := rfl
@[simp] theorem Core.putCkpt_stepwise (c : Core) (a : Word) : (c.putCkpt a).stepwise = c.stepwise := rfl
@[simp] theorem Core.putCkpt_around (c : Core) (a : Word) : (c.putCkpt a).around = c.around := rfl
@[simp] theorem Core.putCkpt_frame (c : Core) (a : Word) : (c.putCkpt a).frame = c.frame := rfl
@[simp] theorem Core.putCkpt_latch (c : Core) (a : Word) : (c.putCkpt a).latch = c.latch := rfl
@[simp] theorem Core.putCkpt_wait (c : Core) (a : Word) : (c.putCkpt a).wait = c.wait := rfl
@[simp] theorem Core.putCkpt_laneWaits (c : Core) (a : Word) : (c.putCkpt a).laneWaits = c.laneWaits := rfl
@[simp] theorem Core.putCkpt_parked (c : Core) (a : Word) : (c.putCkpt a).parked = c.parked := rfl
@[simp] theorem Core.putCkpt_pending (c : Core) (a : Word) : (c.putCkpt a).pending = c.pending := rfl
@[simp] theorem Core.putCkpt_request (c : Core) (a : Word) : (c.putCkpt a).request = c.request := rfl
@[simp] theorem Core.putCkpt_target (c : Core) (a : Word) : (c.putCkpt a).target = c.target := rfl
@[simp] theorem Core.putCkpt_stopAsked (c : Core) (a : Word) : (c.putCkpt a).stopAsked = c.stopAsked := rfl
@[simp] theorem Core.putCkpt_stopped (c : Core) (a : Word) : (c.putCkpt a).stopped = c.stopped := rfl
@[simp] theorem Core.putCkpt_cbars (c : Core) (a : Word) : (c.putCkpt a).cbars = c.cbars := rfl
@[simp] theorem Core.putCkpt_tbars (c : Core) (a : Word) : (c.putCkpt a).tbars = c.tbars := rfl
@[simp] theorem Core.putCkpt_released (c : Core) (a : Word) : (c.putCkpt a).released = c.released := rfl
@[simp] theorem Core.putCkpt_share (c : Core) (a : Word) : (c.putCkpt a).share = c.share := rfl
@[simp] theorem Core.putCkpt_dbg (c : Core) (a : Word) : (c.putCkpt a).dbg = c.dbg := rfl
@[simp] theorem Core.putCkpt_dbgCount (c : Core) (a : Word) : (c.putCkpt a).dbgCount = c.dbgCount := rfl
@[simp] theorem Core.putCkpt_code (c : Core) (a : Word) : (c.putCkpt a).code = c.code := rfl
@[simp] theorem Core.putCkpt_fetched (c : Core) (a : Word) : (c.putCkpt a).fetched = c.fetched := rfl
@[simp] theorem Core.putCkpt_remote (c : Core) (a : Word) : (c.putCkpt a).remote = c.remote := rfl
@[simp] theorem Core.putCkpt_readySince (c : Core) (a : Word) : (c.putCkpt a).readySince = c.readySince := rfl

@[simp] theorem Core.raise_id (c : Core) (f : Flags) : (c.raise f).id = c.id := rfl
@[simp] theorem Core.raise_crew (c : Core) (f : Flags) : (c.raise f).crew = c.crew := rfl
@[simp] theorem Core.raise_level (c : Core) (f : Flags) : (c.raise f).level = c.level := rfl
@[simp] theorem Core.raise_g (c : Core) (f : Flags) : (c.raise f).g = c.g := rfl
@[simp] theorem Core.raise_v (c : Core) (f : Flags) : (c.raise f).v = c.v := rfl
@[simp] theorem Core.raise_m (c : Core) (f : Flags) : (c.raise f).m = c.m := rfl
@[simp] theorem Core.raise_y (c : Core) (f : Flags) : (c.raise f).y = c.y := rfl
@[simp] theorem Core.raise_dtab (c : Core) (f : Flags) : (c.raise f).dtab = c.dtab := rfl
@[simp] theorem Core.raise_lq (c : Core) (f : Flags) : (c.raise f).lq = c.lq := rfl
@[simp] theorem Core.raise_pc (c : Core) (f : Flags) : (c.raise f).pc = c.pc := rfl
@[simp] theorem Core.raise_frm (c : Core) (f : Flags) : (c.raise f).frm = c.frm := rfl
@[simp] theorem Core.raise_tvec (c : Core) (f : Flags) : (c.raise f).tvec = c.tvec := rfl
@[simp] theorem Core.raise_epc (c : Core) (f : Flags) : (c.raise f).epc = c.epc := rfl
@[simp] theorem Core.raise_cause (c : Core) (f : Flags) : (c.raise f).cause = c.cause := rfl
@[simp] theorem Core.raise_eaddr (c : Core) (f : Flags) : (c.raise f).eaddr = c.eaddr := rfl
@[simp] theorem Core.raise_eelem (c : Core) (f : Flags) : (c.raise f).eelem = c.eelem := rfl
@[simp] theorem Core.raise_moved (c : Core) (f : Flags) : (c.raise f).moved = c.moved := rfl
@[simp] theorem Core.raise_scratch (c : Core) (f : Flags) : (c.raise f).scratch = c.scratch := rfl
@[simp] theorem Core.raise_vl (c : Core) (f : Flags) : (c.raise f).vl = c.vl := rfl
@[simp] theorem Core.raise_rc (c : Core) (f : Flags) : (c.raise f).rc = c.rc := rfl
@[simp] theorem Core.raise_ill (c : Core) (f : Flags) : (c.raise f).ill = c.ill := rfl
@[simp] theorem Core.raise_glog (c : Core) (f : Flags) : (c.raise f).glog = c.glog := rfl
@[simp] theorem Core.raise_fmt (c : Core) (f : Flags) : (c.raise f).fmt = c.fmt := rfl
@[simp] theorem Core.raise_ckpt (c : Core) (f : Flags) : (c.raise f).ckpt = c.ckpt := rfl
@[simp] theorem Core.raise_grant (c : Core) (f : Flags) : (c.raise f).grant = c.grant := rfl
@[simp] theorem Core.raise_split (c : Core) (f : Flags) : (c.raise f).split = c.split := rfl
@[simp] theorem Core.raise_crewReg (c : Core) (f : Flags) : (c.raise f).crewReg = c.crewReg := rfl
@[simp] theorem Core.raise_rank (c : Core) (f : Flags) : (c.raise f).rank = c.rank := rfl
@[simp] theorem Core.raise_holdsize (c : Core) (f : Flags) : (c.raise f).holdsize = c.holdsize := rfl
@[simp] theorem Core.raise_holdbase (c : Core) (f : Flags) : (c.raise f).holdbase = c.holdbase := rfl
@[simp] theorem Core.raise_cellphys (c : Core) (f : Flags) : (c.raise f).cellphys = c.cellphys := rfl
@[simp] theorem Core.raise_energy (c : Core) (f : Flags) : (c.raise f).energy = c.energy := rfl
@[simp] theorem Core.raise_st (c : Core) (f : Flags) : (c.raise f).st = c.st := rfl
@[simp] theorem Core.raise_strip (c : Core) (f : Flags) : (c.raise f).strip = c.strip := rfl
@[simp] theorem Core.raise_stepwise (c : Core) (f : Flags) : (c.raise f).stepwise = c.stepwise := rfl
@[simp] theorem Core.raise_around (c : Core) (f : Flags) : (c.raise f).around = c.around := rfl
@[simp] theorem Core.raise_frame (c : Core) (f : Flags) : (c.raise f).frame = c.frame := rfl
@[simp] theorem Core.raise_latch (c : Core) (f : Flags) : (c.raise f).latch = c.latch := rfl
@[simp] theorem Core.raise_wait (c : Core) (f : Flags) : (c.raise f).wait = c.wait := rfl
@[simp] theorem Core.raise_laneWaits (c : Core) (f : Flags) : (c.raise f).laneWaits = c.laneWaits := rfl
@[simp] theorem Core.raise_ckptKept (c : Core) (f : Flags) : (c.raise f).ckptKept = c.ckptKept := rfl
@[simp] theorem Core.raise_parked (c : Core) (f : Flags) : (c.raise f).parked = c.parked := rfl
@[simp] theorem Core.raise_pending (c : Core) (f : Flags) : (c.raise f).pending = c.pending := rfl
@[simp] theorem Core.raise_request (c : Core) (f : Flags) : (c.raise f).request = c.request := rfl
@[simp] theorem Core.raise_target (c : Core) (f : Flags) : (c.raise f).target = c.target := rfl
@[simp] theorem Core.raise_stopAsked (c : Core) (f : Flags) : (c.raise f).stopAsked = c.stopAsked := rfl
@[simp] theorem Core.raise_stopped (c : Core) (f : Flags) : (c.raise f).stopped = c.stopped := rfl
@[simp] theorem Core.raise_cbars (c : Core) (f : Flags) : (c.raise f).cbars = c.cbars := rfl
@[simp] theorem Core.raise_tbars (c : Core) (f : Flags) : (c.raise f).tbars = c.tbars := rfl
@[simp] theorem Core.raise_released (c : Core) (f : Flags) : (c.raise f).released = c.released := rfl
@[simp] theorem Core.raise_share (c : Core) (f : Flags) : (c.raise f).share = c.share := rfl
@[simp] theorem Core.raise_dbg (c : Core) (f : Flags) : (c.raise f).dbg = c.dbg := rfl
@[simp] theorem Core.raise_dbgCount (c : Core) (f : Flags) : (c.raise f).dbgCount = c.dbgCount := rfl
@[simp] theorem Core.raise_code (c : Core) (f : Flags) : (c.raise f).code = c.code := rfl
@[simp] theorem Core.raise_fetched (c : Core) (f : Flags) : (c.raise f).fetched = c.fetched := rfl
@[simp] theorem Core.raise_remote (c : Core) (f : Flags) : (c.raise f).remote = c.remote := rfl
@[simp] theorem Core.raise_readySince (c : Core) (f : Flags) : (c.raise f).readySince = c.readySince := rfl

/-- What a scalar write leaves as it was: all but the scalar registers, the vector registers, and the strip. -/
@[simp] theorem Core.wg_id (c : Core) (r : BitVec 5) (x : Word) : (c.wg r x).id = c.id := by
  unfold Core.wg; split; · rfl
  · split <;> simp
@[simp] theorem Core.wg_crew (c : Core) (r : BitVec 5) (x : Word) : (c.wg r x).crew = c.crew := by
  unfold Core.wg; split; · rfl
  · split <;> simp
@[simp] theorem Core.wg_level (c : Core) (r : BitVec 5) (x : Word) : (c.wg r x).level = c.level := by
  unfold Core.wg; split; · rfl
  · split <;> simp
@[simp] theorem Core.wg_m (c : Core) (r : BitVec 5) (x : Word) : (c.wg r x).m = c.m := by
  unfold Core.wg; split; · rfl
  · split <;> simp
@[simp] theorem Core.wg_y (c : Core) (r : BitVec 5) (x : Word) : (c.wg r x).y = c.y := by
  unfold Core.wg; split; · rfl
  · split <;> simp
@[simp] theorem Core.wg_dtab (c : Core) (r : BitVec 5) (x : Word) : (c.wg r x).dtab = c.dtab := by
  unfold Core.wg; split; · rfl
  · split <;> simp
@[simp] theorem Core.wg_lq (c : Core) (r : BitVec 5) (x : Word) : (c.wg r x).lq = c.lq := by
  unfold Core.wg; split; · rfl
  · split <;> simp
@[simp] theorem Core.wg_pc (c : Core) (r : BitVec 5) (x : Word) : (c.wg r x).pc = c.pc := by
  unfold Core.wg; split; · rfl
  · split <;> simp
@[simp] theorem Core.wg_frm (c : Core) (r : BitVec 5) (x : Word) : (c.wg r x).frm = c.frm := by
  unfold Core.wg; split; · rfl
  · split <;> simp
@[simp] theorem Core.wg_fflags (c : Core) (r : BitVec 5) (x : Word) : (c.wg r x).fflags = c.fflags := by
  unfold Core.wg; split; · rfl
  · split <;> simp
@[simp] theorem Core.wg_tvec (c : Core) (r : BitVec 5) (x : Word) : (c.wg r x).tvec = c.tvec := by
  unfold Core.wg; split; · rfl
  · split <;> simp
@[simp] theorem Core.wg_epc (c : Core) (r : BitVec 5) (x : Word) : (c.wg r x).epc = c.epc := by
  unfold Core.wg; split; · rfl
  · split <;> simp
@[simp] theorem Core.wg_cause (c : Core) (r : BitVec 5) (x : Word) : (c.wg r x).cause = c.cause := by
  unfold Core.wg; split; · rfl
  · split <;> simp
@[simp] theorem Core.wg_eaddr (c : Core) (r : BitVec 5) (x : Word) : (c.wg r x).eaddr = c.eaddr := by
  unfold Core.wg; split; · rfl
  · split <;> simp
@[simp] theorem Core.wg_eelem (c : Core) (r : BitVec 5) (x : Word) : (c.wg r x).eelem = c.eelem := by
  unfold Core.wg; split; · rfl
  · split <;> simp
@[simp] theorem Core.wg_moved (c : Core) (r : BitVec 5) (x : Word) : (c.wg r x).moved = c.moved := by
  unfold Core.wg; split; · rfl
  · split <;> simp
@[simp] theorem Core.wg_scratch (c : Core) (r : BitVec 5) (x : Word) : (c.wg r x).scratch = c.scratch := by
  unfold Core.wg; split; · rfl
  · split <;> simp
@[simp] theorem Core.wg_vl (c : Core) (r : BitVec 5) (x : Word) : (c.wg r x).vl = c.vl := by
  unfold Core.wg; split; · rfl
  · split <;> simp
@[simp] theorem Core.wg_rc (c : Core) (r : BitVec 5) (x : Word) : (c.wg r x).rc = c.rc := by
  unfold Core.wg; split; · rfl
  · split <;> simp
@[simp] theorem Core.wg_ill (c : Core) (r : BitVec 5) (x : Word) : (c.wg r x).ill = c.ill := by
  unfold Core.wg; split; · rfl
  · split <;> simp
@[simp] theorem Core.wg_glog (c : Core) (r : BitVec 5) (x : Word) : (c.wg r x).glog = c.glog := by
  unfold Core.wg; split; · rfl
  · split <;> simp
@[simp] theorem Core.wg_fmt (c : Core) (r : BitVec 5) (x : Word) : (c.wg r x).fmt = c.fmt := by
  unfold Core.wg; split; · rfl
  · split <;> simp
@[simp] theorem Core.wg_ckpt (c : Core) (r : BitVec 5) (x : Word) : (c.wg r x).ckpt = c.ckpt := by
  unfold Core.wg; split; · rfl
  · split <;> simp
@[simp] theorem Core.wg_grant (c : Core) (r : BitVec 5) (x : Word) : (c.wg r x).grant = c.grant := by
  unfold Core.wg; split; · rfl
  · split <;> simp
@[simp] theorem Core.wg_split (c : Core) (r : BitVec 5) (x : Word) : (c.wg r x).split = c.split := by
  unfold Core.wg; split; · rfl
  · split <;> simp
@[simp] theorem Core.wg_crewReg (c : Core) (r : BitVec 5) (x : Word) : (c.wg r x).crewReg = c.crewReg := by
  unfold Core.wg; split; · rfl
  · split <;> simp
@[simp] theorem Core.wg_rank (c : Core) (r : BitVec 5) (x : Word) : (c.wg r x).rank = c.rank := by
  unfold Core.wg; split; · rfl
  · split <;> simp
@[simp] theorem Core.wg_holdsize (c : Core) (r : BitVec 5) (x : Word) : (c.wg r x).holdsize = c.holdsize := by
  unfold Core.wg; split; · rfl
  · split <;> simp
@[simp] theorem Core.wg_holdbase (c : Core) (r : BitVec 5) (x : Word) : (c.wg r x).holdbase = c.holdbase := by
  unfold Core.wg; split; · rfl
  · split <;> simp
@[simp] theorem Core.wg_cellphys (c : Core) (r : BitVec 5) (x : Word) : (c.wg r x).cellphys = c.cellphys := by
  unfold Core.wg; split; · rfl
  · split <;> simp
@[simp] theorem Core.wg_energy (c : Core) (r : BitVec 5) (x : Word) : (c.wg r x).energy = c.energy := by
  unfold Core.wg; split; · rfl
  · split <;> simp
@[simp] theorem Core.wg_st (c : Core) (r : BitVec 5) (x : Word) : (c.wg r x).st = c.st := by
  unfold Core.wg; split; · rfl
  · split <;> simp
@[simp] theorem Core.wg_stepwise (c : Core) (r : BitVec 5) (x : Word) : (c.wg r x).stepwise = c.stepwise := by
  unfold Core.wg; split; · rfl
  · split <;> simp
@[simp] theorem Core.wg_around (c : Core) (r : BitVec 5) (x : Word) : (c.wg r x).around = c.around := by
  unfold Core.wg; split; · rfl
  · split <;> simp
@[simp] theorem Core.wg_frame (c : Core) (r : BitVec 5) (x : Word) : (c.wg r x).frame = c.frame := by
  unfold Core.wg; split; · rfl
  · split <;> simp
@[simp] theorem Core.wg_latch (c : Core) (r : BitVec 5) (x : Word) : (c.wg r x).latch = c.latch := by
  unfold Core.wg; split; · rfl
  · split <;> simp
@[simp] theorem Core.wg_wait (c : Core) (r : BitVec 5) (x : Word) : (c.wg r x).wait = c.wait := by
  unfold Core.wg; split; · rfl
  · split <;> simp
@[simp] theorem Core.wg_laneWaits (c : Core) (r : BitVec 5) (x : Word) : (c.wg r x).laneWaits = c.laneWaits := by
  unfold Core.wg; split; · rfl
  · split <;> simp
@[simp] theorem Core.wg_ckptKept (c : Core) (r : BitVec 5) (x : Word) : (c.wg r x).ckptKept = c.ckptKept := by
  unfold Core.wg; split; · rfl
  · split <;> simp
@[simp] theorem Core.wg_parked (c : Core) (r : BitVec 5) (x : Word) : (c.wg r x).parked = c.parked := by
  unfold Core.wg; split; · rfl
  · split <;> simp
@[simp] theorem Core.wg_pending (c : Core) (r : BitVec 5) (x : Word) : (c.wg r x).pending = c.pending := by
  unfold Core.wg; split; · rfl
  · split <;> simp
@[simp] theorem Core.wg_request (c : Core) (r : BitVec 5) (x : Word) : (c.wg r x).request = c.request := by
  unfold Core.wg; split; · rfl
  · split <;> simp
@[simp] theorem Core.wg_target (c : Core) (r : BitVec 5) (x : Word) : (c.wg r x).target = c.target := by
  unfold Core.wg; split; · rfl
  · split <;> simp
@[simp] theorem Core.wg_stopAsked (c : Core) (r : BitVec 5) (x : Word) : (c.wg r x).stopAsked = c.stopAsked := by
  unfold Core.wg; split; · rfl
  · split <;> simp
@[simp] theorem Core.wg_stopped (c : Core) (r : BitVec 5) (x : Word) : (c.wg r x).stopped = c.stopped := by
  unfold Core.wg; split; · rfl
  · split <;> simp
@[simp] theorem Core.wg_cbars (c : Core) (r : BitVec 5) (x : Word) : (c.wg r x).cbars = c.cbars := by
  unfold Core.wg; split; · rfl
  · split <;> simp
@[simp] theorem Core.wg_tbars (c : Core) (r : BitVec 5) (x : Word) : (c.wg r x).tbars = c.tbars := by
  unfold Core.wg; split; · rfl
  · split <;> simp
@[simp] theorem Core.wg_released (c : Core) (r : BitVec 5) (x : Word) : (c.wg r x).released = c.released := by
  unfold Core.wg; split; · rfl
  · split <;> simp
@[simp] theorem Core.wg_share (c : Core) (r : BitVec 5) (x : Word) : (c.wg r x).share = c.share := by
  unfold Core.wg; split; · rfl
  · split <;> simp
@[simp] theorem Core.wg_dbg (c : Core) (r : BitVec 5) (x : Word) : (c.wg r x).dbg = c.dbg := by
  unfold Core.wg; split; · rfl
  · split <;> simp
@[simp] theorem Core.wg_dbgCount (c : Core) (r : BitVec 5) (x : Word) : (c.wg r x).dbgCount = c.dbgCount := by
  unfold Core.wg; split; · rfl
  · split <;> simp
@[simp] theorem Core.wg_code (c : Core) (r : BitVec 5) (x : Word) : (c.wg r x).code = c.code := by
  unfold Core.wg; split; · rfl
  · split <;> simp
@[simp] theorem Core.wg_fetched (c : Core) (r : BitVec 5) (x : Word) : (c.wg r x).fetched = c.fetched := by
  unfold Core.wg; split; · rfl
  · split <;> simp
@[simp] theorem Core.wg_remote (c : Core) (r : BitVec 5) (x : Word) : (c.wg r x).remote = c.remote := by
  unfold Core.wg; split; · rfl
  · split <;> simp
@[simp] theorem Core.wg_readySince (c : Core) (r : BitVec 5) (x : Word) : (c.wg r x).readySince = c.readySince := by
  unfold Core.wg; split; · rfl
  · split <;> simp

end Sys2Proof.Machine
end

