-- ==== Sys2Proof/Laws/Cores.lean ====
section
/-! SUPPORT. What the shared operations over cores can do: changing the core whose turn it is, running an encoded
instruction, writing a scalar register, and ending an instruction. -/

namespace Sys2Proof.Machine

theorem vector_get_set {α : Type} {n : Nat} (v : Vector α n) (i : Nat) (h : i < n) (x : α) (j : Fin n) :
    (v.set i x h).get j = if j.val = i then x else v.get j := by
  change (v.set i x h)[j.val] = if j.val = i then x else v[j.val]
  rw [Vector.getElem_set]
  simp only [eq_comm]

theorem find?_map_id (l : List Core) (id id' : CoreId) (f : Core → Core) (hf : ∀ c, (f c).id = c.id) :
    (l.map fun c => if c.id = id then f c else c).find? (fun c => decide (c.id = id')) =
      if id' = id then (l.find? fun c => decide (c.id = id)).map f else l.find? fun c => decide (c.id = id') := by
  induction l with
  | nil => split <;> rfl
  | cons c l ih =>
    rw [List.map_cons, List.find?_cons, ih, List.find?_cons, List.find?_cons]
    by_cases h : c.id = id
    · by_cases h' : id' = id
      · subst h'; simp [h, hf]
      · have : ¬ id = id' := fun x => h' x.symm
        simp [h, hf, h', this]
    · by_cases h' : id' = id
      · subst h'; simp [h]
      · simp [h, h']

/-- The cores after one of them is changed by a function that keeps its identity. -/
theorem State.core?_modCore (s : State) (id id' : CoreId) (f : Core → Core) (hf : ∀ c, (f c).id = c.id) :
    (s.modCore id f).core? id' = if id' = id then (s.core? id).map f else s.core? id' :=
  find?_map_id s.cores id id' f hf

/-- The core whose turn it is, after it is changed. -/
theorem State.core?_upd (s : State) (f : Core → Core) (hf : ∀ c, (f c).id = c.id) (c : Core)
    (h : s.core? s.cur = some c) : (s.upd f).core? (s.upd f).cur = some (f c) := by
  rw [State.upd_cur, State.upd, State.core?_modCore s _ _ f hf, if_pos rfl, h]; rfl

theorem State.me_of_core? (s : State) (c : Core) (h : s.core? s.cur = some c) : s.me = c := by
  rw [State.me, h]; rfl

theorem State.me_upd (s : State) (f : Core → Core) (hf : ∀ c, (f c).id = c.id) (c : Core)
    (h : s.core? s.cur = some c) : (s.upd f).me = f c :=
  State.me_of_core? _ _ (State.core?_upd s f hf c h)

/-- A core that is not the one whose turn it is stays as it was. -/
theorem State.core?_upd_other (s : State) (f : Core → Core) (hf : ∀ c, (f c).id = c.id) (id : CoreId) (h : id ≠ s.cur) :
    (s.upd f).core? id = s.core? id := by
  rw [State.upd, State.core?_modCore s _ _ f hf, if_neg h]

/-- An encoded instruction of a resident core answers a next state. -/
theorem State.run_next (s : State) (c : Core) (h : s.core? s.cur = some c) (subset : Bool) (body : State → Except Halt State) :
    s.run subset body = .next (settle ((s.enter subset).bind body)) := by
  rw [State.run, h]

/-- It answers no next state without one. -/
theorem State.run_none (s : State) (h : s.core? s.cur = none) (subset : Bool) (body : State → Except Halt State) :
    s.run subset body = .fault .noCore := by
  rw [State.run, h]

/-- Nothing stands before an instruction that a lane thread may run, outside the time from VJOIN to the next SETVL. -/
theorem State.enter_true (s : State) (c : Core) (h : s.core? s.cur = some c) (hs : c.stepwise = false) :
    s.enter true = .ok s := by
  simp [State.enter, State.me_of_core? s c h, hs]

/-- The identity of a core through the operations over it. -/
theorem Core.setPc_keeps (c : Core) (a : Word) : (c.setPc a).id = c.id := by simp

theorem Core.frameNext_id (c : Core) (f : Frame) : (c.frameNext f).id = c.id := by
  unfold Core.frameNext; dsimp only; split
  · rfl
  · split <;> rfl

theorem Core.retireTo_id (c : Core) (a : Word) : (c.retireTo a).id = c.id := by
  unfold Core.retireTo
  dsimp only
  split
  · simp [Core.frameNext_id]
  · split <;> simp

theorem Core.retire_id (c : Core) : c.retire.id = c.id := Core.retireTo_id c _

/-- A scalar result: the whole of what the instruction does. -/
theorem State.alu_next (s : State) (c : Core) (h : s.core? s.cur = some c) (hs : c.stepwise = false) (d : BitVec 5)
    (x : Core → Word) : s.alu d x = .next (s.upd fun c => (c.wg d (x c)).retire) := by
  rw [State.alu, State.run_next s c h, State.enter_true s c h hs]; rfl

/-- Field 0 reads zero and discards writes (R11). -/
@[simp] theorem Core.rg_zero (c : Core) : c.rg 0#5 = 0 := by simp [Core.rg]

@[simp] theorem Core.wg_zero (c : Core) (x : Word) : c.wg 0#5 x = c := by simp [Core.wg]

/-- A scalar register read after one is written, outside split mode. -/
theorem Core.rg_wg (c : Core) (hs : c.split.on = false) (r q : BitVec 5) (x : Word) :
    (c.wg r x).rg q = if q = r ∧ r ≠ 0#5 then x else c.rg q := by
  by_cases hr : r = 0#5
  · subst hr; simp
  · by_cases hq : q = 0#5
    · subst hq
      have : ¬ 0#5 = r := fun h => hr h.symm
      rw [Core.rg_zero, Core.rg_zero, if_neg fun h => this h.1]
    · have hw : c.wg r x = { c with g := c.g.set r.toNat x r.isLt, strip := c.record r } := by simp [Core.wg, hr, hs]
      have hq' : ¬ q = (0 : BitVec 5) := hq
      rw [hw, Core.rg, if_neg hq']
      simp only [hs, Bool.false_eq_true, if_false]
      rw [vector_get_set, Core.rg, if_neg hq', hs]
      simp only [Bool.false_eq_true, if_false]
      by_cases h : q = r
      · subst h; rw [if_pos rfl, if_pos ⟨rfl, hr⟩]
      · have : ¬ q.toNat = r.toNat := fun e => h (BitVec.eq_of_toNat_eq e)
        rw [if_neg this, if_neg fun e => h e.1]

/-- m0 reads all ones and discards writes (R16). -/
@[simp] theorem Core.mreg_zero (c : Core) : c.mreg 0 = BitVec.allOnes 512 := rfl

@[simp] theorem Core.setM_zero (c : Core) (x : BitVec 512) : c.setM 0 x = c := rfl

/-- A mask register read after one is written. -/
theorem Core.mreg_setM (c : Core) (n k : Nat) (x : BitVec 512) :
    (c.setM n x).mreg k = if k = n ∧ 0 < n ∧ n < 48 then x else c.mreg k := by
  unfold Core.setM
  by_cases hn : n = 0
  · rw [if_pos hn, if_neg (by omega)]
  · rw [if_neg hn]
    by_cases h48 : n < 48
    · rw [dif_pos h48]
      unfold Core.mreg
      by_cases hk : k = 0
      · rw [if_pos hk, if_pos hk, if_neg (by omega)]
      · rw [if_neg hk, if_neg hk]
        by_cases hk48 : k < 48
        · rw [dif_pos hk48, dif_pos hk48, vector_get_set]
          by_cases h : k = n
          · rw [if_pos h, if_pos (by omega)]
          · rw [if_neg h, if_neg (by omega)]
        · rw [dif_neg hk48, dif_neg hk48, if_neg (by omega)]
    · rw [dif_neg h48, if_neg (by omega)]

/-- A vector register read after one is written. -/
theorem Core.vreg_setV (c : Core) (n k : Nat) (x : BitVec 1024) :
    (c.setV n x).vreg k = if k = n ∧ n < 64 then x else c.vreg k := by
  unfold Core.setV
  by_cases hn : n < 64
  · rw [dif_pos hn]
    unfold Core.vreg
    by_cases hk : k < 64
    · rw [dif_pos hk, dif_pos hk, vector_get_set]
      by_cases h : k = n
      · rw [if_pos h, if_pos ⟨h, hn⟩]
      · rw [if_neg h, if_neg fun e => h e.1]
    · rw [dif_neg hk, dif_neg hk, if_neg (by omega)]
  · rw [dif_neg hn, if_neg fun e => hn e.2]

/-- An instruction outside a repeat frame and outside split mode ends with the program counter at `a`. -/
theorem Core.retireTo_pc (c : Core) (a : Word) (hf : c.frame = none) (hs : c.split.on = false) : (c.retireTo a).pc = a := by
  unfold Core.retireTo
  simp only [Core.clearLane_frame, Core.clearRemote_frame, hf]
  split <;> simp [Core.setPc, hs, Core.putCkpt]

/-- The next instruction is four bytes on. -/
theorem Core.retire_pc (c : Core) (hf : c.frame = none) (hs : c.split.on = false) : c.retire.pc = c.pc + 4 := by
  rw [Core.retire, Core.retireTo_pc c _ hf hs, Core.curPc, hs]; rfl

end Sys2Proof.Machine
end

