-- ==== Sys2Proof/Laws/PerInstr.lean ====
section
/-! SUPPORT. One fact about each instruction's word: it has 32 bits. An event has no word. -/

namespace Sys2Proof.Laws.WordFits

/-- The word of an instruction, if it has one, fits in 32 bits (R64). -/
def Statement (i : Instr) : Prop := ∀ w, encode i = some w → w < 2 ^ 32

theorem add (d : BitVec 5) (a : BitVec 5) (b : BitVec 5) : Statement (.add d a b) := fun w h => by
  cases h; simp only [put]; omega
theorem sub (d : BitVec 5) (a : BitVec 5) (b : BitVec 5) : Statement (.sub d a b) := fun w h => by
  cases h; simp only [put]; omega
theorem and (d : BitVec 5) (a : BitVec 5) (b : BitVec 5) : Statement (.and d a b) := fun w h => by
  cases h; simp only [put]; omega
theorem or (d : BitVec 5) (a : BitVec 5) (b : BitVec 5) : Statement (.or d a b) := fun w h => by
  cases h; simp only [put]; omega
theorem xor (d : BitVec 5) (a : BitVec 5) (b : BitVec 5) : Statement (.xor d a b) := fun w h => by
  cases h; simp only [put]; omega
theorem sll (d : BitVec 5) (a : BitVec 5) (b : BitVec 5) : Statement (.sll d a b) := fun w h => by
  cases h; simp only [put]; omega
theorem srl (d : BitVec 5) (a : BitVec 5) (b : BitVec 5) : Statement (.srl d a b) := fun w h => by
  cases h; simp only [put]; omega
theorem sra (d : BitVec 5) (a : BitVec 5) (b : BitVec 5) : Statement (.sra d a b) := fun w h => by
  cases h; simp only [put]; omega
theorem rotl (d : BitVec 5) (a : BitVec 5) (b : BitVec 5) : Statement (.rotl d a b) := fun w h => by
  cases h; simp only [put]; omega
theorem rotr (d : BitVec 5) (a : BitVec 5) (b : BitVec 5) : Statement (.rotr d a b) := fun w h => by
  cases h; simp only [put]; omega
theorem min (d : BitVec 5) (a : BitVec 5) (b : BitVec 5) : Statement (.min d a b) := fun w h => by
  cases h; simp only [put]; omega
theorem max (d : BitVec 5) (a : BitVec 5) (b : BitVec 5) : Statement (.max d a b) := fun w h => by
  cases h; simp only [put]; omega
theorem minu (d : BitVec 5) (a : BitVec 5) (b : BitVec 5) : Statement (.minu d a b) := fun w h => by
  cases h; simp only [put]; omega
theorem maxu (d : BitVec 5) (a : BitVec 5) (b : BitVec 5) : Statement (.maxu d a b) := fun w h => by
  cases h; simp only [put]; omega
theorem slt (d : BitVec 5) (a : BitVec 5) (b : BitVec 5) : Statement (.slt d a b) := fun w h => by
  cases h; simp only [put]; omega
theorem sltu (d : BitVec 5) (a : BitVec 5) (b : BitVec 5) : Statement (.sltu d a b) := fun w h => by
  cases h; simp only [put]; omega
theorem mul (d : BitVec 5) (a : BitVec 5) (b : BitVec 5) : Statement (.mul d a b) := fun w h => by
  cases h; simp only [put]; omega
theorem mulh (d : BitVec 5) (a : BitVec 5) (b : BitVec 5) : Statement (.mulh d a b) := fun w h => by
  cases h; simp only [put]; omega
theorem mulhu (d : BitVec 5) (a : BitVec 5) (b : BitVec 5) : Statement (.mulhu d a b) := fun w h => by
  cases h; simp only [put]; omega
theorem div (d : BitVec 5) (a : BitVec 5) (b : BitVec 5) : Statement (.div d a b) := fun w h => by
  cases h; simp only [put]; omega
theorem divu (d : BitVec 5) (a : BitVec 5) (b : BitVec 5) : Statement (.divu d a b) := fun w h => by
  cases h; simp only [put]; omega
theorem rem (d : BitVec 5) (a : BitVec 5) (b : BitVec 5) : Statement (.rem d a b) := fun w h => by
  cases h; simp only [put]; omega
theorem remu (d : BitVec 5) (a : BitVec 5) (b : BitVec 5) : Statement (.remu d a b) := fun w h => by
  cases h; simp only [put]; omega
theorem clz (d : BitVec 5) (a : BitVec 5) : Statement (.clz d a) := fun w h => by
  cases h; simp only [put]; omega
theorem ctz (d : BitVec 5) (a : BitVec 5) : Statement (.ctz d a) := fun w h => by
  cases h; simp only [put]; omega
theorem cpop (d : BitVec 5) (a : BitVec 5) : Statement (.cpop d a) := fun w h => by
  cases h; simp only [put]; omega
theorem addsh (d : BitVec 5) (a : BitVec 5) (b : BitVec 5) (s : BitVec 2) : Statement (.addsh d a b s) := fun w h => by
  cases h; simp only [put]; omega
theorem slli (d : BitVec 5) (a : BitVec 5) (h : BitVec 5) (g : BitVec 1) : Statement (.slli d a h g) := fun w h => by
  cases h; simp only [put]; omega
theorem srli (d : BitVec 5) (a : BitVec 5) (h : BitVec 5) (g : BitVec 1) : Statement (.srli d a h g) := fun w h => by
  cases h; simp only [put]; omega
theorem srai (d : BitVec 5) (a : BitVec 5) (h : BitVec 5) (g : BitVec 1) : Statement (.srai d a h g) := fun w h => by
  cases h; simp only [put]; omega
theorem ldx (d : BitVec 5) (a : BitVec 5) (b : BitVec 5) (z : BitVec 3) (s : BitVec 2) : Statement (.ldx d a b z s) := fun w h => by
  cases h; simp only [put]; omega
theorem stx (d : BitVec 5) (a : BitVec 5) (b : BitVec 5) (z : BitVec 2) (s : BitVec 2) : Statement (.stx d a b z s) := fun w h => by
  cases h; simp only [put]; omega
theorem addi (d : BitVec 5) (a : BitVec 5) (i : BitVec 16) : Statement (.addi d a i) := fun w h => by
  cases h; simp only [put]; omega
theorem andi (d : BitVec 5) (a : BitVec 5) (k : BitVec 14) : Statement (.andi d a k) := fun w h => by
  cases h; simp only [put]; omega
theorem ori (d : BitVec 5) (a : BitVec 5) (k : BitVec 14) : Statement (.ori d a k) := fun w h => by
  cases h; simp only [put]; omega
theorem xori (d : BitVec 5) (a : BitVec 5) (k : BitVec 14) : Statement (.xori d a k) := fun w h => by
  cases h; simp only [put]; omega
theorem slti (d : BitVec 5) (a : BitVec 5) (i : BitVec 16) : Statement (.slti d a i) := fun w h => by
  cases h; simp only [put]; omega
theorem lui (d : BitVec 5) (i : BitVec 20) : Statement (.lui d i) := fun w h => by
  cases h; simp only [put]; omega
theorem aupc (d : BitVec 5) (i : BitVec 20) : Statement (.aupc d i) := fun w h => by
  cases h; simp only [put]; omega
theorem ld (d : BitVec 5) (a : BitVec 5) (z : BitVec 3) (o : BitVec 12) : Statement (.ld d a z o) := fun w h => by
  cases h; simp only [put]; omega
theorem st (d : BitVec 5) (a : BitVec 5) (z : BitVec 2) (o : BitVec 12) : Statement (.st d a z o) := fun w h => by
  cases h; simp only [put]; omega
theorem jal (d : BitVec 5) (o : BitVec 21) : Statement (.jal d o) := fun w h => by
  cases h; simp only [put]; omega
theorem jalr (d : BitVec 5) (a : BitVec 5) (i : BitVec 16) : Statement (.jalr d a i) := fun w h => by
  cases h; simp only [put]; omega
theorem crr (d : BitVec 5) (c : BitVec 12) : Statement (.crr d c) := fun w h => by
  cases h; simp only [put]; omega
theorem crw (d : BitVec 5) (a : BitVec 5) (c : BitVec 12) : Statement (.crw d a c) := fun w h => by
  cases h; simp only [put]; omega
theorem crs (d : BitVec 5) (a : BitVec 5) (c : BitVec 12) : Statement (.crs d a c) := fun w h => by
  cases h; simp only [put]; omega
theorem crc (d : BitVec 5) (a : BitVec 5) (c : BitVec 12) : Statement (.crc d a c) := fun w h => by
  cases h; simp only [put]; omega
theorem svc (c : BitVec 12) : Statement (.svc c) := fun w h => by
  cases h; simp only [put]; omega
theorem brk (c : BitVec 12) : Statement (.brk c) := fun w h => by
  cases h; simp only [put]; omega
theorem nop : Statement .nop := fun w h => by cases h; decide
theorem halt : Statement .halt := fun w h => by cases h; decide
theorem yield : Statement .yield := fun w h => by cases h; decide
theorem wfe : Statement .wfe := fun w h => by cases h; decide
theorem ifence : Statement .ifence := fun w h => by cases h; decide
theorem rett : Statement .rett := fun w h => by cases h; decide
theorem enrg (d : BitVec 5) : Statement (.enrg d) := fun w h => by
  cases h; simp only [put]; omega
theorem topo (d : BitVec 5) (i : BitVec 12) : Statement (.topo d i) := fun w h => by
  cases h; simp only [put]; omega
theorem bany (m : BitVec 6) (o : BitVec 16) : Statement (.bany m o) := fun w h => by
  cases h; simp only [put]; omega
theorem ball (m : BitVec 6) (o : BitVec 16) : Statement (.ball m o) := fun w h => by
  cases h; simp only [put]; omega
theorem loop (s : BitVec 5) (o : BitVec 16) : Statement (.loop s o) := fun w h => by
  cases h; simp only [put]; omega
theorem beq (a : BitVec 5) (b : BitVec 5) (o : BitVec 16) : Statement (.beq a b o) := fun w h => by
  cases h; simp only [put]; omega
theorem bne (a : BitVec 5) (b : BitVec 5) (o : BitVec 16) : Statement (.bne a b o) := fun w h => by
  cases h; simp only [put]; omega
theorem blt (a : BitVec 5) (b : BitVec 5) (o : BitVec 16) : Statement (.blt a b o) := fun w h => by
  cases h; simp only [put]; omega
theorem bge (a : BitVec 5) (b : BitVec 5) (o : BitVec 16) : Statement (.bge a b o) := fun w h => by
  cases h; simp only [put]; omega
theorem bltu (a : BitVec 5) (b : BitVec 5) (o : BitVec 16) : Statement (.bltu a b o) := fun w h => by
  cases h; simp only [put]; omega
theorem bgeu (a : BitVec 5) (b : BitVec 5) (o : BitVec 16) : Statement (.bgeu a b o) := fun w h => by
  cases h; simp only [put]; omega
theorem setvl (d : BitVec 5) (a : BitVec 5) (r : BitVec 3) (f : BitVec 4) (g : BitVec 2) : Statement (.setvl d a r f g) := fun w h => by
  cases h; simp only [put]; omega
theorem setvlq (d : BitVec 5) (r : BitVec 3) (f : BitVec 4) (g : BitVec 2) : Statement (.setvlq d r f g) := fun w h => by
  cases h; simp only [put]; omega
theorem vld (v : BitVec 6) (b : BitVec 5) (o : BitVec 6) (m : BitVec 4) : Statement (.vld v b o m) := fun w h => by
  cases h; simp only [put]; omega
theorem vlds (v : BitVec 6) (b : BitVec 5) (s : BitVec 5) (m : BitVec 4) : Statement (.vlds v b s m) := fun w h => by
  cases h; simp only [put]; omega
theorem vldx (v : BitVec 6) (b : BitVec 5) (x : BitVec 6) (c : BitVec 1) (m : BitVec 4) : Statement (.vldx v b x c m) := fun w h => by
  cases h; simp only [put]; omega
theorem vldf (v : BitVec 6) (b : BitVec 5) (o : BitVec 6) (m : BitVec 4) : Statement (.vldf v b o m) := fun w h => by
  cases h; simp only [put]; omega
theorem vst (v : BitVec 6) (b : BitVec 5) (o : BitVec 6) (c : BitVec 1) (m : BitVec 4) : Statement (.vst v b o c m) := fun w h => by
  cases h; simp only [put]; omega
theorem vsts (v : BitVec 6) (b : BitVec 5) (s : BitVec 5) (c : BitVec 1) (m : BitVec 4) : Statement (.vsts v b s c m) := fun w h => by
  cases h; simp only [put]; omega
theorem vstx (v : BitVec 6) (b : BitVec 5) (x : BitVec 6) (c : BitVec 1) (m : BitVec 4) : Statement (.vstx v b x c m) := fun w h => by
  cases h; simp only [put]; omega
theorem vldz (v : BitVec 6) (b : BitVec 5) (s : BitVec 5) (m : BitVec 4) : Statement (.vldz v b s m) := fun w h => by
  cases h; simp only [put]; omega
theorem vstz (v : BitVec 6) (b : BitVec 5) (s : BitVec 5) (c : BitVec 1) (m : BitVec 4) : Statement (.vstz v b s c m) := fun w h => by
  cases h; simp only [put]; omega
theorem vldm (v : BitVec 6) (b : BitVec 5) (o : BitVec 6) : Statement (.vldm v b o) := fun w h => by
  cases h; simp only [put]; omega
theorem vstm (v : BitVec 6) (b : BitVec 5) (o : BitVec 6) : Statement (.vstm v b o) := fun w h => by
  cases h; simp only [put]; omega
theorem vcvt (d : BitVec 6) (a : BitVec 6) (t : BitVec 4) (s : BitVec 1) (m : BitVec 4) (c : BitVec 1) (r : BitVec 3) : Statement (.vcvt d a t s m c r) := fun w h => by
  cases h; simp only [put]; omega
theorem vmv (d : BitVec 6) (a : BitVec 6) (m : BitVec 4) (c : BitVec 1) (n : BitVec 1) : Statement (.vmv d a m c n) := fun w h => by
  cases h; simp only [put]; omega
theorem vmvx (d : BitVec 5) (a : BitVec 6) (c : BitVec 1) : Statement (.vmvx d a c) := fun w h => by
  cases h; simp only [put]; omega
theorem vbcast (d : BitVec 6) (s : BitVec 5) (m : BitVec 4) (n : BitVec 1) : Statement (.vbcast d s m n) := fun w h => by
  cases h; simp only [put]; omega
theorem vfsqrt (d : BitVec 6) (a : BitVec 6) (m : BitVec 4) (c : BitVec 1) (n : BitVec 1) : Statement (.vfsqrt d a m c n) := fun w h => by
  cases h; simp only [put]; omega
theorem vfrcp (d : BitVec 6) (a : BitVec 6) (m : BitVec 4) (c : BitVec 1) (n : BitVec 1) : Statement (.vfrcp d a m c n) := fun w h => by
  cases h; simp only [put]; omega
theorem vfrsq (d : BitVec 6) (a : BitVec 6) (m : BitVec 4) (c : BitVec 1) (n : BitVec 1) : Statement (.vfrsq d a m c n) := fun w h => by
  cases h; simp only [put]; omega
theorem vfexp2 (d : BitVec 6) (a : BitVec 6) (m : BitVec 4) (c : BitVec 1) (n : BitVec 1) : Statement (.vfexp2 d a m c n) := fun w h => by
  cases h; simp only [put]; omega
theorem vflog2 (d : BitVec 6) (a : BitVec 6) (m : BitVec 4) (c : BitVec 1) (n : BitVec 1) : Statement (.vflog2 d a m c n) := fun w h => by
  cases h; simp only [put]; omega
theorem vfclass (d : BitVec 6) (a : BitVec 6) (m : BitVec 4) (c : BitVec 1) (n : BitVec 1) : Statement (.vfclass d a m c n) := fun w h => by
  cases h; simp only [put]; omega
theorem vfkey (d : BitVec 6) (a : BitVec 6) (m : BitVec 4) (c : BitVec 1) (n : BitVec 1) : Statement (.vfkey d a m c n) := fun w h => by
  cases h; simp only [put]; omega
theorem vredsum (d : BitVec 6) (a : BitVec 6) (m : BitVec 4) (c : BitVec 1) (n : BitVec 1) : Statement (.vredsum d a m c n) := fun w h => by
  cases h; simp only [put]; omega
theorem vredmax (d : BitVec 6) (a : BitVec 6) (m : BitVec 4) (c : BitVec 1) (n : BitVec 1) : Statement (.vredmax d a m c n) := fun w h => by
  cases h; simp only [put]; omega
theorem vredmin (d : BitVec 6) (a : BitVec 6) (m : BitVec 4) (c : BitVec 1) (n : BitVec 1) : Statement (.vredmin d a m c n) := fun w h => by
  cases h; simp only [put]; omega
theorem vfredsum (d : BitVec 6) (a : BitVec 6) (m : BitVec 4) (c : BitVec 1) (n : BitVec 1) : Statement (.vfredsum d a m c n) := fun w h => by
  cases h; simp only [put]; omega
theorem vfredmax (d : BitVec 6) (a : BitVec 6) (m : BitVec 4) (c : BitVec 1) (n : BitVec 1) : Statement (.vfredmax d a m c n) := fun w h => by
  cases h; simp only [put]; omega
theorem mand (d : BitVec 6) (a : BitVec 6) (b : BitVec 6) : Statement (.mand d a b) := fun w h => by
  cases h; simp only [put]; omega
theorem mor (d : BitVec 6) (a : BitVec 6) (b : BitVec 6) : Statement (.mor d a b) := fun w h => by
  cases h; simp only [put]; omega
theorem mxor (d : BitVec 6) (a : BitVec 6) (b : BitVec 6) : Statement (.mxor d a b) := fun w h => by
  cases h; simp only [put]; omega
theorem mandn (d : BitVec 6) (a : BitVec 6) (b : BitVec 6) : Statement (.mandn d a b) := fun w h => by
  cases h; simp only [put]; omega
theorem mnot (d : BitVec 6) (a : BitVec 6) : Statement (.mnot d a) := fun w h => by
  cases h; simp only [put]; omega
theorem mset (d : BitVec 6) : Statement (.mset d) := fun w h => by
  cases h; simp only [put]; omega
theorem mfirst (d : BitVec 5) (a : BitVec 6) : Statement (.mfirst d a) := fun w h => by
  cases h; simp only [put]; omega
theorem mpop (d : BitVec 5) (a : BitVec 6) : Statement (.mpop d a) := fun w h => by
  cases h; simp only [put]; omega
theorem mpopq (a : BitVec 6) : Statement (.mpopq a) := fun w h => by
  cases h; simp only [put]; omega
theorem miota (d : BitVec 6) (a : BitVec 6) : Statement (.miota d a) := fun w h => by
  cases h; simp only [put]; omega
theorem vsplit (w : BitVec 1) : Statement (.vsplit w) := fun w h => by
  cases h; simp only [put]; omega
theorem vjoin : Statement .vjoin := fun w h => by cases h; decide
theorem repf (n : BitVec 4) (v : BitVec 6) (g : BitVec 5) (s : BitVec 5) : Statement (.repf n v g s) := fun w h => by
  cases h; simp only [put]; omega
theorem vmerge (d : BitVec 6) (a : BitVec 6) (b : BitVec 6) (m : BitVec 4) (c : BitVec 1) (e : BitVec 1) : Statement (.vmerge d a b m c e) := fun w h => by
  cases h; simp only [put]; omega
theorem vslideup (d : BitVec 6) (a : BitVec 6) (s : BitVec 5) (m : BitVec 4) (c : BitVec 1) (n : BitVec 1) : Statement (.vslideup d a s m c n) := fun w h => by
  cases h; simp only [put]; omega
theorem vslidedn (d : BitVec 6) (a : BitVec 6) (s : BitVec 5) (m : BitVec 4) (c : BitVec 1) (n : BitVec 1) : Statement (.vslidedn d a s m c n) := fun w h => by
  cases h; simp only [put]; omega
theorem vperm (d : BitVec 6) (a : BitVec 6) (b : BitVec 6) (m : BitVec 4) (c : BitVec 1) (e : BitVec 1) : Statement (.vperm d a b m c e) := fun w h => by
  cases h; simp only [put]; omega
theorem vcompress (d : BitVec 6) (a : BitVec 6) (m : BitVec 4) (c : BitVec 1) (n : BitVec 1) : Statement (.vcompress d a m c n) := fun w h => by
  cases h; simp only [put]; omega
theorem vincx (d : BitVec 6) (a : BitVec 6) (b : BitVec 6) (m : BitVec 4) (c : BitVec 1) (e : BitVec 1) : Statement (.vincx d a b m c e) := fun w h => by
  cases h; simp only [put]; omega
theorem vidx (d : BitVec 6) (a : BitVec 5) (b : BitVec 5) (m : BitVec 4) (n : BitVec 1) : Statement (.vidx d a b m n) := fun w h => by
  cases h; simp only [put]; omega
theorem vaddVv (d : BitVec 6) (a : BitVec 6) (b : BitVec 6) (m : BitVec 4) (c : BitVec 1) (e : BitVec 1) : Statement (.vaddVv d a b m c e) := fun w h => by
  cases h; simp only [put]; omega
theorem vsubVv (d : BitVec 6) (a : BitVec 6) (b : BitVec 6) (m : BitVec 4) (c : BitVec 1) (e : BitVec 1) : Statement (.vsubVv d a b m c e) := fun w h => by
  cases h; simp only [put]; omega
theorem vmulVv (d : BitVec 6) (a : BitVec 6) (b : BitVec 6) (m : BitVec 4) (c : BitVec 1) (e : BitVec 1) : Statement (.vmulVv d a b m c e) := fun w h => by
  cases h; simp only [put]; omega
theorem vmulhVv (d : BitVec 6) (a : BitVec 6) (b : BitVec 6) (m : BitVec 4) (c : BitVec 1) (e : BitVec 1) : Statement (.vmulhVv d a b m c e) := fun w h => by
  cases h; simp only [put]; omega
theorem vaddVs (d : BitVec 6) (a : BitVec 6) (s : BitVec 5) (m : BitVec 4) (c : BitVec 1) (n : BitVec 1) : Statement (.vaddVs d a s m c n) := fun w h => by
  cases h; simp only [put]; omega
theorem vsubVs (d : BitVec 6) (a : BitVec 6) (s : BitVec 5) (m : BitVec 4) (c : BitVec 1) (n : BitVec 1) : Statement (.vsubVs d a s m c n) := fun w h => by
  cases h; simp only [put]; omega
theorem vmulVs (d : BitVec 6) (a : BitVec 6) (s : BitVec 5) (m : BitVec 4) (c : BitVec 1) (n : BitVec 1) : Statement (.vmulVs d a s m c n) := fun w h => by
  cases h; simp only [put]; omega
theorem vmulhVs (d : BitVec 6) (a : BitVec 6) (s : BitVec 5) (m : BitVec 4) (c : BitVec 1) (n : BitVec 1) : Statement (.vmulhVs d a s m c n) := fun w h => by
  cases h; simp only [put]; omega
theorem vaddVi (d : BitVec 6) (a : BitVec 6) (k : BitVec 6) (m : BitVec 4) (c : BitVec 1) (n : BitVec 1) : Statement (.vaddVi d a k m c n) := fun w h => by
  cases h; simp only [put]; omega
theorem vsubVi (d : BitVec 6) (a : BitVec 6) (k : BitVec 6) (m : BitVec 4) (c : BitVec 1) (n : BitVec 1) : Statement (.vsubVi d a k m c n) := fun w h => by
  cases h; simp only [put]; omega
theorem vmulVi (d : BitVec 6) (a : BitVec 6) (k : BitVec 6) (m : BitVec 4) (c : BitVec 1) (n : BitVec 1) : Statement (.vmulVi d a k m c n) := fun w h => by
  cases h; simp only [put]; omega
theorem vmulhVi (d : BitVec 6) (a : BitVec 6) (k : BitVec 6) (m : BitVec 4) (c : BitVec 1) (n : BitVec 1) : Statement (.vmulhVi d a k m c n) := fun w h => by
  cases h; simp only [put]; omega
theorem vmacVv (d : BitVec 6) (a : BitVec 6) (b : BitVec 6) (m : BitVec 4) (c : BitVec 1) (e : BitVec 1) : Statement (.vmacVv d a b m c e) := fun w h => by
  cases h; simp only [put]; omega
theorem vminVv (d : BitVec 6) (a : BitVec 6) (b : BitVec 6) (m : BitVec 4) (c : BitVec 1) (e : BitVec 1) : Statement (.vminVv d a b m c e) := fun w h => by
  cases h; simp only [put]; omega
theorem vmaxVv (d : BitVec 6) (a : BitVec 6) (b : BitVec 6) (m : BitVec 4) (c : BitVec 1) (e : BitVec 1) : Statement (.vmaxVv d a b m c e) := fun w h => by
  cases h; simp only [put]; omega
theorem vabsdVv (d : BitVec 6) (a : BitVec 6) (b : BitVec 6) (m : BitVec 4) (c : BitVec 1) (e : BitVec 1) : Statement (.vabsdVv d a b m c e) := fun w h => by
  cases h; simp only [put]; omega
theorem vmacVs (d : BitVec 6) (a : BitVec 6) (s : BitVec 5) (m : BitVec 4) (c : BitVec 1) (n : BitVec 1) : Statement (.vmacVs d a s m c n) := fun w h => by
  cases h; simp only [put]; omega
theorem vminVs (d : BitVec 6) (a : BitVec 6) (s : BitVec 5) (m : BitVec 4) (c : BitVec 1) (n : BitVec 1) : Statement (.vminVs d a s m c n) := fun w h => by
  cases h; simp only [put]; omega
theorem vmaxVs (d : BitVec 6) (a : BitVec 6) (s : BitVec 5) (m : BitVec 4) (c : BitVec 1) (n : BitVec 1) : Statement (.vmaxVs d a s m c n) := fun w h => by
  cases h; simp only [put]; omega
theorem vabsdVs (d : BitVec 6) (a : BitVec 6) (s : BitVec 5) (m : BitVec 4) (c : BitVec 1) (n : BitVec 1) : Statement (.vabsdVs d a s m c n) := fun w h => by
  cases h; simp only [put]; omega
theorem vmacVi (d : BitVec 6) (a : BitVec 6) (k : BitVec 6) (m : BitVec 4) (c : BitVec 1) (n : BitVec 1) : Statement (.vmacVi d a k m c n) := fun w h => by
  cases h; simp only [put]; omega
theorem vminVi (d : BitVec 6) (a : BitVec 6) (k : BitVec 6) (m : BitVec 4) (c : BitVec 1) (n : BitVec 1) : Statement (.vminVi d a k m c n) := fun w h => by
  cases h; simp only [put]; omega
theorem vmaxVi (d : BitVec 6) (a : BitVec 6) (k : BitVec 6) (m : BitVec 4) (c : BitVec 1) (n : BitVec 1) : Statement (.vmaxVi d a k m c n) := fun w h => by
  cases h; simp only [put]; omega
theorem vabsdVi (d : BitVec 6) (a : BitVec 6) (k : BitVec 6) (m : BitVec 4) (c : BitVec 1) (n : BitVec 1) : Statement (.vabsdVi d a k m c n) := fun w h => by
  cases h; simp only [put]; omega
theorem vandVv (d : BitVec 6) (a : BitVec 6) (b : BitVec 6) (m : BitVec 4) (c : BitVec 1) (e : BitVec 1) : Statement (.vandVv d a b m c e) := fun w h => by
  cases h; simp only [put]; omega
theorem vorVv (d : BitVec 6) (a : BitVec 6) (b : BitVec 6) (m : BitVec 4) (c : BitVec 1) (e : BitVec 1) : Statement (.vorVv d a b m c e) := fun w h => by
  cases h; simp only [put]; omega
theorem vxorVv (d : BitVec 6) (a : BitVec 6) (b : BitVec 6) (m : BitVec 4) (c : BitVec 1) (e : BitVec 1) : Statement (.vxorVv d a b m c e) := fun w h => by
  cases h; simp only [put]; omega
theorem vsllVv (d : BitVec 6) (a : BitVec 6) (b : BitVec 6) (m : BitVec 4) (c : BitVec 1) (e : BitVec 1) : Statement (.vsllVv d a b m c e) := fun w h => by
  cases h; simp only [put]; omega
theorem vandVs (d : BitVec 6) (a : BitVec 6) (s : BitVec 5) (m : BitVec 4) (c : BitVec 1) (n : BitVec 1) : Statement (.vandVs d a s m c n) := fun w h => by
  cases h; simp only [put]; omega
theorem vorVs (d : BitVec 6) (a : BitVec 6) (s : BitVec 5) (m : BitVec 4) (c : BitVec 1) (n : BitVec 1) : Statement (.vorVs d a s m c n) := fun w h => by
  cases h; simp only [put]; omega
theorem vxorVs (d : BitVec 6) (a : BitVec 6) (s : BitVec 5) (m : BitVec 4) (c : BitVec 1) (n : BitVec 1) : Statement (.vxorVs d a s m c n) := fun w h => by
  cases h; simp only [put]; omega
theorem vsllVs (d : BitVec 6) (a : BitVec 6) (s : BitVec 5) (m : BitVec 4) (c : BitVec 1) (n : BitVec 1) : Statement (.vsllVs d a s m c n) := fun w h => by
  cases h; simp only [put]; omega
theorem vandVi (d : BitVec 6) (a : BitVec 6) (k : BitVec 6) (m : BitVec 4) (c : BitVec 1) (n : BitVec 1) : Statement (.vandVi d a k m c n) := fun w h => by
  cases h; simp only [put]; omega
theorem vorVi (d : BitVec 6) (a : BitVec 6) (k : BitVec 6) (m : BitVec 4) (c : BitVec 1) (n : BitVec 1) : Statement (.vorVi d a k m c n) := fun w h => by
  cases h; simp only [put]; omega
theorem vxorVi (d : BitVec 6) (a : BitVec 6) (k : BitVec 6) (m : BitVec 4) (c : BitVec 1) (n : BitVec 1) : Statement (.vxorVi d a k m c n) := fun w h => by
  cases h; simp only [put]; omega
theorem vsllVi (d : BitVec 6) (a : BitVec 6) (k : BitVec 6) (m : BitVec 4) (c : BitVec 1) (n : BitVec 1) : Statement (.vsllVi d a k m c n) := fun w h => by
  cases h; simp only [put]; omega
theorem vsrlVv (d : BitVec 6) (a : BitVec 6) (b : BitVec 6) (m : BitVec 4) (c : BitVec 1) (e : BitVec 1) : Statement (.vsrlVv d a b m c e) := fun w h => by
  cases h; simp only [put]; omega
theorem vsraVv (d : BitVec 6) (a : BitVec 6) (b : BitVec 6) (m : BitVec 4) (c : BitVec 1) (e : BitVec 1) : Statement (.vsraVv d a b m c e) := fun w h => by
  cases h; simp only [put]; omega
theorem vsaddVv (d : BitVec 6) (a : BitVec 6) (b : BitVec 6) (m : BitVec 4) (c : BitVec 1) (e : BitVec 1) : Statement (.vsaddVv d a b m c e) := fun w h => by
  cases h; simp only [put]; omega
theorem vssubVv (d : BitVec 6) (a : BitVec 6) (b : BitVec 6) (m : BitVec 4) (c : BitVec 1) (e : BitVec 1) : Statement (.vssubVv d a b m c e) := fun w h => by
  cases h; simp only [put]; omega
theorem vsrlVs (d : BitVec 6) (a : BitVec 6) (s : BitVec 5) (m : BitVec 4) (c : BitVec 1) (n : BitVec 1) : Statement (.vsrlVs d a s m c n) := fun w h => by
  cases h; simp only [put]; omega
theorem vsraVs (d : BitVec 6) (a : BitVec 6) (s : BitVec 5) (m : BitVec 4) (c : BitVec 1) (n : BitVec 1) : Statement (.vsraVs d a s m c n) := fun w h => by
  cases h; simp only [put]; omega
theorem vsaddVs (d : BitVec 6) (a : BitVec 6) (s : BitVec 5) (m : BitVec 4) (c : BitVec 1) (n : BitVec 1) : Statement (.vsaddVs d a s m c n) := fun w h => by
  cases h; simp only [put]; omega
theorem vssubVs (d : BitVec 6) (a : BitVec 6) (s : BitVec 5) (m : BitVec 4) (c : BitVec 1) (n : BitVec 1) : Statement (.vssubVs d a s m c n) := fun w h => by
  cases h; simp only [put]; omega
theorem vsrlVi (d : BitVec 6) (a : BitVec 6) (k : BitVec 6) (m : BitVec 4) (c : BitVec 1) (n : BitVec 1) : Statement (.vsrlVi d a k m c n) := fun w h => by
  cases h; simp only [put]; omega
theorem vsraVi (d : BitVec 6) (a : BitVec 6) (k : BitVec 6) (m : BitVec 4) (c : BitVec 1) (n : BitVec 1) : Statement (.vsraVi d a k m c n) := fun w h => by
  cases h; simp only [put]; omega
theorem vsaddVi (d : BitVec 6) (a : BitVec 6) (k : BitVec 6) (m : BitVec 4) (c : BitVec 1) (n : BitVec 1) : Statement (.vsaddVi d a k m c n) := fun w h => by
  cases h; simp only [put]; omega
theorem vssubVi (d : BitVec 6) (a : BitVec 6) (k : BitVec 6) (m : BitVec 4) (c : BitVec 1) (n : BitVec 1) : Statement (.vssubVi d a k m c n) := fun w h => by
  cases h; simp only [put]; omega
theorem vwaddVv (d : BitVec 6) (a : BitVec 6) (b : BitVec 6) (m : BitVec 4) (c : BitVec 1) (e : BitVec 1) : Statement (.vwaddVv d a b m c e) := fun w h => by
  cases h; simp only [put]; omega
theorem vwmulVv (d : BitVec 6) (a : BitVec 6) (b : BitVec 6) (m : BitVec 4) (c : BitVec 1) (e : BitVec 1) : Statement (.vwmulVv d a b m c e) := fun w h => by
  cases h; simp only [put]; omega
theorem vnsrVv (d : BitVec 6) (a : BitVec 6) (b : BitVec 6) (m : BitVec 4) (c : BitVec 1) (e : BitVec 1) : Statement (.vnsrVv d a b m c e) := fun w h => by
  cases h; simp only [put]; omega
theorem vbextVv (d : BitVec 6) (a : BitVec 6) (b : BitVec 6) (m : BitVec 4) (c : BitVec 1) (e : BitVec 1) : Statement (.vbextVv d a b m c e) := fun w h => by
  cases h; simp only [put]; omega
theorem vwaddVs (d : BitVec 6) (a : BitVec 6) (s : BitVec 5) (m : BitVec 4) (c : BitVec 1) (n : BitVec 1) : Statement (.vwaddVs d a s m c n) := fun w h => by
  cases h; simp only [put]; omega
theorem vwmulVs (d : BitVec 6) (a : BitVec 6) (s : BitVec 5) (m : BitVec 4) (c : BitVec 1) (n : BitVec 1) : Statement (.vwmulVs d a s m c n) := fun w h => by
  cases h; simp only [put]; omega
theorem vnsrVs (d : BitVec 6) (a : BitVec 6) (s : BitVec 5) (m : BitVec 4) (c : BitVec 1) (n : BitVec 1) : Statement (.vnsrVs d a s m c n) := fun w h => by
  cases h; simp only [put]; omega
theorem vbextVs (d : BitVec 6) (a : BitVec 6) (s : BitVec 5) (m : BitVec 4) (c : BitVec 1) (n : BitVec 1) : Statement (.vbextVs d a s m c n) := fun w h => by
  cases h; simp only [put]; omega
theorem vwaddVi (d : BitVec 6) (a : BitVec 6) (k : BitVec 6) (m : BitVec 4) (c : BitVec 1) (n : BitVec 1) : Statement (.vwaddVi d a k m c n) := fun w h => by
  cases h; simp only [put]; omega
theorem vwmulVi (d : BitVec 6) (a : BitVec 6) (k : BitVec 6) (m : BitVec 4) (c : BitVec 1) (n : BitVec 1) : Statement (.vwmulVi d a k m c n) := fun w h => by
  cases h; simp only [put]; omega
theorem vnsrVi (d : BitVec 6) (a : BitVec 6) (k : BitVec 6) (m : BitVec 4) (c : BitVec 1) (n : BitVec 1) : Statement (.vnsrVi d a k m c n) := fun w h => by
  cases h; simp only [put]; omega
theorem vbextVi (d : BitVec 6) (a : BitVec 6) (k : BitVec 6) (m : BitVec 4) (c : BitVec 1) (n : BitVec 1) : Statement (.vbextVi d a k m c n) := fun w h => by
  cases h; simp only [put]; omega
theorem vcmpVv (d : BitVec 6) (a : BitVec 6) (b : BitVec 6) (m : BitVec 4) (c : BitVec 1) (e : BitVec 1) (q : BitVec 2) : Statement (.vcmpVv d a b m c e q) := fun w h => by
  cases h; simp only [put]; omega
theorem vcmpVs (d : BitVec 6) (a : BitVec 6) (s : BitVec 5) (m : BitVec 4) (c : BitVec 1) (n : BitVec 1) (q : BitVec 2) : Statement (.vcmpVs d a s m c n q) := fun w h => by
  cases h; simp only [put]; omega
theorem vcmpVi (d : BitVec 6) (a : BitVec 6) (k : BitVec 6) (m : BitVec 4) (c : BitVec 1) (n : BitVec 1) (q : BitVec 2) : Statement (.vcmpVi d a k m c n q) := fun w h => by
  cases h; simp only [put]; omega
theorem vfaddVv (d : BitVec 6) (a : BitVec 6) (b : BitVec 6) (m : BitVec 4) (c : BitVec 1) (e : BitVec 1) : Statement (.vfaddVv d a b m c e) := fun w h => by
  cases h; simp only [put]; omega
theorem vfsubVv (d : BitVec 6) (a : BitVec 6) (b : BitVec 6) (m : BitVec 4) (c : BitVec 1) (e : BitVec 1) : Statement (.vfsubVv d a b m c e) := fun w h => by
  cases h; simp only [put]; omega
theorem vfmulVv (d : BitVec 6) (a : BitVec 6) (b : BitVec 6) (m : BitVec 4) (c : BitVec 1) (e : BitVec 1) : Statement (.vfmulVv d a b m c e) := fun w h => by
  cases h; simp only [put]; omega
theorem vfmaVv (d : BitVec 6) (a : BitVec 6) (b : BitVec 6) (m : BitVec 4) (c : BitVec 1) (e : BitVec 1) : Statement (.vfmaVv d a b m c e) := fun w h => by
  cases h; simp only [put]; omega
theorem vfaddVs (d : BitVec 6) (a : BitVec 6) (s : BitVec 5) (m : BitVec 4) (c : BitVec 1) (n : BitVec 1) : Statement (.vfaddVs d a s m c n) := fun w h => by
  cases h; simp only [put]; omega
theorem vfsubVs (d : BitVec 6) (a : BitVec 6) (s : BitVec 5) (m : BitVec 4) (c : BitVec 1) (n : BitVec 1) : Statement (.vfsubVs d a s m c n) := fun w h => by
  cases h; simp only [put]; omega
theorem vfmulVs (d : BitVec 6) (a : BitVec 6) (s : BitVec 5) (m : BitVec 4) (c : BitVec 1) (n : BitVec 1) : Statement (.vfmulVs d a s m c n) := fun w h => by
  cases h; simp only [put]; omega
theorem vfmaVs (d : BitVec 6) (a : BitVec 6) (s : BitVec 5) (m : BitVec 4) (c : BitVec 1) (n : BitVec 1) : Statement (.vfmaVs d a s m c n) := fun w h => by
  cases h; simp only [put]; omega
theorem vfdivVv (d : BitVec 6) (a : BitVec 6) (b : BitVec 6) (m : BitVec 4) (c : BitVec 1) (e : BitVec 1) : Statement (.vfdivVv d a b m c e) := fun w h => by
  cases h; simp only [put]; omega
theorem vfminVv (d : BitVec 6) (a : BitVec 6) (b : BitVec 6) (m : BitVec 4) (c : BitVec 1) (e : BitVec 1) : Statement (.vfminVv d a b m c e) := fun w h => by
  cases h; simp only [put]; omega
theorem vfmaxVv (d : BitVec 6) (a : BitVec 6) (b : BitVec 6) (m : BitVec 4) (c : BitVec 1) (e : BitVec 1) : Statement (.vfmaxVv d a b m c e) := fun w h => by
  cases h; simp only [put]; omega
theorem vfdivVs (d : BitVec 6) (a : BitVec 6) (s : BitVec 5) (m : BitVec 4) (c : BitVec 1) (n : BitVec 1) : Statement (.vfdivVs d a s m c n) := fun w h => by
  cases h; simp only [put]; omega
theorem vfminVs (d : BitVec 6) (a : BitVec 6) (s : BitVec 5) (m : BitVec 4) (c : BitVec 1) (n : BitVec 1) : Statement (.vfminVs d a s m c n) := fun w h => by
  cases h; simp only [put]; omega
theorem vfmaxVs (d : BitVec 6) (a : BitVec 6) (s : BitVec 5) (m : BitVec 4) (c : BitVec 1) (n : BitVec 1) : Statement (.vfmaxVs d a s m c n) := fun w h => by
  cases h; simp only [put]; omega
theorem vfcmpVv (d : BitVec 6) (a : BitVec 6) (b : BitVec 6) (m : BitVec 4) (c : BitVec 1) (e : BitVec 1) (q : BitVec 2) : Statement (.vfcmpVv d a b m c e q) := fun w h => by
  cases h; simp only [put]; omega
theorem vfcmpVs (d : BitVec 6) (a : BitVec 6) (s : BitVec 5) (m : BitVec 4) (c : BitVec 1) (n : BitVec 1) (q : BitVec 2) : Statement (.vfcmpVs d a s m c n q) := fun w h => by
  cases h; simp only [put]; omega
theorem tld (y : BitVec 3) (a : BitVec 5) (b : BitVec 5) : Statement (.tld y a b) := fun w h => by
  cases h; simp only [put]; omega
theorem tldt (y : BitVec 3) (a : BitVec 5) (b : BitVec 5) : Statement (.tldt y a b) := fun w h => by
  cases h; simp only [put]; omega
theorem tldc (y : BitVec 3) (a : BitVec 5) (b : BitVec 5) : Statement (.tldc y a b) := fun w h => by
  cases h; simp only [put]; omega
theorem tst (y : BitVec 3) (a : BitVec 5) (b : BitVec 5) : Statement (.tst y a b) := fun w h => by
  cases h; simp only [put]; omega
theorem tstc (y : BitVec 3) (a : BitVec 5) (b : BitVec 5) : Statement (.tstc y a b) := fun w h => by
  cases h; simp only [put]; omega
theorem tmvr (y : BitVec 3) (v : BitVec 6) (i : BitVec 5) (t : BitVec 4) (r : BitVec 3) (d : BitVec 1) : Statement (.tmvr y v i t r d) := fun w h => by
  cases h; simp only [put]; omega
theorem tmvc (y : BitVec 3) (v : BitVec 6) (i : BitVec 5) (t : BitVec 4) (r : BitVec 3) : Statement (.tmvc y v i t r) := fun w h => by
  cases h; simp only [put]; omega
theorem tzero (y : BitVec 3) : Statement (.tzero y) := fun w h => by
  cases h; simp only [put]; omega
theorem scld (g : BitVec 5) (k : BitVec 1) (s : BitVec 4) (o : BitVec 12) : Statement (.scld g k s o) := fun w h => by
  cases h; simp only [put]; omega
theorem vmt (d : BitVec 6) (a : BitVec 6) (y : BitVec 3) (r : BitVec 3) (m : BitVec 4) (c : BitVec 1) (s : BitVec 1) (t : BitVec 2) : Statement (.vmt d a y r m c s t) := fun w h => by
  cases h; simp only [put]; omega
theorem amoadd (d : BitVec 5) (a : BitVec 5) (b : BitVec 5) (o : BitVec 2) (p : BitVec 2) (z : BitVec 2) : Statement (.amoadd d a b o p z) := fun w h => by
  cases h; simp only [put]; omega
theorem amoswap (d : BitVec 5) (a : BitVec 5) (b : BitVec 5) (o : BitVec 2) (p : BitVec 2) (z : BitVec 2) : Statement (.amoswap d a b o p z) := fun w h => by
  cases h; simp only [put]; omega
theorem amocas (d : BitVec 5) (a : BitVec 5) (b : BitVec 5) (o : BitVec 2) (p : BitVec 2) (z : BitVec 2) : Statement (.amocas d a b o p z) := fun w h => by
  cases h; simp only [put]; omega
theorem amomin (d : BitVec 5) (a : BitVec 5) (b : BitVec 5) (o : BitVec 2) (p : BitVec 2) (z : BitVec 2) : Statement (.amomin d a b o p z) := fun w h => by
  cases h; simp only [put]; omega
theorem amomax (d : BitVec 5) (a : BitVec 5) (b : BitVec 5) (o : BitVec 2) (p : BitVec 2) (z : BitVec 2) : Statement (.amomax d a b o p z) := fun w h => by
  cases h; simp only [put]; omega
theorem amoand (d : BitVec 5) (a : BitVec 5) (b : BitVec 5) (o : BitVec 2) (p : BitVec 2) (z : BitVec 2) : Statement (.amoand d a b o p z) := fun w h => by
  cases h; simp only [put]; omega
theorem amoor (d : BitVec 5) (a : BitVec 5) (b : BitVec 5) (o : BitVec 2) (p : BitVec 2) (z : BitVec 2) : Statement (.amoor d a b o p z) := fun w h => by
  cases h; simp only [put]; omega
theorem amoxor (d : BitVec 5) (a : BitVec 5) (b : BitVec 5) (o : BitVec 2) (p : BitVec 2) (z : BitVec 2) : Statement (.amoxor d a b o p z) := fun w h => by
  cases h; simp only [put]; omega
theorem amofadd (d : BitVec 5) (a : BitVec 5) (b : BitVec 5) (o : BitVec 2) (p : BitVec 2) : Statement (.amofadd d a b o p) := fun w h => by
  cases h; simp only [put]; omega
theorem ldacq (d : BitVec 5) (a : BitVec 5) (p : BitVec 2) (z : BitVec 3) : Statement (.ldacq d a p z) := fun w h => by
  cases h; simp only [put]; omega
theorem strel (a : BitVec 5) (b : BitVec 5) (p : BitVec 2) (z : BitVec 2) : Statement (.strel a b p z) := fun w h => by
  cases h; simp only [put]; omega
theorem fence (k : BitVec 3) (p : BitVec 2) : Statement (.fence k p) := fun w h => by
  cases h; simp only [put]; omega
theorem boinit (a : BitVec 5) (b : BitVec 5) : Statement (.boinit a b) := fun w h => by
  cases h; simp only [put]; omega
theorem boexp (d : BitVec 5) (a : BitVec 5) (b : BitVec 5) : Statement (.boexp d a b) := fun w h => by
  cases h; simp only [put]; omega
theorem boadd (d : BitVec 5) (a : BitVec 5) (b : BitVec 5) : Statement (.boadd d a b) := fun w h => by
  cases h; simp only [put]; omega
theorem boarr (d : BitVec 5) (a : BitVec 5) (b : BitVec 5) : Statement (.boarr d a b) := fun w h => by
  cases h; simp only [put]; omega
theorem bowait (d : BitVec 5) (a : BitVec 5) (b : BitVec 5) : Statement (.bowait d a b) := fun w h => by
  cases h; simp only [put]; omega
theorem cbar : Statement .cbar := fun w h => by cases h; decide
theorem tbar : Statement .tbar := fun w h => by cases h; decide
theorem scopy (d : BitVec 5) (a : BitVec 5) (b : BitVec 5) : Statement (.scopy d a b) := fun w h => by
  cases h; simp only [put]; omega
theorem sfill (d : BitVec 5) (a : BitVec 5) (b : BitVec 5) : Statement (.sfill d a b) := fun w h => by
  cases h; simp only [put]; omega
theorem sgath (d : BitVec 5) (a : BitVec 5) (b : BitVec 5) : Statement (.sgath d a b) := fun w h => by
  cases h; simp only [put]; omega
theorem sscat (d : BitVec 5) (a : BitVec 5) (b : BitVec 5) : Statement (.sscat d a b) := fun w h => by
  cases h; simp only [put]; omega
theorem launch (d : BitVec 5) (a : BitVec 5) (b : BitVec 5) : Statement (.launch d a b) := fun w h => by
  cases h; simp only [put]; omega
theorem dtld (a : BitVec 5) (b : BitVec 5) : Statement (.dtld a b) := fun w h => by
  cases h; simp only [put]; omega
theorem cbload (d : BitVec 5) (a : BitVec 5) (x : BitVec 5) (opt : BitVec 8) : Statement (.cbload d a x opt) := fun w h => by
  cases h; simp only [put]; omega
theorem tbuild (d : BitVec 5) (a : BitVec 5) (x : BitVec 5) (opt : BitVec 8) : Statement (.tbuild d a x opt) := fun w h => by
  cases h; simp only [put]; omega
theorem bdtld (d : BitVec 5) (a : BitVec 5) (x : BitVec 5) (opt : BitVec 8) : Statement (.bdtld d a x opt) := fun w h => by
  cases h; simp only [put]; omega
theorem lkacc (d : BitVec 5) (a : BitVec 5) (x : BitVec 5) (opt : BitVec 8) : Statement (.lkacc d a x opt) := fun w h => by
  cases h; simp only [put]; omega
theorem lkrd (d : BitVec 5) (a : BitVec 5) (x : BitVec 5) (opt : BitVec 8) : Statement (.lkrd d a x opt) := fun w h => by
  cases h; simp only [put]; omega
theorem lkclr (d : BitVec 5) (a : BitVec 5) (x : BitVec 5) (opt : BitVec 8) : Statement (.lkclr d a x opt) := fun w h => by
  cases h; simp only [put]; omega
theorem rcopy (d : BitVec 5) (a : BitVec 5) (x : BitVec 5) (opt : BitVec 8) : Statement (.rcopy d a x opt) := fun w h => by
  cases h; simp only [put]; omega
theorem rfill (d : BitVec 5) (a : BitVec 5) (x : BitVec 5) (opt : BitVec 8) : Statement (.rfill d a x opt) := fun w h => by
  cases h; simp only [put]; omega
theorem sealarm (d : BitVec 5) (a : BitVec 5) (x : BitVec 5) (opt : BitVec 8) : Statement (.sealarm d a x opt) := fun w h => by
  cases h; simp only [put]; omega
theorem sealoff (d : BitVec 5) (a : BitVec 5) (x : BitVec 5) (opt : BitVec 8) : Statement (.sealoff d a x opt) := fun w h => by
  cases h; simp only [put]; omega
theorem stkpass (d : BitVec 5) (a : BitVec 5) (x : BitVec 5) (opt : BitVec 8) : Statement (.stkpass d a x opt) := fun w h => by
  cases h; simp only [put]; omega
theorem stkqry (d : BitVec 5) (a : BitVec 5) (opt : BitVec 8) : Statement (.stkqry d a opt) := fun w h => by
  cases h; simp only [put]; omega
theorem stripClose (c : CoreId) : Statement (.stripClose c) := fun _ h => by cases h
theorem elementCauseTrap (c : CoreId) (t : TrapInfo) : Statement (.elementCauseTrap c t) := fun _ h => by cases h
theorem asyncCauseTrap (c : CoreId) : Statement (.asyncCauseTrap c) := fun _ h => by cases h
theorem wfeWake (c : CoreId) : Statement (.wfeWake c) := fun _ h => by cases h
theorem wfeTimeout (c : CoreId) : Statement (.wfeTimeout c) := fun _ h => by cases h
theorem bowaitReturn (c : CoreId) : Statement (.bowaitReturn c) := fun _ h => by cases h
theorem barrierRelease (c : CoreId) : Statement (.barrierRelease c) := fun _ h => by cases h
theorem setvlqPopResume (c : CoreId) : Statement (.setvlqPopResume c) := fun _ h => by cases h
theorem engineQueueRoom (c : CoreId) : Statement (.engineQueueRoom c) := fun _ h => by cases h
theorem sequencerRoom (c : CoreId) : Statement (.sequencerRoom c) := fun _ h => by cases h
theorem sideLogRoom (c : CoreId) : Statement (.sideLogRoom c) := fun _ h => by cases h
theorem sealWaitDone (c : CoreId) : Statement (.sealWaitDone c) := fun _ h => by cases h
theorem gateRelease (c : CoreId) : Statement (.gateRelease c) := fun _ h => by cases h
theorem laneReclaimRequest (victims : List (CoreId × Nat)) : Statement (.laneReclaimRequest victims) := fun _ h => by cases h
theorem reclaimTimeout (c : CoreId) : Statement (.reclaimTimeout c) := fun _ h => by cases h
theorem preemptRequest (m : MemberId) : Statement (.preemptRequest m) := fun _ h => by cases h
theorem forcedStop (c : CoreId) : Statement (.forcedStop c) := fun _ h => by cases h
theorem gangSaveDone (m : MemberId) : Statement (.gangSaveDone m) := fun _ h => by cases h
theorem crewResume (m : MemberId) (ps : List CrewPlace) : Statement (.crewResume m ps) := fun _ h => by cases h
theorem streamCmdPerform (die p id n : Nat) : Statement (.streamCmdPerform die p id n) := fun _ h => by cases h
theorem bankCmdStart (stack id : Nat) : Statement (.bankCmdStart stack id) := fun _ h => by cases h
theorem cbloadDone (stack id : Nat) : Statement (.cbloadDone stack id) := fun _ h => by cases h
theorem bdtldDone (stack id : Nat) : Statement (.bdtldDone stack id) := fun _ h => by cases h
theorem lkclrDone (stack id : Nat) : Statement (.lkclrDone stack id) := fun _ h => by cases h
theorem tbuildTableDone (stack id : Nat) : Statement (.tbuildTableDone stack id) := fun _ h => by cases h
theorem lkaccSegmentEnd (stack id bank : Nat) : Statement (.lkaccSegmentEnd stack id bank) := fun _ h => by cases h
theorem lkrdDone (stack id : Nat) : Statement (.lkrdDone stack id) := fun _ h => by cases h
theorem rcopyGranule (stack id i : Nat) : Statement (.rcopyGranule stack id i) := fun _ h => by cases h
theorem rfillGranule (stack id i : Nat) : Statement (.rfillGranule stack id i) := fun _ h => by cases h
theorem parkedCmdRejoin (stack id : Nat) : Statement (.parkedCmdRejoin stack id) := fun _ h => by cases h
theorem lockageCmdsDrained (stack : Nat) : Statement (.lockageCmdsDrained stack) := fun _ h => by cases h
theorem lockageWritesDrained (stack : Nat) : Statement (.lockageWritesDrained stack) := fun _ h => by cases h
theorem lockageRecallDone (stack : Nat) : Statement (.lockageRecallDone stack) := fun _ h => by cases h
theorem lockageBroadcastDone (stack : Nat) : Statement (.lockageBroadcastDone stack) := fun _ h => by cases h
theorem redirectRetry (c : CoreId) : Statement (.redirectRetry c) := fun _ h => by cases h
theorem nonhomeEviction (die line : Nat) : Statement (.nonhomeEviction die line) := fun _ h => by cases h
theorem pageWalk (die p : Nat) (va : BitVec 64) : Statement (.pageWalk die p va) := fun _ h => by cases h
theorem tlbcmdWrite (die : Nat) (v : BitVec 64) : Statement (.tlbcmdWrite die v) := fun _ h => by cases h
theorem shootdownDone (die : Nat) : Statement (.shootdownDone die) := fun _ h => by cases h
theorem slreplayWrite (die : Nat) (v : BitVec 64) : Statement (.slreplayWrite die v) := fun _ h => by cases h
theorem hctlResume (die : Nat) : Statement (.hctlResume die) := fun _ h => by cases h
theorem hctlForward (die : Nat) : Statement (.hctlForward die) := fun _ h => by cases h
theorem hctlEndCrew (die : Nat) : Statement (.hctlEndCrew die) := fun _ h => by cases h
theorem rtEntryWrite (die : Nat) (bcast : Bool) (i : Nat) (high : Bool) (v : BitVec 64) : Statement (.rtEntryWrite die bcast i high v) := fun _ h => by cases h
theorem hartContextWrite (die off : Nat) (v : BitVec 64) : Statement (.hartContextWrite die off v) := fun _ h => by cases h
theorem fqtailWrite (die : Nat) (v : BitVec 64) : Statement (.fqtailWrite die v) := fun _ h => by cases h
theorem regWrite (die : Nat) (bcast : Bool) (off : Nat) (v : BitVec 64) : Statement (.regWrite die bcast off v) := fun _ h => by cases h
theorem powerGood (temps : List Int) : Statement (.powerGood temps) := fun _ h => by cases h
theorem romComplete : Statement .romComplete := fun _ h => by cases h
theorem heatExit (temps : List Int) : Statement (.heatExit temps) := fun _ h => by cases h
theorem trainingTempCheck (temps : List Int) : Statement (.trainingTempCheck temps) := fun _ h => by cases h
theorem linksDone : Statement .linksDone := fun _ h => by cases h
theorem loadDone : Statement .loadDone := fun _ h => by cases h
theorem dramTrainDone : Statement .dramTrainDone := fun _ h => by cases h
theorem mapDone : Statement .mapDone := fun _ h => by cases h
theorem bootHello (f : BootFrame) : Statement (.bootHello f) := fun _ h => by cases h
theorem bootBegin (f : BootFrame) : Statement (.bootBegin f) := fun _ h => by cases h
theorem bootData (f : BootFrame) : Statement (.bootData f) := fun _ h => by cases h
theorem bootEnd (f : BootFrame) : Statement (.bootEnd f) := fun _ h => by cases h
theorem bootStatus (f : BootFrame) : Statement (.bootStatus f) := fun _ h => by cases h
theorem bootAttest (f : BootFrame) : Statement (.bootAttest f) := fun _ h => by cases h
theorem bootUnknownOp (f : BootFrame) : Statement (.bootUnknownOp f) := fun _ h => by cases h
theorem securityAlarm (trigger : AlarmReport) : Statement (.securityAlarm trigger) := fun _ h => by cases h
theorem rdmaWrite (q : RdmaHead) (data : List (BitVec 8)) : Statement (.rdmaWrite q data) := fun _ h => by cases h
theorem rdmaRead (q : RdmaHead) (len : Nat) : Statement (.rdmaRead q len) := fun _ h => by cases h
theorem rdmaCompareSwap (q : RdmaHead) (cmp swap : BitVec 64) : Statement (.rdmaCompareSwap q cmp swap) := fun _ h => by cases h
theorem rdmaFetchAdd (q : RdmaHead) (add : BitVec 64) : Statement (.rdmaFetchAdd q add) := fun _ h => by cases h
theorem rdmaUnsupportedOp (q : RdmaHead) : Statement (.rdmaUnsupportedOp q) := fun _ h => by cases h
theorem nonRcPacket (port : Nat) : Statement (.nonRcPacket port) := fun _ h => by cases h
theorem ecnMarkedPacket (qp : Nat) : Statement (.ecnMarkedPacket qp) := fun _ h => by cases h
theorem cnpReceived (qp : Nat) : Statement (.cnpReceived qp) := fun _ h => by cases h
theorem cmReq (qp port : Nat) : Statement (.cmReq qp port) := fun _ h => by cases h
theorem cmRep (qp port : Nat) : Statement (.cmRep qp port) := fun _ h => by cases h
theorem cmRtu (qp : Nat) : Statement (.cmRtu qp) := fun _ h => by cases h
theorem cmRej (qp : Nat) : Statement (.cmRej qp) := fun _ h => by cases h
theorem cmDreq (qp : Nat) : Statement (.cmDreq qp) := fun _ h => by cases h
theorem cmDrep (qp : Nat) : Statement (.cmDrep qp) := fun _ h => by cases h
theorem outboundResponse (id : Nat) (data : List (BitVec 8)) : Statement (.outboundResponse id data) := fun _ h => by cases h
theorem outboundNak (id : NakReport) : Statement (.outboundNak id) := fun _ h => by cases h
theorem configRequest : Statement .configRequest := fun _ h => by cases h
theorem queueEnable (q : Nat) (d0 d1 : BitVec 64) : Statement (.queueEnable q d0 d1) := fun _ h => by cases h
theorem queueDisable (q : Nat) : Statement (.queueDisable q) := fun _ h => by cases h
theorem slotRead (q : Nat) : Statement (.slotRead q) := fun _ h => by cases h
theorem admissionDecision : Statement .admissionDecision := fun _ h => by cases h
theorem placingComplete (m : MemberId) : Statement (.placingComplete m) := fun _ h => by cases h
theorem backfillBoundExpiry (m : MemberId) : Statement (.backfillBoundExpiry m) := fun _ h => by cases h
theorem memberComplete (m : MemberId) : Statement (.memberComplete m) := fun _ h => by cases h
theorem ceilingCommand : Statement .ceilingCommand := fun _ h => by cases h
theorem mgmtPoll : Statement .mgmtPoll := fun _ h => by cases h
theorem telemetryWrite (t : Telemetry) : Statement (.telemetryWrite t) := fun _ h => by cases h
theorem energyCharge (die : Nat) (e : EnergySample) : Statement (.energyCharge die e) := fun _ h => by cases h
theorem drainHalve (die : Nat) : Statement (.drainHalve die) := fun _ h => by cases h
theorem drainDouble (die : Nat) : Statement (.drainDouble die) := fun _ h => by cases h
theorem heatMoveCheck (temps : List Int) : Statement (.heatMoveCheck temps) := fun _ h => by cases h
theorem thermalBudgetStep (die : Nat) (temps : List Int) : Statement (.thermalBudgetStep die temps) := fun _ h => by cases h
theorem hardThermalLimit (die : Nat) (temps : List Int) : Statement (.hardThermalLimit die temps) := fun _ h => by cases h
theorem thermalRecover (die : Nat) (temps : List Int) : Statement (.thermalRecover die temps) := fun _ h => by cases h
theorem coldHeater (temps : List Int) : Statement (.coldHeater temps) := fun _ h => by cases h
theorem laneGroupGate (die p group : Nat) : Statement (.laneGroupGate die p group) := fun _ h => by cases h
theorem laneGroupWake (die p group : Nat) : Statement (.laneGroupWake die p group) := fun _ h => by cases h
theorem supplyDroop (die cycles : Nat) : Statement (.supplyDroop die cycles) := fun _ h => by cases h
theorem voltageGuardUpdate (die : Nat) (temps : List Int) : Statement (.voltageGuardUpdate die temps) := fun _ h => by cases h
theorem linkRetrain (die edge module : Nat) (ok : Retraining) : Statement (.linkRetrain die edge module ok) := fun _ h => by cases h
theorem dramRetrain (stack group : Nat) (start : Bool) : Statement (.dramRetrain stack group start) := fun _ h => by cases h
theorem dramScrub : Statement .dramScrub := fun _ h => by cases h
theorem sramScrub : Statement .sramScrub := fun _ h => by cases h
theorem eccError (e : EccError) : Statement (.eccError e) := fun _ h => by cases h
theorem dieDead (die : Nat) : Statement (.dieDead die) := fun _ h => by cases h
theorem illegalInstruction (w : BitVec 32) : Statement (.illegalInstruction w) := fun _ h => by cases h
theorem fetchFault (t : TrapInfo) : Statement (.fetchFault t) := fun _ h => by cases h
theorem powerOff : Statement .powerOff := fun _ h => by cases h
theorem localAckTimeout (qp : Nat) : Statement (.localAckTimeout qp) := fun _ h => by cases h
theorem pfcPauseFrame (port prio : Nat) (pause : Bool) : Statement (.pfcPauseFrame port prio pause) := fun _ h => by cases h
theorem cmMraTimeout (qp : Nat) : Statement (.cmMraTimeout qp) := fun _ h => by cases h
theorem linkFlitError (die : Nat) (lost : Option (CoreId × BitVec 64)) : Statement (.linkFlitError die lost) := fun _ h => by cases h
theorem coldHeaterStop (temps : List Int) : Statement (.coldHeaterStop temps) := fun _ h => by cases h

end Sys2Proof.Laws.WordFits
end

