-- ==== Sys2Proof/Tests/Slice0.lean ====
section
/-! SUPPORT. Tests: ill-formed terms that WellFormed refuses, words written out from the manual's encodings, single steps, and for
every statement with hypotheses a state and operands that meet them. -/

namespace Sys2Proof.Tests

open Sys2Proof Sys2Proof.Machine

set_option Elab.async false

/-! Ill-formed terms, one for each check of WellFormed (R43, R65, R67, R73, R83, R84). -/

theorem test_illformed_mask_register : (Instr.mand 48 1 2).wellFormed = false := by decide
theorem test_illformed_rounding : (Instr.vcvt 0 2 13 0 0 0 5).wellFormed = false := by decide
theorem test_illformed_inverted : (Instr.vmv 0 2 0 0 1).wellFormed = false := by decide
theorem test_illformed_load_size : (Instr.ldx 5 6 7 7 3).wellFormed = false := by decide
theorem test_illformed_fence_kinds : (Instr.fence 0 2).wellFormed = false := by decide
theorem test_illformed_tile_format : (Instr.vmt 16 4 0 0 1 0 1 3).wellFormed = false := by decide
theorem test_illformed_words_refused : (decode 0xDC000007).toOption = none ∧ (decode 0x50000030).toOption = none := by decide

/-! Words of the manual's worked examples (R96, R98, R100, R106, R109, R111, R118, R125, R133, R157, R163, R165, R176 to R181,
R188, R193, R196, R198, R237). -/

theorem test_word_scalar : (decode 0x04E70001).toOption = some (.addi 7 7 1) := by decide
theorem test_word_load : (decode 0x00A63BE0).toOption = some (.ldx 5 6 7 3 3) := by decide
theorem test_word_branch : (decode 0x28600002).toOption = some (.beq 3 0 2) := by decide
theorem test_word_loop : (decode 0x2452FFFF).toOption = some (.loop 5 0xFFFF) := by decide
theorem test_word_system : (decode 0x21407006).toOption = some (.topo 10 6) ∧ (decode 0x20806006).toOption = some (.enrg 4) := by decide
theorem test_word_setvl : (decode 0x40A61E00).toOption = some (.setvl 5 6 0 15 0) := by decide
theorem test_word_mask : (decode 0x50010009).toOption = some (.mpopq 4) := by decide
theorem test_word_split : (decode 0x54800000).toOption = some (.vsplit 1) ∧ (decode 0x55000000).toOption = some .vjoin := by decide
theorem test_word_tile_move : (decode 0xC5900B00).toOption = some (.tmvr 3 8 0 0xB 0 0) ∧ (decode 0xC5905E01).toOption = some (.tmvc 3 8 5 0xE 0) ∧
    (decode 0xC090A000).toOption = some (.tld 1 4 5) := by decide
theorem test_word_barrier : (decode 0xE0090000).toOption = some (.boinit 9 0) ∧ (decode 0xE0000005).toOption = some .cbar ∧ (decode 0xE0000006).toOption = some .tbar := by
  decide
theorem test_word_object : (decode 0xE0C92801).toOption = some (.boexp 6 9 5) ∧ (decode 0xE0C93004).toOption = some (.bowait 6 9 6) := by decide
theorem test_word_stream : (decode 0xE4A84800).toOption = some (.scopy 5 8 9) := by decide
theorem test_word_sync : (decode 0xDCA60098).toOption = some (.ldacq 5 6 2 3) ∧ (decode 0xDC063899).toOption = some (.strel 6 7 2 3) := by decide
theorem test_word_matrix : (decode 0xCD010015).toOption = some (.vmt 16 4 0 0 1 0 1 1) ∧ (decode 0xC8930020).toOption = some (.scld 4 1 3 2) := by
  decide
theorem test_word_vector : (decode 0x70808418).toOption = some (.vmacVs 8 2 4 1 1 0) ∧
    (decode 0xA8610503).toOption = some (.vfmaVv 6 4 5 0 0 0) := by decide
theorem test_word_function : (decode 0x4C30C400).toOption = some (.vfsqrt 3 3 0 0 0) ∧ (decode 0x5C214602).toOption = some (.vidx 2 5 6 0 0) := by
  decide
theorem test_word_launch : (decode 0xE8A63800).toOption = some (.launch 5 6 7) ∧ (decode 0xE8063801).toOption = some (.dtld 6 7) := by decide
theorem test_word_atomic : (decode 0xD8A63850).toOption = some (.amoadd 5 6 7 0 1 1) ∧ (decode 0xDC000782).toOption = some (.fence 7 2) := by
  decide
theorem test_word_stack : (decode 0xF4A60300).toOption = some (.stkqry 5 6 0) := by decide


/-! States for the witnesses: a hart of a crew of one, a lane thread, a steward core, each alone on the panel. -/

/-- A hart with a legal vector state: .i8, grouping 1, 8 elements, one row, four lanes. -/
def hart : Core :=
  { placeHart with
    grant := 4
    rc := 1
    ill := false
    fmt := 2
    vl := 8
    g := (placeHart.g.set 5 0x40).set 6 3 }

/-- The panel with that core alone, and its crew if it is the hart. -/
def panelOf (c : Core) : State :=
  { State.reset with
    cur := c.id
    cores := [c]
    members := [⟨placeMember, .resident, [placeCrew], 0, false, [], 0, [], [], 0, false⟩] }

/-- Lane thread 3, the last active one, of the hart. -/
def lane : Core := { hart with split := ⟨true, false, 0x8, 0, 0, 0, Vector.replicate 16 0x100000000, 3⟩ }

/-- A steward core at machine level. -/
def stew : Core := Core.start (.steward 0) none .machine 0x8000 0 0

theorem hart_plain : (panelOf hart).Plain hart := ⟨rfl, rfl, rfl, rfl, rfl⟩
theorem hart_calm : (panelOf hart).Calm hart := ⟨hart_plain, rfl, rfl⟩
theorem lane_inLane : (panelOf lane).InLane lane := ⟨rfl, rfl, rfl, rfl, rfl⟩
theorem stew_calm : (panelOf stew).Calm stew := ⟨⟨rfl, rfl, rfl, rfl, rfl⟩, rfl, rfl⟩
theorem panel_canonical (c : Core) : (panelOf c).Canonical := ⟨rfl, rfl, rfl, List.Pairwise.nil, by intro x h; cases h⟩
theorem hart_noCommands : (panelOf hart).NoCommands hart := ⟨rfl, rfl, by intro k h; cases h⟩
theorem hart_legal : Rules.vectorLegal hart := by unfold Rules.vectorLegal; decide +kernel
theorem hart_gate : (panelOf hart).GateOpen hart := by decide +kernel
theorem hart_window : Rules.windowReady (panelOf hart) hart := ⟨hart_calm, rfl, hart_legal, hart_gate, hart_noCommands⟩

/-! What the statements on decoding, steps and the scalar families assume. -/

theorem witness_DecodeOfEncode : (Instr.add 31 31 31).wellFormed = true ∧ encode (.add 31 31 31) = some 0x03FFF801 := by decide +kernel
theorem witness_EncodeOfDecode : 0xF4A60300 < 2 ^ 32 ∧ decode 0xF4A60300 = .ok (.stkqry 5 6 0) := ⟨by decide, rfl⟩
theorem witness_StepRuns_event : ({ panelOf hart with schedule := [.event .mgmtPoll] } : State).schedule = .event .mgmtPoll :: [] := by
  decide +kernel

/-- The panel with a word where its core stands, and that core changed and scheduled. -/
def fetching (w : Nat) (c : Core) (f : Core → Core) : State :=
  let s := (panelOf c).placeWord w
  { s with schedule := [.issue c.id], cores := s.cores.map f }

/-- The core at its turn, and the instruction, or the cause, that its fetch finds, none for a word that does not decode. -/
def turnCore (s : State) : Core := ((Rules.turnState s [] hart.id).core? hart.id).getD hart
def found (s : State) (f : Core → Core) : Option Instr × Option Cause :=
  match ((Rules.turnState s [] hart.id).upd f).fetch with
  | (_, .word w) => ((decode w.toNat).toOption, none)
  | (_, .fault t) => (none, some t.cause)
  | (_, .wait _) => (none, none)

/-- What a step's statement asks of the core whose turn it is. -/
abbrev turns (s : State) (w : Wait) (f : Option Frame) (split : Bool) : Prop :=
  Rules.itsTurn s [] hart.id (turnCore s) ∧ (turnCore s).frame = f ∧ (turnCore s).split.on = split ∧ (turnCore s).wait = w

theorem witness_StepRuns : turns (fetching 0x20006000 hart id) .none none false ∧
    found (fetching 0x20006000 hart id) id = (some .nop, none) ∧ turns (fetching 0 hart id) .none none false ∧
    found (fetching 0 hart id) id = (none, none) ∧ turns { panelOf hart with schedule := [.issue hart.id] } .none none false ∧
    found { panelOf hart with schedule := [.issue hart.id] } id = (none, some .page) := by
  unfold turns Rules.itsTurn; decide +kernel
theorem witness_StepRuns_wait : ∀ w ∈ [Wait.lqPush, .replay, .covered false 0 8, .covered true 0 4, .scoreboard 0 8 true, .retrain 0 0, .lockage 0],
    let s := fetching 0x20006000 hart fun c => { c with wait := w }
    turns s w none false ∧ (Rules.turnState s [] hart.id).wakeable (turnCore s) = true ∧
    found s (fun c => { c with wait := .none }) = (some .nop, none) := by
  unfold turns Rules.itsTurn; decide +kernel
theorem witness_StepRuns_lane : let s := fetching 0x20006000 hart fun c => { c with split := { lane.split with pcs := Vector.replicate 16 c.pc } }
    turns s .none none true ∧ (Rules.turnState s [] hart.id).nextLane (turnCore s) = some 3 ∧ (turnCore s).split.wfe.getLsbD 3 = false ∧
    found s (fun c => { c with split := { c.split with lane := 3 } }) = (some .nop, none) := by
  unfold turns Rules.itsTurn; decide +kernel

theorem witness_EveryInstruction : (panelOf hart).core? (panelOf hart).cur = some hart ∧ encode .mgmtPoll = none ∧
    encode .nop = some 0x20006000 ∧ State.reset.core? State.reset.cur = none := ⟨rfl, rfl, rfl, rfl⟩
theorem witness_ScalarArithmetic : Rules.scalarValue hart (.addi 31 5 0xFFFF) = some (31, 0x3F) ∧
    Rules.scalarValue lane (.srai 1 2 31 1) = some (1, 0) := by decide +kernel
theorem witness_Division : (31#5 ≠ 0#5) ∧ hart.rg 9 = 0 ∧
    let c := { hart with g := (hart.g.set 7 (BitVec.ofInt 64 (-(2 ^ 63)))).set 8 (BitVec.ofInt 64 (-1)) }
    (panelOf c).Plain c ∧ c.rg 7 = BitVec.ofInt 64 (-(2 ^ 63)) ∧ c.rg 8 = BitVec.ofInt 64 (-1) :=
  ⟨by decide, rfl, ⟨rfl, rfl, rfl, rfl, rfl⟩, rfl, rfl⟩
theorem witness_Branch : Rules.jumpTarget hart (.beq 5 5 0x8000) = some (0, 0, hart.pc - 0x20000) ∧
    Rules.jumpTarget lane (.loop 6 0xFFFF) = some (6, 0, 0x100000004) ∧ (hart.rg 6 + (0#16).signExtend 64).toNat % 4 ≠ 0 := by
  decide +kernel
theorem witness_Branch_ill : let c := { hart with ill := true }
    (panelOf c).Plain c ∧ c.ill = true := ⟨⟨rfl, rfl, rfl, rfl, rfl⟩, rfl⟩
theorem witness_Hardwired : 0 < 47 ∧ 47 < 48 := by decide
theorem witness_WindowLoad : let c := { hart with g := hart.g.set 5 0x7FFF8 }
    (panelOf c).Calm c ∧ (6#3).toNat < 7 ∧ c.InWindow (c.rg 5 + (0#12).signExtend 64) (Rules.sizeOf 3) ∧ (panelOf c).NoCommands c :=
  ⟨⟨⟨rfl, rfl, rfl, rfl, rfl⟩, rfl, rfl⟩, by decide, by decide +kernel, rfl, rfl, by intro k h; cases h⟩
theorem witness_WindowStore : hart.InWindow (hart.rg 5 + hart.rg 6 <<< 3) 8 ∧ (panelOf hart).Canonical :=
  ⟨by decide +kernel, panel_canonical hart⟩

/-! What the statements on control registers, traps and the system family assume. -/

theorem witness_ControlRegister : (panelOf hart).crRead hart 0x003 = some 0 ∧ Rules.mayUse .user 0x003 true ∧
    Rules.userWrites 3 5 = some 5 ∧ (panelOf lane).crRead lane 7 = some 0 ∧ (panelOf hart).crRead hart 0x3FF = none ∧
    ((panelOf hart).crRead hart 0x880).isSome = true ∧ ¬ Rules.mayUse .user 0x880 false := by
  unfold Rules.mayUse; decide +kernel
theorem witness_ControlRegister_steward : ((panelOf stew).crRead stew 0xC00).isSome = true ∧ Rules.mayUse .machine 0xC00 true ∧
    (Rules.stewardWrites 0xC00 0 0xC1).isSome = true := by unfold Rules.mayUse; decide +kernel

/-- The hart with a handler at 0x200000000. -/
def handled : Core := { hart with tvec := 0x200000000 }

theorem witness_UserTrap : (panelOf handled).core? (panelOf handled).cur = some handled ∧ handled.isSteward = false ∧
    Cause.bobj ∈ [Cause.brk, .sparse, .stream, .layout, .bobj] ∧ handled.tvec &&& ~~~3 ≠ 0 ∧ handled.cause.active = false := by
  refine ⟨rfl, rfl, ?_, ?_, rfl⟩ <;> decide
theorem witness_StewardTrap : Cause.page ∉ [Cause.brk, .sparse, .stream, .layout, .bobj] ∧ hart.tvec &&& ~~~3 = 0 := by
  refine ⟨?_, rfl⟩; decide
theorem witness_Reported : (panelOf hart).Canonical ∧ ∀ n ∈ [(0 : Nat), 256],
    let s := { panelOf hart with dies := [(0, { Die.reset with fqhead := BitVec.ofNat 32 n })] }
    (s.die 0).faultWait = [] ∧ (s.homeWait 0 (Rules.ringSlot s 0)).isNone ∧ s.sealedAt (Rules.ringSlot s 0) = false ∧
    (((s.die 0).fqhead - (s.die 0).fqtail).toNat < 256 ↔ n = 0) :=
  ⟨panel_canonical hart, by decide +kernel⟩
theorem witness_Unwind : (panelOf hart).core? (panelOf hart).cur = some hart ∧ hart.isSteward = false ∧ hart.split.on = false :=
  ⟨rfl, rfl, rfl⟩
theorem witness_Svc : let c := { stew with level := .supervisor }
    (panelOf c).Calm c ∧ c.isSteward = true ∧ c.level ≠ .machine ∧ (panelOf stew).Calm stew ∧ stew.isSteward = true ∧ stew.level = .machine :=
  ⟨⟨⟨rfl, rfl, rfl, rfl, rfl⟩, rfl, rfl⟩, rfl, by decide, stew_calm, rfl, rfl⟩
theorem witness_Rett : let c := { lane with cause := ⟨0x05, true, 3, false, true⟩ }
    (panelOf c).InLane c ∧ c.isSteward = false ∧ c.cause.active = true ∧ (panelOf stew).Plain stew ∧ stew.level ≠ .user :=
  ⟨⟨rfl, rfl, rfl, rfl, rfl⟩, rfl, rfl, stew_calm.1, by decide⟩
theorem witness_Yield : let c := { hart with stopAsked := true, latch := true }
    (panelOf c).Plain c ∧ c.strip.buf = [] ∧ c.stopAsked = true ∧ c.latch = true ∧ hart.latch = false ∧ lane.latch = false :=
  ⟨⟨rfl, rfl, rfl, rfl, rfl⟩, rfl, rfl, rfl, rfl, rfl⟩
theorem witness_Halt : (panelOf hart).heldFault hart false = none ∧ (panelOf hart).crew? ⟨placeMember, 0⟩ = some placeCrew ∧
    placeCrew.held = [] ∧ { lane with split := { lane.split with active := 0x9 } }.split.active &&& ~~~(BitVec.ofNat 16 (2 ^ 3)) ≠ 0 := by
  decide +kernel
theorem witness_Topology : (panelOf hart).part.grade = 8192 ∧ isCandidate 0 0 = true ∧ (0x00B : Nat) ≤ (0x00B#12).toNat := by decide +kernel
theorem witness_Setvl : Rules.atStrip (panelOf hart) hart ∧ hart.target = none ∧ hart.lq = [] ∧
    (let c := { hart with target := some 2 }; Rules.atStrip (panelOf c) c ∧ c.target = some 2) ∧
    let c := { hart with lq := [⟨4096, false⟩] }; Rules.atStrip (panelOf c) c ∧ c.lq = ⟨4096, false⟩ :: [] :=
  ⟨⟨rfl, rfl, rfl, rfl, rfl, rfl⟩, rfl, rfl, ⟨⟨rfl, rfl, rfl, rfl, rfl, rfl⟩, rfl⟩, ⟨rfl, rfl, rfl, rfl, rfl, rfl⟩, rfl⟩
theorem witness_Setvl_gate : let s := { panelOf hart with dies := [(0, { Die.reset with level := 0 })] }
    Rules.atStrip s hart ∧ ¬ s.GateOpen hart := ⟨⟨rfl, rfl, rfl, rfl, rfl, rfl⟩, by decide +kernel⟩
theorem witness_Halt_homes (a : Nat) : (panelOf hart).homeWait 0 a = none := rfl



/-! What the vector, memory and tile statements assume: an accepted form and one that is not, for each. -/

theorem witness_sweeps_integer : ((Rules.integerSweep hart (.vaddVv 62 61 63 0 0 0)).map Rules.Sweep.legal) = some true ∧
    ((Rules.integerSweep { hart with fmt := 0xD } (.vaddVv 62 61 63 0 0 0)).map Rules.Sweep.legal) = some false ∧
    ((Rules.wideSweep hart (.vnsrVi 63 62 1 0 0 0)).map Rules.Sweep.legal) = some true ∧
    ((Rules.wideSweep hart (.vnsrVi 63 61 1 0 0 0)).map Rules.Sweep.legal) = some false := by decide +kernel
/-- The hart at .f32. -/
def floating : Core := { hart with fmt := 0xF }
theorem witness_sweeps_float : (panelOf floating).Calm floating ∧ Rules.vectorLegal floating ∧ (panelOf floating).GateOpen floating ∧
    ((Rules.floatSweep floating (.vfsqrt 63 0 15 0 1)).map Rules.Sweep.legal) = some true ∧
    ((Rules.floatSweep hart (.vfsqrt 63 0 15 0 1)).map Rules.Sweep.legal) = some false := by
  refine ⟨⟨⟨rfl, rfl, rfl, rfl, rfl⟩, rfl, rfl⟩, ?_⟩; unfold Rules.vectorLegal; decide +kernel
theorem witness_sweeps_other : ((Rules.reductionSweep hart (.vredmin 63 0 0 0 0)).map Rules.Sweep.legal) = some true ∧
    ((Rules.permuteSweep hart (.miota 63 47)).map Rules.Sweep.legal) = some true ∧
    ((Rules.permuteSweep { hart with rc := 2 } (.miota 62 47)).map Rules.Sweep.legal) = some false ∧
    ((Rules.reductionSweep floating (.vredmin 63 0 0 0 0)).map Rules.Sweep.legal) = some false := by decide +kernel
theorem witness_Compare : ((Rules.compareForm hart (.vcmpVi 47 63 0 0 0 0 3)).map fun x => x.2.2.2.2.2.1) = some true ∧
    (decide ((47#6).toNat + hart.rc.toNat ≤ 48) && fits 63 1 1 && (Second.vi 0).fits 1 1) = true ∧
    ((Rules.compareForm hart (.vfcmpVv 47 63 0 0 0 0 3)).map fun x => x.2.2.2.2.2.1) = some false := by decide +kernel
theorem witness_Mask : ((Rules.maskForm (.mand 47 1 2)).map fun x => x.1) = some 47 ∧ (∀ a ∈ [(47#6), 1, 2], a.toNat + hart.rc.toNat ≤ 48) ∧
    48 < (47#6).toNat + (2#4).toNat ∧ hart.lq.length + hart.rc.toNat ≤ 8 ∧
    8 < ({ hart with lq := List.replicate 8 ⟨0, false⟩ }).lq.length + hart.rc.toNat ∧ fits 63 1 1 = true := by decide +kernel
theorem witness_FloatSpecial : (15#4 = 12 ∨ 15#4 = 13 ∨ 15#4 = 14 ∨ 15#4 = 15) ∧ 0 < 1 ∧ ∀ z, Val.inf false ≠ .nan z := by
  refine ⟨by decide, by decide, ?_⟩; intro z h; cases h

/-- All elements of the hart's row lie in its window, from a base on. -/
theorem active_below (c : Core) (m : BitVec 4) (i e : Nat) (h : Rules.active c m false i e = true) : i < c.rc.toNat ∧ e < c.vl.toNat := by
  simp only [Rules.active, Bool.and_eq_true, decide_eq_true_eq] at h; exact h.1

theorem witness_VectorLoad : (Rules.loadForm hart (.vld 63 5 0 0)).isSome = true ∧ fits (63#6).toNat 1 1 = true ∧
    ∀ i e, Rules.active hart 0 false i e = true → hart.InWindow (Rules.packedAt hart 5 0 i e).1 (Rules.elemBytes (fmtWidth hart.fmt)) := by
  refine ⟨by decide +kernel, by decide, fun i e h => ?_⟩
  have := active_below _ _ _ _ h
  have H : ∀ i, i < hart.rc.toNat → ∀ e, e < hart.vl.toNat →
      hart.InWindow (Rules.packedAt hart 5 0 i e).1 (Rules.elemBytes (fmtWidth hart.fmt)) := by decide +kernel
  exact H i this.1 e this.2
theorem witness_VectorLoad_refused : (Rules.loadForm hart (.vldx 64 5 0 0 0)).isSome = true ∧ (Rules.indexOk { hart with fmt := 1 } 0) = false ∧
    (Rules.storeForm hart (.vstx 63 5 60 0 0)).isSome = true ∧ Rules.indexOk hart 60 = true := by decide +kernel

/-- The hart at the end of its window: elements 0 to 3 of eight lie in it. -/
def atEnd : Core := { hart with g := hart.g.set 5 0x7FFFC }
theorem witness_Vldf : (panelOf atEnd).Calm atEnd ∧ atEnd.rc = 1 ∧ Rules.active atEnd 0 false 0 4 = true ∧ Rules.active atEnd 0 false 0 3 = true ∧
    (Rules.packedAt atEnd 5 0 0 4).1.toNat < 2 ^ 24 ∧ atEnd.holdsize.toNat < (Rules.packedAt atEnd 5 0 0 4).1.toNat + 1 ∧
    ∀ e, e < 4 → atEnd.InWindow (Rules.packedAt atEnd 5 0 0 e).1 1 := by
  refine ⟨⟨⟨rfl, rfl, rfl, rfl, rfl⟩, rfl, rfl⟩, ?_⟩; decide +kernel
theorem witness_VectorStore_covers : Rules.active hart 0 false 0 7 = true ∧ ¬ Rules.laterElem 0 7 0 6 := by
  refine ⟨by decide +kernel, ?_⟩; unfold Rules.laterElem; omega
theorem witness_MaskMemory : (47#6).toNat + hart.rc.toNat ≤ 48 ∧ ∀ i, i < 1 → ∀ j, j < (8 * 4 + 7) / 8 →
    hart.InWindow (hart.rg 5 + BitVec.ofInt 64 (64 * (0#6).toInt) + BitVec.ofNat 64 (64 * i + j)) 1 := by decide +kernel

/-- A window with one sparse block at 0x40 of one value, 0x55 at element 7. -/
def sparse : State := { panelOf { hart with g := hart.g.set 7 0x100 } with
  hold := memWrites 0x40 [0x18, 0, 0, 0, 8, 0, 1, 0, 0x80, 0, 0, 0, 0, 0, 0, 0, 0x55] [] }
theorem witness_Sparse : Rules.sparseSize 8 8 1 = 0x18 ∧ (0x40 + 0x18 ≤ 2 ^ 19) ∧ 0x18 ≤ (0x100 : Nat) ∧
    Rules.windowWord sparse hart 0x40 = Rules.sparseSize 8 8 1 + 2 ^ 32 * 8 + 2 ^ 48 * 1 ∧
    (∀ e, e < 64 → decide (e = 7) = (Rules.windowWord sparse hart (0x40 + 8 + 8 * (e / 64))).testBit (e % 64)) ∧
    ((List.range 8).filter fun e => decide (e = 7)).length = 1 := by decide +kernel
theorem witness_Sparse_store (i e : Nat) : (fun _ _ => false) i e = (Rules.active hart 0 false i e && decide (hart.elem 63 1 8 i e ≠ 0)) := by
  have h (n : Nat) : hart.vreg n = 0 := by
    unfold Core.vreg; split
    · exact Vector.getElem_replicate _
    · rfl
  have : hart.elem 63 1 8 i e = 0 := by
    rw [Core.elem, h]; unfold getBits; rw [show (BitVec.toNat (0 : BitVec 1024)) = 0 from BitVec.toNat_zero, Nat.zero_div, Nat.zero_mod]
  rw [this]; simp
theorem witness_SparseTraps : let c := { hart with g := hart.g.set 7 0x100 }
    (Rules.sparseSize 8 8 0 = 16 ∧ (hart.rg 6).toNat < 16 ∧ 0x40 + 16 ≤ 2 ^ 19 ∧ 0x40 + 16 ≤ hart.holdsize.toNat) ∧ (0 : Nat) < hart.rc.toNat ∧
    Rules.windowWord (panelOf c) c 0x40 % 2 ^ 32 ≠ Rules.sparseSize 8 8 0 ∧
    let s := { panelOf c with hold := memWrites 0x40 [0x18, 0, 0, 0, 8, 0, 1, 0, 0x81] [] }
    let h := Rules.windowWord s c 0x40
    h % 2 ^ 32 = Rules.sparseSize 8 8 (h / 2 ^ 48) ∧ h / 2 ^ 32 % 2 ^ 16 = 8 ∧ h % 2 ^ 32 ≤ (c.rg 7).toNat ∧
      (List.range 8).countP (fun e => (Rules.windowWord s c (0x40 + 8 + 8 * (e / 64))).testBit (e % 64)) ≠ h / 2 ^ 48 := by decide +kernel
theorem witness_AddressTraps : Rules.scalarCause hart 0x80000 1 = some .perm ∧ Rules.scalarCause hart 0x7FFFF 2 = some .straddle ∧
    Rules.scalarCause hart 0x100000001 2 = some .align ∧ Rules.scalarCause lane 0x100000000 1 = some .perm ∧
    Rules.scalarCause hart 0x10000000000000 1 = some .perm := by decide +kernel
theorem witness_HugeAbsent : let c := { hart with g := hart.g.set 5 0x100000000 }
    (panelOf c).Calm c ∧ Rules.active c 0 false 0 0 = true ∧ 2 ^ 32 ≤ (Rules.packedAt c 5 0 0 0).1.toNat ∧
    (Rules.packedAt c 5 0 0 0).1.toNat < 2 ^ 52 ∧ (Rules.packedAt c 5 0 0 0).1.toNat % Rules.elemBytes 8 = 0 ∧
    ((panelOf c).die 0).residents (Rules.packedAt c 5 0 0 0).1 = [] := by
  refine ⟨⟨⟨rfl, rfl, rfl, rfl, rfl⟩, rfl, rfl⟩, ?_⟩; decide +kernel
theorem witness_SplitMode : lane.split.active &&& ~~~(BitVec.ofNat 16 (2 ^ 3)) = 0 ∧
    (lane.split.waiting ||| BitVec.ofNat 16 (2 ^ 3)).getLsbD 3 = true ∧
    (∀ i : Fin 16, i < 3 → (lane.split.waiting ||| BitVec.ofNat 16 (2 ^ 3)).getLsbD i = false) ∧
    (encode (.repf 0 1 1 5)).isSome = true ∧ Rules.laneSubset (.repf 0 1 1 5) = false := by decide +kernel

/-- A frame of two words, at the last replay and its first word. -/
def framed : Core := { hart with frame := some ⟨0x100000004, [0x00A73801, 0xA8610503], 1, 2, 8, 1, 0⟩ }
theorem witness_Frame : decode 0x00A73801 = .ok (.add 5 7 7) ∧ decode 0xA8610503 = .ok (.vfmaVv 6 4 5 0 0 0) ∧
    (panelOf framed).core? (panelOf framed).cur = some framed ∧ framed.split.on = false ∧
    (framed.frame.bind Frame.instr) = some (.add 6 8 8) ∧ (decode 0xA8610500).toOption = some (.vfaddVv 6 4 5 0 0 0) :=
  ⟨rfl, rfl, rfl, rfl, by decide +kernel, by decide +kernel⟩
theorem witness_Frame_step : let s := fetching 0x00A73801 hart fun c => { c with frame := framed.frame }
    turns s .none framed.frame false ∧ (framed.frame.bind Frame.instr).isSome = true := by
  unfold turns Rules.itsTurn; decide +kernel

/-- The hart at a REPF in front of the word placed, whose frame is that word. -/
def repeating (w : Nat) : State := fetching w hart fun c => { c with pc := c.pc - 4, code := (fetching w hart id).codeView }
theorem witness_Repf : let s := repeating 0x00A73801
    (match s.core? s.cur with
      | some c => decide (s.Calm c) && match s.frameWords (c.pc + 4) 1 with
        | .ok (t, ws) => decide (ws = [0x00A73801#32]) && (match t.core? t.cur with
          | some d => decide (t.Calm d)
          | none => false)
        | .error _ => false
      | none => false) = true := by decide +kernel
theorem witness_Repf_fetch : let s := repeating 0x00A73801
    s.fetchAt (s.me.pc + 4) = (s, .word 0x00A73801) ∧ s.core? s.cur = some s.me ∧ s.Calm s.me ∧
    (decode 0x00A73801).toOption = some (.add 5 7 7) ∧ (stagger 0 0 (.add 5 7 7)).isSome = true := by decide +kernel

theorem witness_TileMove : (∀ j, j < 32 → hart.InWindow (Rules.tileRow hart 0 5 j) 32) ∧ fmtWidth hart.fmt ≠ 64 ∧
    (∀ j, j < 256 / fmtWidth hart.fmt → hart.InWindow (Rules.tileRow hart 0 5 j) (4 * fmtWidth hart.fmt)) ∧ fmtWidth 5 = 64 := by decide +kernel
theorem witness_TileWrite : (31#5).toNat + hart.rc.toNat ≤ 32 ∧ hart.vl.toNat ≤ 256 / fmtWidth 0xB ∧ fits 63 1 1 = true ∧
    ((Rules.tileSweep { hart with fmt := 0xB } (.vmt 60 59 4 0 0 0 1 0)).map Rules.Sweep.legal) = some true ∧
    ((Rules.tileSweep { hart with fmt := 0xB } (.vmt 60 59 5 0 0 0 1 0)).map Rules.Sweep.legal) = some false ∧
    hart.InWindow (hart.rg 5 + BitVec.ofInt 64 (4 * (0x7FF#12).toInt)) 4 := by decide +kernel


/-! What the synchronising statements assume. -/

/-- A barrier object at 0x40 of the hart's window: expected 5, arrived 4, phase 0. -/
def object : State := { panelOf hart with hold := memWrites 0x40 [5, 0, 0, 0, 0, 0, 0, 0, 4, 0, 0, 0, 0, 0, 0, 0xB7] [] }

theorem hart_sync (n : Nat) (h : hart.InWindow 0x40 n ∧ (0x40 : Word).toNat % n = 0) : Rules.syncReady (panelOf hart) hart 0x40 n :=
  ⟨.inl hart_calm, rfl, hart_noCommands, ⟨rfl, by intro o h; cases h⟩, by unfold Rules.holdFits; decide +kernel, h.1, h.2⟩
theorem witness_Atomic : Rules.syncReady (panelOf hart) hart 0x40 (amoBytes 3) ∧ (Rules.atomicForm hart (.amocas 5 5 6 3 3 3)).isSome = true ∧
    (hart.rg 6).toNat < 2 ^ 52 ∧ (hart.rg 6).toNat % amoBytes 0 ≠ 0 :=
  ⟨hart_sync 8 (by decide +kernel), by decide +kernel, by decide +kernel, by decide +kernel⟩
theorem witness_AcquireRelease : (6#3).toNat < 7 ∧ Rules.syncReady (panelOf hart) hart 0x40 (Rules.sizeOf 6) ∧
    Rules.syncReady (panelOf hart) hart 0x40 (2 ^ 3) :=
  ⟨by decide, hart_sync _ (by decide +kernel), hart_sync _ (by decide +kernel)⟩
theorem witness_LaneStore : (panelOf lane).InLane lane ∧ lane.isSteward = false ∧ (panelOf lane).NoCommands lane ∧ Rules.holdFits lane ∧
    lane.InWindow (lane.rg 5 + (0x7FF#12).signExtend 64) 8 :=
  ⟨lane_inLane, rfl, ⟨rfl, rfl, by intro k h; cases h⟩, by unfold Rules.holdFits; decide +kernel, by decide +kernel⟩

/-- A die with a dirty non-home copy of line 2^29, which stack 1 of another die is home of. -/
def copied : State := { panelOf hart with dies := [(0, { Die.reset with nonHome := [⟨2 ^ 29, 7, 1, [hart.id], false⟩] })] }
theorem witness_Fence : copied.Calm hart ∧ (copied.cell hart.id.cell).log = [] ∧
    (∀ x ∈ (copied.die 0).nonHome, copied.homeWait 0 (64 * x.line) = none ∧ x.line < 2 ^ 36) ∧ copied.Canonical := by
  refine ⟨⟨⟨rfl, rfl, rfl, rfl, rfl⟩, rfl, rfl⟩, rfl, by decide +kernel, by decide +kernel⟩

theorem object_at : Rules.objectAt object hart 0x40 5 4 false false := by unfold Rules.objectAt; decide +kernel
theorem object_ready : Rules.objectReady object hart 0x40 :=
  ⟨⟨⟨rfl, rfl, rfl, rfl, rfl⟩, rfl, rfl⟩, rfl, rfl, ⟨rfl, rfl, by intro k h; cases h⟩, ⟨rfl, by intro o h; cases h⟩,
    by unfold Rules.holdFits; decide +kernel, by decide +kernel, rfl⟩
theorem witness_BarrierObject : object.Canonical ∧ hart.rg 5 = 0x40 ∧ (hart.rg 6).toNat < 2 ^ 48 ∧ 5 + 3 < 2 ^ 48 ∧ 4 ≤ 5 + 3 ∧
    (∀ c ∈ [hart, handled], ({ object with cores := [c] } : State).Calm c ∧ Rules.objectCause { object with cores := [c] } c 0x50 false = some .bobj) ∧
    hart.tvec &&& ~~~3 = 0 ∧ handled.tvec &&& ~~~3 ≠ 0 ∧ Rules.objectCause object hart 3 false = some .align ∧ Rules.objectCause object hart 0x50 false = some .bobj ∧
    Rules.objectCause object hart 0x80000 true = some .bobj ∧ 2 ^ 48 ≤ 5 + (2 ^ 48 - 5) := by
  refine ⟨by decide +kernel, ?_⟩; decide +kernel
theorem witness_BarrierWait : object.heldFault hart false = none ∧
    (∃ o, Rules.objectNamed object hart 0x40 o) ∧ (Rules.objectAfter 5 (4 + 1) false false) = (0, 0, true, false) ∧
    (Rules.objectAfter 5 (4 + 0) false false).2.2.2 = false := by
  refine ⟨by decide +kernel, ⟨(object.objOf hart 0x40).getD ⟨⟨placeMember, 0⟩, 0, 0⟩, ?_⟩, ?_⟩
  · unfold Rules.objectNamed; decide +kernel
  · decide +kernel

/-- The hart with a mate in the next slot that has reached one instance of CBAR. -/
def twoHarts (n : Nat) : State := { panelOf hart with cores := [hart, { hart with id := .hart 0 0 1, crew := some (⟨placeMember, 0⟩, 1), cbars := n }] }
theorem reached_iff (n : Nat) : Rules.othersReached (twoHarts n) ⟨placeMember, 0⟩ false 1 ↔ 1 ≤ n := by
  have : (twoHarts n).barrierCrews ⟨placeMember, 0⟩ false = [placeCrew] := rfl
  unfold Rules.othersReached; rw [this]
  simp [twoHarts, hart, placeHart, placeCrew, panelOf, Core.start, Core.crewRef?]
theorem witness_CrewBarrier (n : Nat) : (twoHarts n).Calm hart ∧ hart.crew = some (⟨placeMember, 0⟩, 0) ∧ Rules.quiet (twoHarts n) hart ∧
    ((twoHarts n).cell hart.id.cell).log = [] ∧ Rules.othersReached (twoHarts 1) ⟨placeMember, 0⟩ false 1 ∧
    ¬ Rules.othersReached (twoHarts 0) ⟨placeMember, 0⟩ false 1 ∧ (twoHarts 1).heldFault hart false = none :=
  ⟨⟨⟨rfl, rfl, rfl, rfl, rfl⟩, rfl, rfl⟩, rfl, ⟨rfl, by intro o h; cases h⟩, rfl, (reached_iff 1).2 (by decide),
    fun h => absurd ((reached_iff 0).1 h) (by decide), by decide +kernel⟩
/-- A third hart of the crew has halted with a store of it still in a side log, or with none. -/
def haltedMate (log : List LogEntry) : State := { twoHarts 1 with
  members := [⟨placeMember, .resident, [{ placeCrew with halted := [2] }], 0, false, [], 0, [], [], 0, false⟩]
  cells := [(cellKey 0 1, { Cell.reset with log := log })] }
theorem witness_CrewBarrier_halted : (∀ k ∈ (twoHarts 1).barrierCrews ⟨placeMember, 0⟩ false, (twoHarts 1).haltedLogs k = false) ∧
    let e : LogEntry := ⟨.hart 0 1 2, some (⟨placeMember, 0⟩, 2), 0x100000010, 0x100000000, [(7, 0xFF)], none, 0, 1, false, false, false⟩
    (haltedMate [e]).Calm hart ∧ (∃ k ∈ (haltedMate [e]).barrierCrews ⟨placeMember, 0⟩ false, (haltedMate [e]).haltedLogs k = true) ∧
    Rules.quiet (haltedMate [e]) hart ∧ ((haltedMate [e]).cell hart.id.cell).log = [] ∧ (haltedMate [e]).heldFault hart false = none :=
  ⟨by decide +kernel, ⟨⟨rfl, rfl, rfl, rfl, rfl⟩, rfl, rfl⟩, by decide +kernel, ⟨rfl, by intro o h; cases h⟩, by decide +kernel, by decide +kernel⟩



/-! What the statements on commands assume. -/

/-- A core with register `r` set. -/
def withG (c : Core) (r : Fin 32) (x : Word) : Core := { c with g := c.g.set r x }

/-- The hart with g7 at 0x100, the object at 0x40, and doublewords at places of its window. -/
def issuer : Core := withG hart 7 0x100
def words (ps : List (Nat × List Nat)) : State :=
  { panelOf issuer with hold := (ps.foldl (fun m p => memWrites p.1 (p.2.flatMap (natBytes 8)) m) object.hold) }

/-- A shape block that copies three doublewords from 0x180 to 0x200. -/
def copyBlock : State := words [(0x100, [0x200, 0x180, 0x31, 3, 8, 16]), (0x180, [1, 2, 3])]
def fillBlock : State := words [(0x100, [0x200, 0x77, 0x31, 3, 0, 8])]
theorem issuer_issue (ps : List (Nat × List Nat)) (n : Nat) (h : issuer.InWindow 0x100 n)
    (o : ∃ e k ph, Rules.objectAt (words ps) issuer 0x40 e k ph false) : Rules.issueReady (words ps) issuer 0x100 n 5 :=
  ⟨⟨⟨rfl, rfl, rfl, rfl, rfl⟩, rfl, rfl⟩, rfl, rfl, ⟨rfl, rfl, by intro k h; cases h⟩, h, rfl, .inr ⟨by decide +kernel, rfl, o⟩⟩
theorem words_open (ps : List (Nat × List Nat)) : (words ps).GateOpen issuer ∧ (words ps).heldFault issuer true = none ∧
    Rules.quiet (words ps) issuer := ⟨.inr (show 0 < Die.reset.level.toNat by decide), rfl, rfl, by intro o h; cases h⟩
theorem witness_Scopy : Rules.issueReady copyBlock issuer 0x100 (24 + 24 * 1) 5 ∧ copyBlock.heldFault issuer true = none ∧
    Rules.shapeBlock copyBlock issuer 0x100 0x200 0x180 3 [(3, 8, 16)] ∧ (∀ i, i < Rules.shapeElems [(3, 8, 16)] →
      issuer.InWindow (Rules.shapePlace 0x200 [(3, 8, 16)] Prod.snd i) 8 ∧ issuer.InWindow (Rules.shapePlace 0x180 [(3, 8, 16)] Prod.fst i) 8) := by
  refine ⟨issuer_issue _ _ (by decide +kernel) ⟨5, 4, false, by unfold Rules.objectAt; decide +kernel⟩, by decide +kernel, ?_, by decide +kernel⟩
  refine ⟨by decide +kernel, by decide +kernel, by decide +kernel, by decide, by decide, by decide, by decide, ?_⟩
  intro j x h
  match j with
  | 0 => cases h; decide +kernel
  | j + 1 => simp at h
theorem witness_Sfill : Rules.issueReady fillBlock issuer 0x100 (24 + 24 * 1) 5 ∧ Rules.shapeBlock fillBlock issuer 0x100 0x200 0x77 3 [(3, 0, 8)] ∧
    ∀ x ∈ [(3, (0 : Int), (8 : Int))], x.2.1 = 0 := by
  refine ⟨issuer_issue _ _ (by decide +kernel) ⟨5, 4, false, by unfold Rules.objectAt; decide +kernel⟩, ?_, by decide⟩
  refine ⟨by decide +kernel, by decide +kernel, by decide +kernel, by decide, by decide, by decide, by decide, ?_⟩
  intro j x h
  match j with
  | 0 => cases h; decide +kernel
  | j + 1 => simp at h

/-- A gather block of three elements of eight bytes, the middle one masked off, from the crew window of cell 0. -/
def gatherBlock : State := words [(0x100, [0x200, 0x300, 0x320, 0x30003]), (0x300, [0x1000000400, 0x410]), (0x320, [5]), (0x400, [7, 8, 9])]
theorem witness_Gather : Rules.issueReady gatherBlock issuer 0x100 32 5 ∧ gatherBlock.heldFault issuer true = none ∧
    Rules.windowWord gatherBlock issuer 0x100 = 0x200 ∧ Rules.windowWord gatherBlock issuer 0x118 = 3 + 2 ^ 16 * 3 ∧
    0x300 < 2 ^ 19 ∧ 0x320 + 3 < 2 ^ 64 ∧ ∀ i, i < 3 → issuer.InWindow (BitVec.ofNat 64 (0x320 + i / 8)) 1 ∧
      ((gatherBlock.windowByte issuer (0x320 + i / 8)).getLsbD (i % 8) = true →
        issuer.InWindow (BitVec.ofNat 64 (0x300 + 4 * i)) 4 ∧ Rules.windowNat gatherBlock issuer (0x300 + 4 * i) 4 < 2 ^ 25 ∧
        issuer.InWindow (BitVec.ofNat 64 (0x200 + 8 * i)) 8 ∧
        (match gatherBlock.resolveWindow issuer (BitVec.ofNat 64 (0x1000000 + Rules.windowNat gatherBlock issuer (0x300 + 4 * i) 4)) 8 with
          | .ok _ => true
          | .error _ => false) = true) := by
  refine ⟨issuer_issue _ _ (by decide +kernel) ⟨5, 4, false, by unfold Rules.objectAt; decide +kernel⟩, ?_⟩
  decide +kernel

/-- The copy's command at its last element, or at its second, and the state in which it is alone. -/
def copying (n : Nat) : StreamCmd := ⟨0, 0, ⟨placeMember, 0⟩, 0, issuer.pc, some ⟨⟨placeMember, 0⟩, 0, 0x40⟩, 3, .shape false 0x200 0x180 [(3, 8, 16)], n, 3, [], [], false⟩
def performing (n : Nat) : State := { copyBlock with cells := [(cellKey 0 0, { Cell.reset with queue := [copying n] })] }
theorem copying_object (n a j : Nat) (h : a = 0x210 ∨ a = 0x220) :
    ¬ Rules.inObject (performing n) (some ⟨⟨placeMember, 0⟩, 0, 0x40⟩) (holdLoc 0 0 a + j) := by
  rintro ⟨r, q, e, hq, -, h2⟩
  cases e
  have : (performing n).objLoc? ⟨⟨placeMember, 0⟩, 0, 0x40⟩ = some (holdLoc 0 0 0x40) := rfl
  rw [this] at hq; cases hq
  have e1 : holdLoc 0 0 0x40 + 16 ≤ holdLoc 0 0 0x210 ∧ holdLoc 0 0 0x40 + 16 ≤ holdLoc 0 0 0x220 := by decide
  rcases h with rfl | rfl <;> omega
theorem witness_StreamPerform : (performing 2).Canonical ∧ ((performing 1).cell (cellKey 0 0)).queue = [copying 1] ∧
    (performing 1).Canonical ∧ (performing 1).crew? (copying 1).crew = some placeCrew ∧
    (∀ e ∈ (performing 1).stackTbl, e.2.seqr = [] ∧ e.2.parked = []) ∧ (copying 1).next + 2 ≤ (copying 1).total ∧
    (∀ i, i < 2 → (placeCrew.windowLoc 0 ((copying 1).element (1 + i)).1.toNat).isSome = true ∧
      placeCrew.windowLoc 0 ((copying 1).element (1 + i)).2.toNat = some (holdLoc 0 0 (0x210 + 16 * i))) ∧
    (copying 2).next < (copying 2).total := by decide +kernel

/-- A record of two members of one hart with four lanes. -/
def recordWords : List Nat := [0x100000000, 0, 0x0004010000010001, 2]

/-- A queue of two slots whose control block stands at device address 0, and the record at 0x100. -/
def queueOf (reserve tail head : Nat) : State :=
  { words [(0x100, recordWords)] with
    queues := [(3, ⟨0xC001000000000000, 0, 0, 0⟩)]
    homeCache := ([(0, reserve), (8, tail), (16, head)].filter fun p => p.2 ≠ 0).map fun p => (p.1, BitVec.ofNat 8 p.2) }
def recordRead : List Word := (List.range 16).map fun j => BitVec.ofNat 64 (Rules.windowWord (queueOf 0 0 0) issuer (0x100 + 8 * j))
theorem witness_Launch : (3 : Word).toNat < 64 ∧ issuer.rg 6 = 3 ∧ (quadAt 3 (queueOf 2 2 0).queues).d0.getLsbD 62 = true ∧
    (queueOf 2 2 0).launchFault issuer recordRead = none ∧ recTable recordRead = false ∧ (∀ n ∈ [(0 : Nat), 1], let s := queueOf 2 2 n
      s.controlBlock 3 = 0 ∧ s.homeWait 0 0 = none ∧ s.homeWait 0 0x80 = none ∧ s.sealedAt 0 = false ∧ s.sealedAt 0x80 = false ∧ 0x80 + 128 * 2 ≤ 2 ^ 42) ∧
    2 ^ bits (quadAt 3 (queueOf 2 2 0).queues).d0 51 48 ≤ ((queueOf 2 2 0).readWord 8 - (queueOf 2 2 0).readWord 0x10).toNat ∧
    ((queueOf 2 2 1).readWord 8 - (queueOf 2 2 1).readWord 0x10).toNat < 2 ∧ (queueOf 2 2 1).readWord 0 = (queueOf 2 2 1).readWord 8 := by
  decide +kernel
theorem witness_Dtld : let c := withG issuer 8 (2047 + 2 ^ 16)
    (c.rg 8).toNat = (c.rg 8).toNat % 2 ^ 11 + 2 ^ 16 * ((c.rg 8).toNat / 2 ^ 16 % 2 ^ 12) ∧
    (∀ j, j < 1 → c.InWindow (c.rg 7 + BitVec.ofNat 64 (4 * j)) 4) ∧
    (BitVec.ofNat 32 (Rules.windowNat (words [(0x100, [0xB00])]) issuer 0x100 4)).toNat / 2 ^ 8 % 16 ≤ 11 ∧
    ¬ (BitVec.ofNat 32 (Rules.windowNat (words [(0x100, [0xC00])]) issuer 0x100 4)).toNat / 2 ^ 8 % 16 ≤ 11 := by decide +kernel

/-! The causes of commands at their issue. -/

/-- The issuer with 64 KiB of hold, its block's address in g7 and a word in g8, and doublewords at places of its window. -/
def asker (a x : Word) : Core := withG (withG { issuer with holdsize := 0x10000 } 7 a) 8 x
def asking (a x : Word) (ps : List (Nat × List Nat)) : State := { words ps with cores := [asker a x] }
theorem asking_issuer (a x : Word) (ps : List (Nat × List Nat)) : Rules.issuer (asking a x ps) (asker a x) ∧ (asking a x ps).GateOpen (asker a x) ∧
    ∀ b, (asking a x ps).heldFault (asker a x) b = none :=
  ⟨⟨⟨⟨rfl, rfl, rfl, rfl, rfl⟩, rfl, rfl⟩, rfl, rfl, ⟨rfl, rfl, by intro k h; cases h⟩⟩, .inr (show 0 < Die.reset.level.toNat by decide), fun _ => rfl⟩
theorem witness_BlockTraps : Rules.placeCause (2 ^ 52) 8 = some .perm ∧ Rules.placeCause 0x104 8 = some .align ∧ Rules.placeCause 0x80000 8 = some .perm ∧
    Rules.placeCause 0xFFF8 8 = none ∧ ∀ a x, (asker a x).InWindow 0xFFF8 8 ∧ ¬ (asker a x).InWindow 0x10000 8 := by
  refine ⟨by decide, by decide, by decide, by decide, fun a x => ?_⟩
  have h : ({ issuer with holdsize := 0x10000 } : Core).InWindow 0xFFF8 8 ∧ ¬ ({ issuer with holdsize := 0x10000 } : Core).InWindow 0x10000 8 := by decide +kernel
  exact h
theorem shapeBlock_one (s : State) (c : Core) (a dst src elog : Nat) (x : Nat × Int × Int) (h : Rules.windowWord s c a = dst ∧
      Rules.windowWord s c (a + 8) = src ∧ Rules.windowWord s c (a + 16) = 1 + 16 * elog ∧ elog ≤ 3 ∧ 2 ^ elog * x.1 < 2 ^ 48 ∧ x.1 < 2 ^ 32 ∧
      Rules.windowWord s c (a + 24) = x.1 ∧ Rules.windowWord s c (a + 32) = (BitVec.ofInt 64 x.2.1).toNat ∧
      Rules.windowWord s c (a + 40) = (BitVec.ofInt 64 x.2.2).toNat) : Rules.shapeBlock s c a dst src elog [x] := by
  obtain ⟨h1, h2, h3, h4, h5, h6, h7, h8, h9⟩ := h
  refine ⟨h1, h2, h3, by simp, by simp, h4, by simpa [Rules.shapeElems] using h5, ?_⟩
  intro j y e
  match j with
  | 0 => cases e; exact ⟨h6, h7, h8, h9⟩
  | j + 1 => simp at e
theorem witness_ShapeTraps : let c := asker 0x100 0x10000;
    (∀ w ∈ [0x131, 0x30, 0x39, 0x41], let x := Rules.windowWord (asking 0x100 0 [(0x100, [0x200, 0x180, w])]) (asker 0x100 0) 0x110;
      2 ^ 8 ≤ x ∨ x % 16 = 0 ∨ 8 < x % 16 ∨ 3 < x / 16 % 16) ∧
    (let s := asking 0x100 0 [(0x100, [0x200, 0x180, 0x31, 2 ^ 32 + 3, 8, 16])]; 2 ^ 32 ≤ Rules.windowWord s (asker 0x100 0) 0x118) ∧
    (let s := asking 0x100 0 [(0x100, [0x200, 0x180, 0x32, 2 ^ 31, 0, 16, 2 ^ 14, 1, 1])];
      let n (j : Nat) := Rules.windowWord s (asker 0x100 0) (0x118 + 24 * j) % 2 ^ 32;
      2 ^ 48 ≤ 2 ^ 3 * (n 0 * n 1) ∧ 2 ^ 3 * n 0 < 2 ^ 48 ∧ Rules.windowWord s (asker 0x100 0) 0x120 = 0 ∧ Rules.windowWord s (asker 0x100 0) 0x138 ≠ 0) ∧
    (let s := asking 0x100 0x10000 [(0x100, [0xFFF0, 0x180, 0x31, 3, 8, 8])];
      let from_ := Rules.shapePlace 0x180 [(3, 8, 8)] Prod.fst;
      let to_ := Rules.shapePlace 0xFFF0 [(3, 8, 8)] Prod.snd;
      Rules.shapeBlock s c 0x100 0xFFF0 0x180 3 [(3, 8, 8)] ∧ (∀ j, j < 2 → c.InWindow (to_ j) 8 ∧ c.InWindow (from_ j) 8) ∧
        Rules.addressCause s c (from_ 2) 8 none ∧ Rules.addressCause s c (to_ 2) 8 (some .perm) ∧
        Rules.firstOf (none, from_ 2) (some .perm, to_ 2) = some (.perm, 0x10000)) ∧
    (Rules.addressCause (asking 0x100 0 []) (asker 0x100 0) 0x100000004 8 (some .align) ∧
      Rules.addressCause (asking 0x100 0 []) (asker 0x100 0) 0x100000008 8 (some .hugeabsent)) ∧
    Rules.firstOf (some .perm, 1) (some .align, 2) = some (.align, 2) ∧ Rules.firstOf (some .perm, 1) (some .perm, 2) = some (.perm, 1) ∧
    (let s := asking 0x100 0x10000 [(0x100, [0x200, 0x180, 0x31, 3, 8, 16])];
      Rules.shapeBlock s c 0x100 0x200 0x180 3 [(3, 8, 16)] ∧ (∀ j, j < 3 → c.InWindow (Rules.shapePlace 0x200 [(3, 8, 16)] Prod.snd j) 8 ∧
        c.InWindow (Rules.shapePlace 0x180 [(3, 8, 16)] Prod.fst j) 8) ∧ Rules.objectCause s c (c.rg 8) false = some .perm) := by
  refine ⟨by decide +kernel, by decide +kernel, by decide +kernel, ⟨shapeBlock_one _ _ _ _ _ _ _ (by decide +kernel), ?_⟩, ?_, by decide, by decide,
    ⟨shapeBlock_one _ _ _ _ _ _ _ (by decide +kernel), by decide +kernel⟩⟩
  · unfold Rules.addressCause; decide +kernel
  · unfold Rules.addressCause; decide +kernel

theorem witness_GatherTraps : let c := asker 0x100 0;
    c.crew = some (⟨placeMember, 0⟩, 0) ∧ (asking 0x100 0 []).crew? ⟨placeMember, 0⟩ = some placeCrew ∧
    (let w (x : Nat) := Rules.windowWord (asking 0x100 0 [(0x100, [0x200, 0x300, 0x320, x])]) c 0x118;
      2 ^ 25 ≤ w 0x2030003 ∧ w 0x70003 / 2 ^ 18 % 64 ≠ 0) ∧
    Rules.placeCause (BitVec.ofNat 64 0x80000) 1 = some .perm ∧ Rules.placeCause (BitVec.ofNat 64 0x80001) 1 = some .perm ∧ Rules.placeCause (BitVec.ofNat 64 0x300) 1 = none ∧
    (Rules.scalarCause c 0x10000 1 = some .perm ∧ c.InWindow 0xFFFF 1 ∧ ∀ j, j < 8 → ((asking 0x100 0 []).windowByte c 0xFFFF).getLsbD j = false) ∧
    (Rules.scalarCause c 0x10000 4 = some .perm ∧ c.InWindow 0xFFFC 4) ∧
    (let s := asking 0x100 0 [(0x100, [0x1FFF8, 0x300, 0x320, 0x1030003]), (0x300, [0x0000FFFC00080000, 0])];
      let index (j : Nat) : Nat := Rules.windowNat s c (0x300 + 4 * j) 4;
      (placeCrew.cells.length ≤ index 0 / 2 ^ 19 ∧ c.holdsize.toNat < index 1 % 2 ^ 19 + 8) ∧ c.InWindow 0x300 4 ∧
        Rules.addressCause s c 0x1FFF8 8 (some .perm) ∧ Rules.firstOf (some .perm, 0x1FFF8) (some .perm, 0x1080000) = some (.perm, 0x1FFF8)) ∧
    (let s := asking 0x100 0x10000 [(0x100, [0x200, 0x300, 0x320, 0x1030002]), (0x300, [0x0000040000000400])];
      (∀ j, j < 2 → c.InWindow (BitVec.ofNat 64 (0x300 + 4 * j)) 4 ∧ Rules.windowNat s c (0x300 + 4 * j) 4 = 0x400 ∧ c.InWindow (BitVec.ofNat 64 (0x200 + 8 * j)) 8) ∧
        Rules.objectCause s c 0x10000 false = some .perm) := by
  unfold Rules.addressCause; decide +kernel

/-- A record at 0x100, and the queue 3 it may go to open with two slots. -/
def recorded (r : List Nat) (ps : List (Nat × List Nat)) : State :=
  { asking 0x100 0xFFF8 ((0x100, r) :: ps) with queues := [(3, ⟨0xC001000000000000, 0, 0, 0⟩)] }
def recordAt (r : List Nat) (j : Nat) : Word := BitVec.ofNat 64 (Rules.windowWord (recorded r []) (asker 0x100 0xFFF8) (0x100 + 8 * j))
/-- One record for each doubleword that can be faulty, and that doubleword. -/
def badRecords : List (Nat × List Nat) :=
  [(0, [1, 0, 0x0004010000010001]), (2, [0, 0, 0x0004010000010005]), (2, [0, 0, 0x0004010101010001]), (3, [0, 0, 0x0004010000010001, 2 ^ 32]),
    (4, [0, 0, 0x0004010000010001, 2, 0x400002]), (5, [0, 0, 0x0004010000010001, 2, 0, 7]), (7, [0, 0, 0x0004010000010001, 2, 0, 0, 0, 0x41]),
    (10, [0, 0, 0x0004010000010001, 2, 0, 0, 0, 0, 0, 0, 1]), (11, [0, 0, 0x0004010000010001, 2, 0, 0, 0, 0, 0, 0, 0, 4]),
    (12, [0, 0, 0x0004010000010001, 2, 0, 0, 0, 0, 0, 0, 0, 1, 0x100000000]), (15, [0, 0, 0x0004010000010001, 2, 0, 0, 0, 0, 0, 0, 0, 0, 0, 0, 0, 1])]
theorem common_iff (a b : Nat) : (∃ d, isCandidate d a = true ∧ isCandidate d b = true) ↔
    isCandidate (candidates a).1 b = true ∨ isCandidate (candidates a).2 b = true := by
  constructor
  · rintro ⟨d, h, k⟩
    simp only [isCandidate, Bool.or_eq_true, decide_eq_true_eq] at h k ⊢
    rcases h with rfl | rfl
    · exact .inl k
    · exact .inr k
  · rintro (h | h)
    · exact ⟨_, by simp [isCandidate], h⟩
    · exact ⟨_, by simp [isCandidate], h⟩
def claimBadDec (w : Word) : Decidable (Rules.claimBad w) :=
  haveI := decidable_of_iff _ (common_iff (Rules.fld w 14 8) (Rules.fld w 22 16)).symm
  inferInstanceAs (Decidable (_ ∨ _))
def recordBadDec (s : State) (c : Core) (w : Nat → Word) (j : Nat) : Decidable (Rules.recordBad s c w j) := by
  haveI := claimBadDec
  unfold Rules.recordBad Rules.tableRecord Rules.trainRecord
  split <;> infer_instance
def claimBadB (w : Word) : Bool := @decide _ (claimBadDec w)
def recordBadB (s : State) (c : Core) (w : Nat → Word) (j : Nat) : Bool := @decide _ (recordBadDec s c w j)
theorem claimBadB_iff (w : Word) : Rules.claimBad w ↔ claimBadB w = true := (@decide_eq_true_iff _ (claimBadDec w)).symm
theorem recordBadB_iff (s : State) (c : Core) (w : Nat → Word) (j : Nat) : Rules.recordBad s c w j ↔ recordBadB s c w j = true :=
  (@decide_eq_true_iff _ (recordBadDec s c w j)).symm
theorem witness_LaunchTraps : let s := recorded [] [];
    let c := asker 0x100 0xFFF8;
    (Rules.elementCause s c 0x10000 8 = some .perm ∧ c.InWindow 0xFFF8 8 ∧ Rules.elementCause s c (2 ^ 32) 8 = some .hugeabsent) ∧
    ((quadAt 3 s.queues).d0.getLsbD 63 = true ∧ (quadAt 3 s.queues).d0.getLsbD 62 = true ∧ ¬ (quadAt 2 s.queues).d0.getLsbD 63 = true) ∧
    (∀ x ∈ badRecords, Rules.recordBad s c (recordAt x.2) x.1 ∧ ∀ k, k < x.1 → ¬ Rules.recordBad s c (recordAt x.2) k) ∧
    ((∀ j, j < 16 → c.InWindow (0x100 + BitVec.ofNat 64 (8 * j)) 8) ∧ ∀ t ∈ [0x400, 0xFFF8], let w := recordAt [0, 0, 0x0004010201010001, 2, 1, t];
      (∀ j, j < 16 → ¬ Rules.recordBad s c w j) ∧ Rules.fld (w 2) 24 24 = 1 ∧ Rules.fld (w 4) 1 0 ≠ 0 ∧ Rules.fld (w 2) 39 32 = 2) ∧
    (let t := recorded [] [(0x400, [1, 0x1000001])];
      (∀ j, j < 2 → c.InWindow (0x400 + BitVec.ofNat 64 (8 * j)) 8) ∧ (BitVec.ofNat 64 (Rules.windowWord t c 0x408)).getLsbD 24 = true ∧
        (BitVec.ofNat 64 (Rules.windowWord t c 0x400)).getLsbD 24 = false ∧ ¬ Rules.claimBad (BitVec.ofNat 64 (Rules.windowWord t c 0x400))) := by
  simp only [recordBadB_iff, claimBadB_iff]
  decide +kernel
theorem witness_DtldTraps : let c := asker 0x100 (2047 + 2 ^ 17);
    (Rules.elementCause (asking 0xFFFA 0 []) c 0xFFFE 4 = some .perm ∧ c.InWindow 0xFFFA 4 ∧ Rules.elementCause (asking (2 ^ 32 + 2) 0 []) c (2 ^ 32 + 2) 4 = some .align) ∧
    (∀ j, j < 2 → c.InWindow (c.rg 7 + BitVec.ofNat 64 (4 * j)) 4) ∧ (c.rg 8).toNat = 2047 + 2 ^ 16 * 2 ∧ 2048 ≤ 2047 + 1 ∧
    ((asker 0x100 (2 ^ 28 + 2 ^ 17)).rg 8).toNat ≠ 0 + 2 ^ 16 * 2 := by decide +kernel


/-! What the statements on stacks and banks assume. -/

/-- A record that claims stack 0, its batch, and two resident huge pages of that stack. -/
def claiming : Batch := ⟨0, 0, [0x100000000, 0, 0x0004010000010001, 2, 1], [], none, [], 1, 0, 0, 0, 0, false⟩
def banked (ps : List (Nat × List Nat)) : State :=
  { words ps with
    batches := [claiming]
    dies := [(0, { Die.reset with rt := [(0, (0x200000000, 0x10000237)), (1, (0x210000000, 0x20000237))] })]
    stackTbl := [(0, { Stack.reset with bank := { BankState.reset with slots := [(5, ⟨4, []⟩)] } })] }
theorem banked_ready (ps : List (Nat × List Nat)) (n : Nat) (h : issuer.InWindow 0x100 (8 * n)) :
    Rules.bankReady (banked ps) issuer 0x100 n 0 0 := by
  refine ⟨⟨⟨⟨rfl, rfl, rfl, rfl, rfl⟩, rfl, rfl⟩, rfl, rfl, ⟨rfl, rfl, ?_⟩, h, rfl, .inl rfl⟩, ?_⟩
  · intro k hk; cases hk with
    | head => exact ⟨rfl, rfl⟩
    | tail _ h => cases h
  · exact ⟨rfl, by decide, rfl, rfl, rfl⟩
/-- A table shape at its limits: groups of two inputs of four bits, the last table of a bank. -/
def lastTable : TableShape := ⟨1, 31, 2, 4⟩
def tbuildBlock : State := banked [(0x100, [511, 0x180, 31 * 2 ^ 16 + 0x100000014, 2])]
theorem witness_BankCommand : Rules.setOk 0 511 ∧ Rules.setOk 9 0 ∧ Rules.bankReady (banked [(0x100, [0, 1, 2])]) issuer 0x100 3 0 0 ∧
    Rules.windowWord (banked [(0x100, [9 * 2 ^ 16])]) issuer 0x100 = Rules.setWord 0 9 0 ∧
    (let s := banked [(0x100, [511, 2 * 2 ^ 16 + 254, 7 * 2 ^ 16 + 511])];
      Rules.windowWord s issuer 0x100 = Rules.setWord 0 0 511 ∧ Rules.windowWord s issuer 0x108 = 2 * 2 ^ 16 + 254 ∧
      Rules.windowWord s issuer 0x110 = 7 * 2 ^ 16 + 511 ∧ 1024 * 7 + 8 * 2 ≤ 8192 ∧ Rules.rowsFit s 0 0 511 254 2) ∧
    (let s := banked [(0x100, [0, 0x180, 2 ^ 16 + 2047]), (0x180, [0xB00])];
      Rules.windowWord s issuer 0x110 = 1 * 2 ^ 16 + 2047 ∧ 2047 + 1 ≤ 2048 ∧
      (BitVec.ofNat 32 (Rules.windowNat s issuer 0x180 4)).toNat / 2 ^ 8 % 16 ≤ 11) ∧
    Rules.shapeFits lastTable ∧ Rules.windowWord tbuildBlock issuer 0x110 = Rules.shapeWord lastTable ∧
    Rules.groups lastTable 2 ≤ 2 ^ 0 * lastTable.tpb ∧ (tblGet ⟨0, []⟩ 5 (tbuildBlock.stack 0).bank.slots).b = lastTable.b := by
  refine ⟨by unfold Rules.setOk; decide, by unfold Rules.setOk; decide, banked_ready _ _ (by decide +kernel), by decide +kernel, ?_, ?_, ?_⟩
  · refine ⟨by decide +kernel, by decide +kernel, by decide +kernel, by decide, ⟨false, ?_, by decide⟩⟩
    intro i h; rfl
  · decide +kernel
  · unfold Rules.shapeFits; decide +kernel

/-- An LKACC block whose one entry is elided: 2 rows of an input of two. -/
def lkaccBlock : State := banked [(0x100, [0, Rules.shapeWord lastTable, 2, 128 * 2 ^ 32 + 2 * 2 ^ 16 + 254, 0x200000000, 0x180, 0xFF, 0]),
  (0x180, [2 ^ 63 + 128 * 2 ^ 48 + 255 * 2 ^ 40, 0])]
theorem witness_Lkacc : Rules.bankReady lkaccBlock issuer 0x100 8 0 0 ∧ lkaccBlock.crew? ⟨placeMember, 0⟩ = some placeCrew ∧
    placeCrew.cellOf (lkaccBlock.cellRank issuer) = some (0, 0, 0) ∧ lkaccBlock.Canonical ∧ Rules.shapeFits lastTable ∧
    Rules.windowWord lkaccBlock issuer 0x108 = Rules.shapeWord lastTable ∧ Rules.windowWord lkaccBlock issuer 0x118 = 128 * 2 ^ 32 + 2 * 2 ^ 16 + 254 ∧
    issuer.InWindow (BitVec.ofNat 64 (Rules.windowWord lkaccBlock issuer 0x128)) 16 ∧
    (let a := BitVec.ofNat 64 (Rules.windowWord lkaccBlock issuer 0x180)
      let e := catEntry a 0
      layoutBad lastTable true 2 2 128 0 0 0 e = false ∧ entryPieces 0x200000000 e = [] ∧
      (match lkaccBlock.allTiles 0x200000000 0 [] [e] with | .ok p => decide (p = []) | .error _ => false) = true) := by
  refine ⟨banked_ready _ _ (by decide +kernel), by decide +kernel, by decide +kernel, by decide +kernel, by unfold Rules.shapeFits; decide, ?_⟩
  decide +kernel
theorem witness_Rows : let s := banked [(0x100, [0x200000000, 0x210000000, 0x400])];
    Rules.bankReady s issuer 0x100 3 0 0 ∧ (match s.granule .store 0x200000000 with | .ok x => some x | .error _ => none) = some (0x10000000, 0x10000237) ∧
    (match s.granule .load 0x210000000 with | .ok x => some x | .error _ => none) = some (0x20000000, 0x20000237) ∧ stackOf 0x20000000 = 0 ∧
    (0x10000237 : Word).getLsbD 8 = false := by
  refine ⟨banked_ready _ _ (by decide +kernel), ?_⟩; decide +kernel

/-- The issuer with a huge page's address in g8 and its size in g9. -/
def sealer : Core := withG (withG issuer 8 0x200000000) 9 0x10000000
theorem witness_Seal : let s := { banked [] with cores := [sealer] };
    s.Calm sealer ∧ (sealer.rg 8).toNat % 2 ^ 28 = 0 ∧ (sealer.rg 9).toNat = 1 * 2 ^ 28 ∧
    (match s.hugePlace .store (sealer.rg 8 + BitVec.ofNat 64 (0 * 2 ^ 28)) with | .ok x => some x | .error _ => none) = some (1 * 2 ^ 28, 0x10000237) ∧
    (0x10000237 : Word).getLsbD 9 = true ∧ (∀ k ∈ s.cells, k.2.log = []) ∧ ∀ k ∈ s.stackTbl, k.2.seqr ++ k.2.parked = [] := by
  refine ⟨⟨⟨rfl, rfl, rfl, rfl, rfl⟩, rfl, rfl⟩, ?_⟩; decide +kernel
theorem witness_Stkpass : let c := withG issuer 8 0
    Rules.bankReady { banked [] with cores := [c] } c 0x100 0 0 (c.rg 8).toNat ∧ (c.rg 8).toNat < 128 := by
  refine ⟨⟨⟨⟨⟨rfl, rfl, rfl, rfl, rfl⟩, rfl, rfl⟩, rfl, rfl, ⟨rfl, rfl, ?_⟩, by decide +kernel, rfl, .inl rfl⟩, ?_⟩, by decide⟩
  · intro k hk; cases hk with
    | head => exact ⟨rfl, rfl⟩
    | tail _ h => cases h
  · exact ⟨rfl, by decide, rfl, rfl, rfl⟩

/-- The asker of a crew that claims stack 0, whose object register is g8. -/
def claimed (a x : Word) (ps : List (Nat × List Nat)) : State := { banked ps with cores := [asker a x] }
theorem claimed_issuer (a x : Word) (ps : List (Nat × List Nat)) : Rules.bankIssuer (claimed a x ps) (asker a x) := by
  refine ⟨⟨⟨⟨rfl, rfl, rfl, rfl, rfl⟩, rfl, rfl⟩, rfl, rfl, ⟨rfl, rfl, ?_⟩⟩, rfl⟩
  intro k hk; cases hk with
  | head => exact ⟨rfl, rfl⟩
  | tail _ h => cases h
def malformedDec (y : Rules.BankOp) (o : Nat) (w : Nat → Word) : Decidable (y.malformed o w) := by
  cases y <;> (unfold Rules.BankOp.malformed; unfold Rules.setBad Rules.setOk; try unfold Rules.shapeReserved) <;> infer_instance
def malformedB (y : Rules.BankOp) (o : Nat) (w : Nat → Word) : Bool := @decide _ (malformedDec y o w)
theorem malformedB_iff (y : Rules.BankOp) (o : Nat) (w : Nat → Word) : y.malformed o w ↔ malformedB y o w = true :=
  (@decide_eq_true_iff _ (malformedDec y o w)).symm
/-- The block at 0x100 of an asker. -/
def blockOf (ws : List Nat) : Nat → Word := Rules.blockWord (claimed 0x100 0x10000 [(0x100, ws)]) (asker 0x100 0x10000) 0x100
/-- Malformed descriptors, each with its opt. -/
def badBlocks : List (Rules.BankOp × Nat × List Nat) :=
  [(.cbload, 0, [1]), (.cbload, 0, [0x10000]), (.tbuild, 64, [0, 0x180, 0x100000000, 1]), (.tbuild, 5, [0, 0x180, 0x100000008, 1]),
    (.tbuild, 5, [0, 0x180, 0x100000000, 0]), (.bdtld, 1, [0, 0x180, 0]), (.bdtld, 0, [0, 0x180, 0x800]), (.lkacc, 3, [0]), (.lkacc, 8, [0]),
    (.lkacc, 0, [0, 0x100000001, 2, 0]), (.lkacc, 0, [0, 0x100000001, 2, 0x10000, 0, 0, 0, 0x200]), (.lkrd, 2, [0, 0x10000]), (.lkrd, 0, [0, 0]),
    (.lkclr, 2, [0]), (.lkclr, 0, [0x10001]), (.lkclr, 0, [0xA0000]), (.rcopy, 0, [0, 0, 0x401]), (.rfill, 0, [0, 0, 2 ^ 35 + 1024]), (.rfill, 1, [0, 0, 1024])]
theorem witness_DescriptorTraps : (∀ x ∈ badBlocks, x.1.malformed x.2.1 (blockOf x.2.2)) ∧ ¬ Rules.BankOp.lkclr.malformed 0 (blockOf [0x1000000]) ∧
    Rules.fld (blockOf [0x1000000] 0) 30 24 = 1 ∧ (claimed 0x100 0x10000 []).claims (asker 0x100 0x10000) 1 = false ∧
    (claimed 0x100 0x10000 []).claims (asker 0x100 0x10000) 0 = true ∧
    let s := { claimed 0x100 0x10000 [] with stackTbl := [(0, { Stack.reset with second := true })] }; s.owner 0 ≠ (asker 0x100 0x10000).id.die := by
  simp only [malformedB_iff]; decide +kernel

def descB (s : State) (c : Core) (y : Rules.BankOp) (o : Nat) : Bool :=
  decide (c.InWindow 0x100 (8 * y.words)) && !malformedB y o (Rules.blockWord s c 0x100) &&
    (y.rows || (let k := Rules.fld (Rules.blockWord s c 0x100 0) 30 24; s.claims c k && decide (s.owner k = c.id.die) && (s.stack k).lock.isNone))
theorem described_of {s : State} {c : Core} {y : Rules.BankOp} {o : Nat} (h : Rules.bankIssuer s c) (d : descB s c y o = true) :
    Rules.described s c y 0x100 o := by
  simp only [descB, Bool.and_eq_true, Bool.or_eq_true, decide_eq_true_eq, Bool.not_eq_true', Option.isNone_iff_eq_none] at d
  refine ⟨h, d.1.1, by decide, fun m => ?_, fun r => ?_⟩
  · rw [malformedB_iff, d.1.2] at m; cases m
  · rcases d.2 with e | e
    · rw [r] at e; cases e
    · exact ⟨e.1.1, e.1.2, e.2⟩
/-- The commands with operands, and what of each of them can fail. -/
def askedB (y : Rules.BankOp) (o : Nat) (ws : List Nat) : Bool := descB (claimed 0x100 0x10000 [(0x100, ws)]) (asker 0x100 0x10000) y o
theorem witness_BankOperandTraps : let c := asker 0x100 0x10000
    (askedB .cbload 0 [0] && askedB .lkclr 1 [0] && askedB .lkrd 0 [0, 0x10000 + 256, 0] && askedB .lkrd 0 [0, 0x1000000, 0x70000] &&
      askedB .lkrd 0 [0, 0x10000, 0] && askedB .bdtld 0 [0, 0x80000, 2 ^ 16] && askedB .bdtld 0 [0, 0xFFFA, 2 ^ 17] && askedB .bdtld 0 [0, 0x180, 2 ^ 17 + 2047] &&
      askedB .tbuild 5 [0, 0x80000, 0x100000000, 1] && askedB .tbuild 5 [0, 0xFFFF, 0x100000000, 2] &&
      askedB .tbuild 5 [511, 0x180, 31 * 2 ^ 16 + 0x100000014, 3] && askedB .tbuild 4 [511, 0x180, 31 * 2 ^ 16 + 0x100000014, 2]) = true ∧
    Rules.objectCause (claimed 0x100 0x10000 []) c (c.rg 8) false = some .perm ∧
    (¬ Rules.rowsFit (claimed 0x100 0x10000 []) 0 0 0 256 1) ∧ 8192 < 1024 * 7 + 8 * 256 ∧
    (Rules.placeCause 0x80000 1 = some .perm ∧ c.InWindow 0xFFFA 4 ∧ Rules.scalarCause c 0xFFFE 4 = some .perm ∧ c.InWindow 0xFFFF 1 ∧
      Rules.scalarCause c 0x10000 1 = some .perm) ∧ 2048 < 2047 + 2 ∧
    (let s := claimed 0x100 0x10000 [(0x180, [0xC0000000000])]; 11 < Rules.windowNat s c 0x184 4 / 2 ^ 8 % 16 ∧ Rules.windowNat s c 0x180 4 / 2 ^ 8 % 16 = 0) ∧
    Rules.shapeIn (BitVec.ofNat 64 (31 * 2 ^ 16 + 0x100000014)) = lastTable ∧ 2 ^ 0 * lastTable.tpb < Rules.groups lastTable 3 ∧
    (tblGet ⟨0, []⟩ 4 ((claimed 0x100 0x10000 []).stack 0).bank.slots).b = 0 := by
  refine ⟨by decide +kernel, by decide +kernel, ?_, by decide, by decide +kernel, by decide, by decide +kernel, by decide +kernel, by decide, by decide +kernel⟩
  rintro ⟨b, h, k⟩
  have e := h 0 (by decide)
  have : (tblGet Bank.reset (0 + 0) ((claimed 0x100 0x10000 []).stack 0).bank.banks).narrow = false := rfl
  rw [this] at e; subst e; exact absurd k (by decide)

def mismatchDec (y : TableShape) (inputs n layout mode k : Nat) (a b : Word) : Decidable (Rules.entryMismatch y inputs n layout mode k a b) := by
  unfold Rules.entryMismatch Rules.shapeFits; dsimp only; infer_instance
def mismatchB (y : TableShape) (inputs n layout mode k : Nat) (a b : Word) : Bool := @decide _ (mismatchDec y inputs n layout mode k a b)
theorem mismatchB_iff (y : TableShape) (inputs n layout mode k : Nat) (a b : Word) :
    Rules.entryMismatch y inputs n layout mode k a b ↔ mismatchB y inputs n layout mode k a b = true :=
  (@decide_eq_true_iff _ (mismatchDec y inputs n layout mode k a b)).symm
/-- An LKACC of the asker: its third and fourth words, its tile base, its catalogue, its last word, and what stands at 0x180. -/
def lkAsked (shape k w3 wbase cat w7 : Nat) (e : List Nat) : State :=
  claimed 0x100 0x10000 [(0x100, [0, shape, k, w3, wbase, cat, 0xFF, w7]), (0x180, e)]
def lkRows : Nat := 128 * 2 ^ 32 + 2 * 2 ^ 16 + 254
def elidedWords : List Nat := [2 ^ 63 + 128 * 2 ^ 48 + 255 * 2 ^ 40, 0]
/-- What the tiles of the one entry at 0x180 lie in, or the cause and address of their first fault. -/
def tiled (s : State) (wbase : Word) : Option Cause × Word :=
  match s.allTiles wbase 0 [] [catEntry (BitVec.ofNat 64 (Rules.windowWord s (asker 0x100 0x10000) 0x180)) (BitVec.ofNat 64 (Rules.windowWord s (asker 0x100 0x10000) 0x188))] with
  | .ok _ => (none, 0)
  | .error t => (some t.cause, t.addr)
theorem witness_LkaccTraps : let c := asker 0x100 0x10000; let sh := Rules.shapeWord lastTable
    let e0 : Word := BitVec.ofNat 64 (2 ^ 63 + 128 * 2 ^ 48 + 255 * 2 ^ 40); let raw : Word := BitVec.ofNat 64 (128 * 2 ^ 48)
    (∀ cat ∈ [2 ^ 52, 0x188, 0x1000000, 2 ^ 32, 0x10000, 0x180], descB (lkAsked sh 2 lkRows 0x200000000 cat 0 elidedWords) c .lkacc 0 = true) ∧
    (∀ x ∈ [(sh, 2, lkRows - 2 ^ 32, 0), (sh, 2, lkRows + 2 ^ 32, 0), (sh, 2, lkRows + 1, 0), (sh, 3, lkRows, 0), (sh + 2 ^ 16, 2, lkRows, 0), (sh, 2, lkRows, 1)],
      descB (lkAsked x.1 x.2.1 x.2.2.1 0x200000000 0x180 x.2.2.2 elidedWords) c .lkacc 4 = true) ∧
    (Rules.elementCause (claimed 0x100 0x10000 []) c 0x10000 8 = some .perm ∧ Rules.elementCause (claimed 0x100 0x10000 []) c (2 ^ 32) 8 = some .hugeabsent ∧
      c.InWindow 0x180 8 ∧ c.InWindow 0x188 8) ∧
    (tiled (lkAsked sh 2 lkRows 0x200000000 0x180 0 elidedWords) 0x200000000 = (none, 0) ∧
      tiled (lkAsked sh 2 lkRows 0x200000000 0x180 0 [128 * 2 ^ 48 + 5, 2]) 0x300000000 = (some .hugeabsent, 0x300000005)) ∧
    ¬ (128 ≤ 127) ∧ 8 < (255 / 32 % 4 + 1) * (255 / 4 % 8 + 1) ∧
    (Rules.entryMismatch lastTable 2 2 129 0 0 e0 0 ∧ Rules.entryMismatch lastTable 2 2 128 1 0 raw 2 ∧ Rules.entryMismatch lastTable 2 2 128 0 0 raw 3 ∧
      ¬ Rules.entryMismatch lastTable 2 2 128 0 0 raw 2 ∧ ¬ Rules.entryMismatch lastTable 2 2 128 0 0 e0 0) ∧ Rules.fld e0 63 62 ≠ 1 ∧
    ((¬ Rules.shapeFits (Rules.shapeIn (BitVec.ofNat 64 (sh + 2 ^ 16)))) ∧ ¬ Rules.groups lastTable 3 ≤ 1 ∧ Rules.shapeFits lastTable) ∧
    ((entryPieces 0x200000000 (catEntry raw 2)).find? fun p => (lkAsked sh 2 lkRows 0x200000000 0x180 0 []).badPiece 0 0 0 (pageAt [(32, 0x10000000)] p.1)).isSome = true ∧
    (lkAsked sh 2 lkRows 0x200000000 0x180 0 [128 * 2 ^ 48, 2]).allTiles 0x200000000 0 [] [catEntry raw 2] = .ok [(32, 0x10000000)] := by
  refine ⟨by decide +kernel, by decide +kernel, by decide +kernel, by decide +kernel, by decide, by decide, ?_, by decide, ?_, by decide +kernel, rfl⟩
  · simp only [mismatchB_iff]; decide +kernel
  · unfold Rules.shapeFits; decide +kernel

/-- A coded tile of three chunks on the sealed frame 1, an LKACC that is resumed at its first chunk, and the pages it lies in. -/
def codedEntry : CatEntry := ⟨1, 0, 128, 0, 0, 3, 64⟩
def resumedBlock : State :=
  { banked [(0x100, [4, Rules.shapeWord lastTable, 2, 128 * 2 ^ 32 + 2 * 2 ^ 16 + 254, 0x200000000, 0x180, 0xFF, 0]),
      (0x180, [2 ^ 62 + 128 * 2 ^ 48, 3 * 2 ^ 32 + 64])] with
    dies := [(0, { Die.reset with rt := [(0, (0x200000000, 0x10000237))], sealt := 2, fmap := [(1, 1)] })] }
theorem witness_Lkacc_resumed : Rules.bankReady resumedBlock issuer 0x100 8 0 0 ∧ Rules.setOk 0 4 ∧ Rules.windowWord resumedBlock issuer 0x100 = Rules.setWord 0 0 4 ∧
    Rules.windowWord resumedBlock issuer 0x138 = 0 * 2 ^ 16 + 0 ∧
    (let a := BitVec.ofNat 64 (Rules.windowWord resumedBlock issuer 0x180)
      let b := BitVec.ofNat 64 (Rules.windowWord resumedBlock issuer 0x188)
      catEntry a b = codedEntry ∧ layoutBad lastTable true 2 2 128 1 0 b codedEntry = false ∧
        ∀ p ∈ entryPieces 0x200000000 codedEntry, resumedBlock.badPiece 0 0 (4 + 0) (pageAt [(32, 0x10000000)] p.1) = false) ∧
    resumedBlock.allTiles 0x200000000 0 [] [codedEntry] = .ok [(32, 0x10000000)] ∧
    resumedBlock.skipChunks [(32, 0x10000000)] (0x200000000 + BitVec.ofNat 64 codedEntry.offset) codedEntry 2 0 0 0 0 = .ok (0, 0) := by
  refine ⟨⟨⟨⟨⟨rfl, rfl, rfl, rfl, rfl⟩, rfl, rfl⟩, rfl, rfl, ⟨rfl, rfl, ?_⟩, by decide +kernel, rfl, .inl rfl⟩, ⟨rfl, by decide, rfl, rfl, rfl⟩⟩,
    by unfold Rules.setOk; decide, by decide +kernel, by decide +kernel, by decide +kernel, rfl, rfl⟩
  intro k hk; cases hk with
  | head => exact ⟨rfl, rfl⟩
  | tail _ h => cases h

/-- Rows of the asker under resident entries and a die of its own making. -/
def rowsAsked (ws : List Nat) (rt : List (Nat × (Word × Word))) (sealt : BitVec 16384) : State :=
  { claimed 0x100 0x10000 [(0x100, ws)] with dies := [(0, { Die.reset with rt := rt, sealt := sealt })] }
def rowPages (w : Word) : List (Nat × (Word × Word)) := [(0, (0x200000000, w)), (1, (0x210000000, 0x20000237))]
theorem witness_RowTraps : let c := asker 0x100 0x10000
    let s (ws : List Nat) := rowsAsked ws (rowPages 0x10000237) 0;
    (descB (s [0x200000200, 0x210000000, 0x400]) c .rcopy 0 && descB (s [0x200000000, 8, 0x400]) c .rfill 0) = true ∧
    (Rules.granuleCause (s []) c true 0x200000200 = some .align ∧ Rules.granuleCause (s []) c false 0x220000000 = some .hugeabsent ∧
      Rules.granuleCause (s []) c false 0x100000 = some .perm ∧ Rules.granuleCause (s []) c true 0x200000000 = none ∧
      Rules.granuleCause (s []) c false 0x21FFFFC00 = none) ∧
    (Rules.granuleCause (rowsAsked [] (rowPages 0x10000233) 0) c true 0x200000000 = some .perm ∧
      Rules.granuleCause (rowsAsked [] (rowPages 0x810000237) 0) c true 0x200000000 = some .perm ∧
      Rules.granuleCause (rowsAsked [] (rowPages 0x40010000237) 0) c true 0x200000000 = some .perm ∧
      Rules.granuleCause (rowsAsked [] (rowPages 0x10000237) 2) c true 0x200000000 = some .seal ∧
      Rules.granuleCause { s [] with stackTbl := [(0, { Stack.reset with second := true })] } c true 0x200000000 = some .owner) ∧
    ((s []).die 0).residents 0x200000000 = [0x10000237] ∧ Rules.pageAddr true 0x10000237 0x200000000 = 0x10000000 ∧
    ((rowsAsked [] (rowPages 0x10000337) 0).die 0).residents 0x200000000 = [0x10000337] ∧ (0x10000337 : Word).getLsbD 8 = true := by
  decide +kernel
/-- Two claimed stacks of one die, and a row of each. -/
def twoStacks : State :=
  { rowsAsked [0x200000000, 0x210000000, 0x400] [(0, (0x200000000, 0x10000237)), (1, (0x210000000, BitVec.ofNat 64 (8 * 2 ^ 32 + 0x20000237)))] 0 with
    batches := [{ claiming with dw := [0x100000000, 0, 0x0004010000010001, 2, 2 + 8 * 2 ^ 16] }] }
theorem witness_RowTraps_apart : let c := asker 0x100 0x10000
    Rules.granuleCause twoStacks c true 0x200000000 = none ∧ (twoStacks.claims c 0, twoStacks.claims c 8) = (true, true) := by
  decide +kernel

/-- A command of stack 0 that is parked there and reads a tile on frame 1. -/
def parkedReader : BankCmd :=
  ⟨9, 0, some ⟨placeMember, 0⟩, 0, 0, 0, none, 0, 4, .lkacc lastTable 2 2 254 128 0x200000000 [(32, 0x10000000)] [codedEntry] 0x130 none, true, [], [], none, false, false⟩
theorem witness_StackTraps : let s := claimed 0x100 0x10000 []
    let c := asker 0x100 0x10000;
    (s.Calm c ∧ c.isSteward = false ∧ s.heldFault c false = none) ∧ (s.claims c 0, s.claims c 1) = (true, false) ∧
    Rules.objectCause s c (c.rg 8) false = some .perm ∧
    (let p (a : Word) := Rules.hugeCause s c true a;
      (p 0x200000000, p 0x220000000, p 0x10000000, p (2 ^ 52)) = (none, some .hugeabsent, some .perm, some .perm)) ∧
    Rules.hugeCause (rowsAsked [] (rowPages 0x10000037) 0) c true 0x200000000 = none ∧ (0x10000037 : Word).getLsbD 9 = false ∧
    parkedReader.readsFrame (frameOf (Rules.pageAddr true 0x10000237 0x200000000)) = true := by
  refine ⟨⟨(claimed_issuer _ _ _).1.1, rfl, rfl⟩, ?_⟩; decide +kernel


/-! What the statements on base dies assume. -/

/-- A command of the hart's crew as the first of stack 0, with an object at 0x40 of the hart's window. -/
def commanded (work : BankWork) (started : Bool) (banks : Tbl BankProg) (done : List Nat) : BankCmd :=
  ⟨9, 0, some ⟨placeMember, 0⟩, 0, 0, 0, some ⟨⟨placeMember, 0⟩, 0, 0x40⟩, 0, 511, work, started, done, banks, none, false, false⟩
def sequenced (x : BankCmd) : State :=
  { object with stackTbl := [(0, { Stack.reset with seqr := [x], bank := { BankState.reset with slots := [(5, ⟨4, [3]⟩)] } })] }
theorem sequenced_running (work : BankWork) (b : Tbl BankProg) (d : List Nat) :
    Rules.running (sequenced (commanded work true b d)) 0 (commanded work true b d) := by
  refine ⟨(by decide : State.reset.boot.stage ≠ 3), ?_, rfl, rfl⟩; simp [sequenced, State.stack, tblGet, tblGet?]

/-- The entry of an elided tile, and an LKACC of two rows over it. -/
def elided : CatEntry := ⟨2, 0, 128, 255, 0, 0, 0⟩
def accumulating : BankWork := .lkacc lastTable 2 2 254 128 0x200000000 [] [elided] 0x130 none
theorem witness_BankStart : lastTable.banks 2 ≠ 0 ∧ (commanded accumulating false [] []).started = false ∧ (sequenced (commanded accumulating false [] [])).boot.stage ≠ 3 ∧
    ((sequenced (commanded accumulating false [] [])).stack 0).seqr = commanded accumulating false [] [] :: [] := by decide +kernel
theorem witness_BankEvent_object (x : BankCmd) : (sequenced x).objLoc? ⟨⟨placeMember, 0⟩, 0, 0x40⟩ = some (holdLoc 0 0 0x40) ∧
    isHold (holdLoc 0 0 0x40) = true ∧ Rules.objectIn (sequenced x) (holdLoc 0 0 0x40) 5 4 false false := by
  refine ⟨rfl, by decide, ?_⟩
  have h : Rules.objectIn object (holdLoc 0 0 0x40) 5 4 false false := by unfold Rules.objectIn; decide +kernel
  exact h
theorem witness_Tbuild (act : List (BitVec 8)) : let s := sequenced (commanded (.tbuild 5 lastTable 2 act) true [] [])
    (tblGet ⟨0, []⟩ 5 (s.stack 0).bank.slots).b = lastTable.b ∧ lastTable.tpb ≠ 0 := ⟨rfl, by decide⟩
theorem witness_Segment : ∀ b ∈ [false, true], let p : BankProg := ⟨1, 0, 0, b, false, false, false⟩
    let x := commanded accumulating true [(0, p)] []
    let s := sequenced x
    x.faulted = none ∧ tblGet? 0 x.banks = some p ∧ [elided][0]? = some elided ∧ 254 + 2 ≤ 256 ∧ (Rules.bankOf' s 0 511).narrow = false ∧
    (match s.segment 0 511 lastTable [] 0x200000000 elided 2 1 p with | .ok y => some y | .error _ => none) = some ([255], 0) := by decide +kernel
theorem witness_Lkrd : let x := commanded (.lkrd 1 255 7 511 true) true [] []
    Rules.rowsFit (sequenced x) 0 0 511 255 1 ∧ 1024 * 7 + 8 * 1 ≤ 8192 ∧ (sequenced x).Canonical ∧
    ∀ l, Rules.inObject (sequenced x) x.obj l → isMailbox l = false := by
  refine ⟨⟨false, fun _ _ => rfl, by decide⟩, by decide, by decide +kernel, ?_⟩
  rintro l ⟨r, q, h, hq, h1, h2⟩
  cases h
  rw [(witness_BankEvent_object _).1] at hq
  cases hq
  obtain ⟨j, rfl⟩ := Nat.exists_eq_add_of_le h1
  have hj : j < 16 := by omega
  have H : ∀ j, j < 16 → isMailbox (holdLoc 0 0 0x40 + j) = false := by decide +kernel
  exact H j hj
theorem witness_Granule : let w := BankWork.rcopy 0x200000000 0x210000000 1024 [(32, 268435456)] [(33, 536870912)]
    let s := sequenced (commanded w true [] [])
    0 < 1024 / 1024 ∧ pageAt [(32, 268435456)] (0x200000000 + BitVec.ofNat 64 (1024 * 0)) = 2 ^ 28 ∧
    pageAt [(33, 536870912)] (0x210000000 + BitVec.ofNat 64 (1024 * 0)) = 2 ^ 29 ∧ (s.die 0).sealt.getLsbD (frameOf (2 ^ 28)) = false ∧ s.Canonical ∧
    ∀ j, j < 1024 → ¬ Rules.inObject s (some ⟨⟨placeMember, 0⟩, 0, 0x40⟩) (2 ^ 28 + j) := by
  refine ⟨by decide, by decide, by decide, by decide +kernel, by decide +kernel, ?_⟩
  rintro j hj ⟨r, q, h, hq, h1, -⟩
  cases h
  rw [(witness_BankEvent_object _).1] at hq
  cases hq
  have : 2 ^ 42 ≤ holdLoc 0 0 0x40 := by decide
  omega

/-- Stack 0 in lockage from its first candidate to the other, and a command parked at it. -/
def lockedAt (step : Nat) : Lockage := ⟨step, 0, 1, true, some ⟨⟨placeMember, 0⟩, 0, 0x40⟩, none⟩
def passing (step : Nat) : State := { object with stackTbl := [(0, { Stack.reset with lock := some (lockedAt step) })] }
def parkedCmd : State := { object with stackTbl := [(0, { Stack.reset with parked := [commanded (.lkclr true) false [] []] })] }
theorem witness_Rejoin : (parkedCmd.stack 0).parked.find? (fun y => decide (y.id = 9)) = some (commanded (.lkclr true) false [] []) ∧
    (parkedCmd.stack 0).lock = none ∧ (parkedCmd.stack 0).seqr.length < 64 ∧
    parkedCmd.crewOn (commanded (.lkclr true) false [] []) (parkedCmd.owner 0) = true ∧
    (∀ y ∈ (parkedCmd.stack 0).parked, (commanded (.lkclr true) false [] []).id ≤ y.id) := by decide +kernel
theorem witness_Lockage (n : Nat) : ((passing n).stack 0).lock = some (lockedAt n) ∧ (∀ x ∈ ((passing n).stack 0).seqr, x.die ≠ 0) ∧
    (candidates 0).2 = 1 := ⟨rfl, (by intro x h; cases h), by decide⟩
theorem witness_Redirect : let c := { hart with wait := .lockage 3 }
    (panelOf c).core? c.id = some c ∧ ((panelOf c).stack 3).lock = none := ⟨rfl, rfl⟩
theorem witness_Evict : copied.nonHome? 0 (2 ^ 29) = some ⟨2 ^ 29, 7, 1, [hart.id], false⟩ ∧ copied.homeWait 0 (64 * 2 ^ 29) = none := by
  decide +kernel

/-- An LKACC over a coded tile whose first marker fails, of the hart's crew, with its status doubleword at 0x130. -/
def codedWork (q : Option (Nat × Nat)) : BankWork := .lkacc lastTable 2 2 254 128 0x200000000 [] [codedEntry] 0x130 q
theorem witness_ChunkFault : ∀ bs ∈ [[(0, (⟨0, 0, 0, false, false, false, false⟩ : BankProg))],
      [(0, ⟨0, 0, 0, false, false, false, false⟩), (1, ⟨0, 0, 0, false, false, false, false⟩)]],
    let x := commanded (codedWork none) true bs []
    let s := sequenced x
    tblGet? 0 x.banks = some ⟨0, 0, 0, false, false, false, false⟩ ∧ [codedEntry][0]? = some codedEntry ∧
      (match s.segment 0 511 lastTable [] 0x200000000 codedEntry 2 1 ⟨0, 0, 0, false, false, false, false⟩ with | .ok _ => none | .error r => some r) = some 1 ∧
      (x.crew = some placeCrew.ref ∧ s.crew? placeCrew.ref = some placeCrew ∧ s.hartsOf placeCrew.ref = [hart]) ∧
      x.banks.Pairwise (fun a b => a.1 < b.1) ∧ s.statusPlace x 0x130 = some (holdLoc 0 0 0x130) ∧ isHold (holdLoc 0 0 0x130) = true ∧ s.Canonical := by
  decide +kernel
theorem witness_ResumedStart : ∀ q ∈ [0, 1], let x := commanded (codedWork (some (0, q))) false [] []
    let s := sequenced x
    (s.boot.stage ≠ 3 ∧ (s.stack 0).seqr = x :: [] ∧ (s.stack 0).retrain = [] ∧ x.started = false ∧ x.banks = []) ∧
      (match s.skipChunks [] (0x200000000 + BitVec.ofNat 64 codedEntry.offset) codedEntry 2 0 0 0 q with
        | .ok y => (true, y)
        | .error y => (false, y)) = (if q = 0 then (true, (0, 0)) else (false, (0, 1))) ∧
      s.statusPlace x 0x130 = some (holdLoc 0 0 0x130) := by
  decide +kernel


/-! What the statements on the events of a hart assume. -/

/-- The hart at a BOINIT, with a buffered store of its strip to its window. -/
def atFence : State := fetching ((encode (.boinit 5 6)).getD 0) hart fun c =>
  { c with strip := { c.strip with buf := [⟨0x80, c.pc - 4, 0xFFFF, holdLoc 0 0 0x80, none, [(7, 0xFF)], none, false, false⟩] } }
def closed : State := match atFence.nextInstr.1.closeStrip with | .ok v => v | .error _ => State.reset
theorem witness_StripClose : atFence.nextInstr.2 = some (.boinit 5 6) ∧ closesStrip (.boinit 5 6) = true ∧
    (match atFence.nextInstr.1.closeStrip with | .ok _ => true | .error _ => false) = true ∧ atFence.nextInstr.1.me.stopAsked = false ∧
    closed.me.stopAsked = false ∧ closed.me.strips = true ∧ atFence.me.strip ≠ .empty ∧ Rules.awake atFence atFence.me ∧
    atFence.me.wait = .none := by unfold Rules.awake; decide +kernel
def waiting (w : Wait) : Core := { hart with wait := w, latch := true }
theorem waiting_awake (w : Wait) : Rules.awake (panelOf (waiting w)) (waiting w) ∧ (waiting w).around = false :=
  ⟨⟨rfl, rfl, rfl, rfl, rfl, rfl, rfl⟩, rfl⟩
theorem witness_AsyncCause : let c := { hart with pending := ⟨some 5, some 6, true⟩ }
    let d := { hart with pending := ⟨none, some 6, true⟩ }
    let e := { hart with pending := ⟨none, none, true⟩ }
    Rules.awake (panelOf c) c ∧ c.pending.ecc = some 5 ∧ Rules.awake (panelOf d) d ∧ d.pending.ecc = none ∧ d.pending.link = some 6 ∧
    Rules.awake (panelOf e) e ∧ e.pending = ⟨none, none, true⟩ ∧ Cause.launch ∈ Rules.foundCauses :=
  ⟨⟨rfl, rfl, rfl, rfl, rfl, rfl, rfl⟩, rfl, ⟨rfl, rfl, rfl, rfl, rfl, rfl, rfl⟩, rfl, rfl, ⟨rfl, rfl, rfl, rfl, rfl, rfl, rfl⟩, rfl, by decide⟩
def gated : State := { panelOf (waiting (.gate 5)) with dies := [(0, { Die.reset with level := 1 })] }
theorem witness_Gate : (gated.cell (cellKey 0 0)).bucket < (gated.die 0).level.toNat ∧ gated.cores = [waiting (.gate 5)] ∧
    (waiting (.gate 5)).wait = .gate 5 := by decide +kernel
theorem witness_Boundary : hart.frame = none ∧ hart.wait = .none ∧ hart.pending = ⟨none, none, false⟩ ∧ hart.parked = none ∧
    hart.stopped = false ∧ stew.isSteward = true ∧ stew.st.mip = false ∧ (panelOf stew).core? (panelOf stew).cur = some stew :=
  ⟨rfl, rfl, rfl, rfl, rfl, rfl, rfl, rfl⟩
theorem witness_FetchEvents : (match (panelOf hart).fetch with | (_, .fault x) => decide (x.cause = .page) | _ => false) = true ∧
    let s := fetching 0xFFFFFFFF hart id
    (match s.fetch with | (_, .word w) => decide (w = 0xFFFFFFFF) | _ => false) = true ∧ (decode 0xFFFFFFFF).toOption = none := by
  decide +kernel

/-- The hart that waits for the phase of its object, whose phase is 0. -/
def phaser : Core := waiting (.phase ⟨⟨placeMember, 0⟩, 0, 0x40⟩ 0x40 true 9)
def phased : State := { object with cores := [phaser] }
theorem witness_Phase : Rules.awake phased phaser ∧ phased.heldFault phaser false = none ∧ phased.objLoc? ⟨⟨placeMember, 0⟩, 0, 0x40⟩ = some (holdLoc 0 0 0x40) ∧
    Rules.objectIn phased (holdLoc 0 0 0x40) 5 4 false false ∧ (phased.die 0).nonHome = [] := by
  unfold Rules.objectIn Rules.awake; decide +kernel

/-- The hart at the first instance of CBAR, its mate there as well. -/
def meeting : State := { panelOf { hart with wait := .barrier false 0 false, cbars := 1 } with
  cores := [{ hart with wait := .barrier false 0 false, cbars := 1 }, { hart with id := .hart 0 0 1, crew := some (⟨placeMember, 0⟩, 1), wait := .barrier false 0 false, cbars := 1 }] }
theorem witness_Release : meeting.barrierMet ⟨placeMember, 0⟩ false 0 = true ∧ ∀ k ∈ meeting.cores, Rules.mate meeting ⟨placeMember, 0⟩ false 0 k := by
  refine ⟨by decide +kernel, ?_⟩
  have h : meeting.barrierCrews ⟨placeMember, 0⟩ false = [placeCrew] := rfl
  intro k hk
  rcases List.mem_cons.1 hk with rfl | hk
  · refine ⟨⟨rfl, rfl, rfl, rfl, rfl, rfl, rfl⟩, ⟨_, rfl⟩, ⟨placeCrew, ?_, rfl, rfl⟩, by decide +kernel, rfl⟩
    rw [h]; exact List.mem_singleton.2 rfl
  · rcases List.mem_cons.1 hk with rfl | hk
    · refine ⟨⟨rfl, rfl, rfl, rfl, rfl, rfl, rfl⟩, ⟨_, rfl⟩, ⟨placeCrew, ?_, rfl, rfl⟩, by decide +kernel, rfl⟩
      rw [h]; exact List.mem_singleton.2 rfl
    · cases hk
theorem witness_Pop : let c := { waiting (.lqPop 9 7 2 3) with lq := [⟨4096, false⟩] }
    Rules.awake (panelOf c) c ∧ c.around = false ∧ c.lq = ⟨4096, false⟩ :: [] ∧ c.target = none ∧ c.strip.buf = [] ∧ (panelOf c).GateOpen c :=
  ⟨⟨rfl, rfl, rfl, rfl, rfl, rfl, rfl⟩, rfl, rfl, rfl, rfl, .inr (show 0 < Die.reset.level.toNat by decide)⟩

/-- The state after an outcome. -/
def after (o : Host.Outcome State Fault Refusal) : Option State := match o with | .next t => some t | _ => none
def engineWait : State := { copyBlock with cores := [{ issuer with wait := .engine 0 9 7 5 }] }
def sequencerWait : Core := { issuer with wait := .sequencer 0 (commanded (.lkclr true) false [] []) 0x100 9 7 }
def sealWait (off : Bool) : Core := { sealer with wait := .seal off 9 8 9 }
theorem witness_WaitAgain : (engineWait.cell (cellKey 0 0)).queue.length < 16 ∧ (after (exec (.scopy 9 7 5) engineWait)).isSome = true ∧
    Rules.awake engineWait engineWait.me ∧
    (let s := { banked [] with cores := [sequencerWait] };
      Rules.awake s sequencerWait ∧ s.heldFault sequencerWait false = none ∧ s.owner 0 = sequencerWait.id.die ∧ (s.stack 0).lock = none ∧
      s.sequencerFull sequencerWait.id 0 (commanded (.lkclr true) false [] []) = false) ∧
    ∀ off : Bool, let s := { banked [] with cores := [sealWait off] };
      Rules.awake s (sealWait off) ∧ s.sealReady (sealWait off) off 8 9 = true := by
  unfold Rules.awake
  refine ⟨by decide +kernel, by decide +kernel, by decide +kernel, by decide +kernel, by decide +kernel⟩
/-- A command that reads back a row of a bank of slot 5, whose shape has become another or not. -/
def readBack : BankCmd := commanded (.lkrd 1 255 7 511 true) false [] []
theorem witness_KeptFault : let s := { banked [] with cores := [sequencerWait] }
    s.keptFault 0 (commanded (.lkclr true) false [] []) 0x100 = none ∧
    s.keptFault 0 (commanded (.tbuild 5 lastTable 2 []) false [] []) 0x100 = none ∧
    s.keptFault 0 (commanded (.tbuild 6 lastTable 2 []) false [] []) 0x100 = some (causeAt .table 0x100) ∧
    s.keptFault 0 readBack 0x100 = none ∧
    ({ s with stackTbl := [(0, { Stack.reset with bank := { BankState.reset with banks := [(511, { Bank.reset with narrow := true })] } })] }).keptFault 0
      { readBack with slog := 1, b0 := 510 } 0x100 = some (causeAt .table 0x100) := by decide +kernel
/-- A row copy that waits for its stack, under resident entries of its own, and an LKACC that waits with a raw tile. -/
def rowCopy : BankCmd := commanded (.rcopy 0x200000000 0x210000000 1024 [(32, 0x10000000)] [(33, 0x20000000)]) false [] []
def rawTile : BankCmd := commanded (.lkacc lastTable 2 2 254 128 0x200000000 [] [⟨0, 0, 128, 0, 0, 0, 2⟩] 0x130 none) false [] []
def keptState (x : BankCmd) (rt : List (Nat × (Word × Word))) (second : Bool) : State :=
  { banked [] with
    cores := [{ issuer with wait := .sequencer 0 x 0x100 9 77 }]
    dies := [(0, { Die.reset with rt := rt })]
    stackTbl := [(0, { Stack.reset with second := second })] }
/-- What the judgement of a kept command gives: its stack, or its cause. -/
def keptJudged (x : BankCmd) (rt : List (Nat × (Word × Word))) (second : Bool) : Option Cause × Nat :=
  match (keptState x rt second).keptAgain 0 x 0x100 with
  | .ok (k, new) => if new = x then (none, k) else (none, 200)
  | .error t => (some t.cause, 0)
theorem witness_Kept : (keptJudged rowCopy (rowPages 0x10000237) false = (none, 0) ∧ keptJudged rowCopy (rowPages 0x30000237) false = (none, 200) ∧
      keptJudged rowCopy [] false = (some .hugeabsent, 0) ∧ keptJudged readBack (rowPages 0x10000237) false = (none, 0)) ∧
    (keptState readBack [] true).owner 0 ≠ issuer.id.die ∧ Rules.rowWork readBack = false ∧ Rules.rowWork rowCopy = true ∧
    (match (keptState rawTile [] false).allTiles 0x200000000 0 [] [⟨0, 0, 128, 0, 0, 0, 2⟩] with | .ok _ => none | .error t => some t.cause) = some .hugeabsent ∧
    (keptState rowCopy (rowPages 0x10000237) false).sequencerFull issuer.id 0 rowCopy = false := by decide +kernel
theorem witness_SideLogRoom : (atFence.cell (cellKey 0 0)).log.length < 64 ∧
    (match ({ atFence with cores := atFence.cores.map fun c => { c with wait := .sideLog } } : State).closeStrip with
      | .ok t => !t.me.stopAsked
      | .error _ => false) = true := by decide +kernel


/-! What the statements on members assume. -/

/-- The hart's member in a state, with its one crew, and the batch of its record of a 4,096-byte save of each hold. -/
def memberIn (st : MState) (k : Crew) : Member := ⟨placeMember, st, [k], 0, false, [], 0, [], [], 0, false⟩
def batchOf (n : Nat) : Batch := ⟨0, 0, [0x100000000, 0, 0x0004010000010001, BitVec.ofNat 64 n, 0, 0, 0, 0, 0, 0, 0x100000000000], [], none, [], 1, 0, 0, 0, 0, false⟩
def memberState (st : MState) (k : Crew) (c : Core) : State :=
  { panelOf c with members := [memberIn st k], batches := [batchOf 3], time := 5000, queues := [(0, ⟨0x8000000000000005, 0, 0, 0⟩)] }
/-- The hart with every lane of its cell, the only one in use, which a Reserving member of a queue of higher priority lacks four
of. -/
def pressed : State :=
  { panelOf { hart with grant := 16 } with
    members := [memberIn .resident placeCrew, ⟨⟨3, 0, 0⟩, .reserving, [], 0, false, [], 0, [], [], 0, false⟩]
    batches := [batchOf 1, ⟨3, 0, [0x100000000, 0, 0x0004010000010001, 1], [], none, [], 1, 0, 0, 0, 0, false⟩]
    queues := [(0, ⟨0x8000000000000000, 0, 0, 0⟩), (3, ⟨0x8100000000000000, 0, 0, 0⟩)]
    part := { State.reset.part with ldie := [(0, 0)] }
    dies := [(0, { Die.reset with retire := 0xFFFFFFFFFFFFFFFE, spbase := 0x10000, spsize := 0x1000000 })] }
theorem witness_Reclaim : (⟨3, 0, 0⟩ : MemberId) ∈ pressed.candidatesNow ∧ pressed.wantedReclaims ⟨3, 0, 0⟩ = [(hart.id, 12)] ∧
    ([(hart.id, 12)].map Prod.fst).Nodup ∧ (12 : Nat) < (hart.target.getD 16).toNat := by decide +kernel
theorem witness_Preempt : let x := { memberIn .resident placeCrew with energyHeld := true, backfill := true }
    let c := { hart with target := some 1 }
    let s := { memberState .resident placeCrew c with members := [x] }
    s.member? x.id = some x ∧ s.preemptReason x.id = true ∧ s.core? c.id = some c ∧ c.crewRef? = some ⟨placeMember, 0⟩ ∧ (1 : BitVec 5) < c.grant ∧
    (∀ k ∈ x.crews, k.movedAt + 1000 * bits (quadAt x.id.queue s.queues).d0 31 0 ≤ s.time) ∧
    1000 * bits (quadAt x.id.queue s.queues).d0 31 0 ≤ s.time := by decide +kernel

/-- The hart stopped, with a register written in its strip. -/
def stopped : Core := { hart with stopAsked := true, strip := { hart.strip with hist := [(5, 9)] } }
theorem witness_ForcedStop : (∀ c ∈ [stopped, { lane with stopAsked := true }, { stopped with wait := .wfe }, { hart with stopAsked := true }],
      (panelOf c).core? c.id = some c ∧ c.stopAsked = true ∧ c.stopped = false ∧ c.parked = none ∧ c.frame = none ∧ c.isSteward = false ∧
      c.strip.buf = []) ∧
    stopped.atStop = false ∧ stopped.atCheckpoint = false ∧ stopped.cause.active = false ∧ lane.split.on = true ∧
    (Wait.wfe).natural = true ∧ hart.atCheckpoint = true ∧ hart.asksRemote = false ∧
    ∀ b : Bool, let c := { stopped with cause := ⟨5, false, 0, b, true⟩ }; c.split.on = false ∧ c.atStop = false ∧ c.cause.active = true := by
  decide +kernel

/-- The hart in a WFE with a buffered store to stack 0, which is in lockage: its strip cannot close. -/
def stuck : State :=
  let c := { stopped with wait := .wfe, strip := { hart.strip with buf := [⟨0x200020000, hart.pc, 0, 0x100000, some 0x10107F, [(7, 0xFF)], none, true, false⟩] } }
  { panelOf c with stackTbl := [(0, { Stack.reset with lock := some (lockedAt 4) })] }
theorem witness_ForcedStop_waits : (match stuck.core? hart.id with
      | some c => c.wait.natural && decide (c.split.on = false ∧ c.parked = none ∧ c.stopAsked = true ∧ c.stopped = false)
      | none => false) = true ∧
    (match ({ stuck with cur := hart.id } : State).closeStrip with
      | .error ⟨_, .wait _⟩ => true
      | _ => false) = true := by decide +kernel
theorem witness_ForcedStop_parked : ∀ b : Bool, let c := { hart with stopAsked := true, ckptKept := b, parked := some ⟨{ cause := .page, addr := 5 }, true, 0x100000000, 0x100000004, 0, false⟩ };
    (panelOf c).core? c.id = some c ∧ c.parked.isSome = true ∧ c.split.on = false ∧ c.strip.buf = [] ∧ c.atCheckpoint = true ∧
    (let d := { stopped with ckptKept := true, cause := ⟨5, false, 0, b, true⟩ }; d.atStop = false ∧ d.split.on = false ∧ d.strip.buf = [] ∧ d.noStrip = b) := by
  decide +kernel

/-- A crew that saves to 2^30, its hart stopped. -/
def saving : Crew := { placeCrew with save := 0x40000000 }
def savingState : State := memberState .stopping saving { stopped with stopped := true }
theorem witness_GangSave : savingState.member? placeMember = some (memberIn .stopping saving) ∧ savingState.hartsOf saving.ref = [{ stopped with stopped := true }] ∧
    (∀ y ∈ savingState.cells, y.2.queue = []) ∧ savingState.areaHeld (memberIn .stopping saving) = false ∧ savingState.outbound = [] ∧ (savingState.die 0).nonHome = [] ∧
    recDiscard (savingState.recordOf placeMember) = 4096 ∧ 0 < recHarts (savingState.recordOf placeMember) ∧
    saving.save + (0x40000 + 0x7000 * recHarts (savingState.recordOf placeMember)) + 4096 ≤ 2 ^ 42 := by decide +kernel
theorem witness_GangSave_sealed (a : Nat) : savingState.sealedAt a = false := by
  have h : ∀ d, (savingState.die d).sealt = 0 := fun d => rfl
  simp [State.sealedAt, h]

/-- Three harts with all lanes of the one cell in use: two of the hart's crew, which came at 10, and one of another member's that came at
20 with the same priority. -/
def crowd : List Core :=
  [{ hart with grant := 6 }, { hart with id := .hart 0 0 1, crew := some (⟨placeMember, 0⟩, 1), grant := 6 },
    { hart with id := .hart 0 0 2, crew := some (⟨⟨1, 0, 0⟩, 0⟩, 0), grant := 4 }]
def crowded : State :=
  { pressed with
    cores := crowd
    members := [memberIn .resident { placeCrew with movedAt := 10 },
      ⟨⟨1, 0, 0⟩, .resident, [{ placeCrew with ref := ⟨⟨1, 0, 0⟩, 0⟩, cells := [(0, 1)], movedAt := 20 }], 0, false, [], 0, [], [], 0, false⟩,
      ⟨⟨3, 0, 0⟩, .reserving, [], 0, false, [], 0, [], [], 0, false⟩]
    batches := pressed.batches ++ [⟨1, 0, [0x100000000, 0, 0x0004010000010001, 1], [], none, [], 1, 0, 0, 0, 0, false⟩] }
theorem witness_Victims : let m : MemberId := ⟨3, 0, 0⟩
    ((crowded.underWay m).placement m = none ∧ crowded.lockageFor m = none ∧
      ((crowded.underWay m).lanesGiven m).placement m = some [⟨0, [(0, 2, [3])]⟩]) ∧
    (∀ c ∈ crowd, c.isSteward = false ∧ c.id.cell = cellKey 0 0 ∧ 1 < (c.target.getD c.grant).toNat ∧ ∃ r, c.crewRef? = some r ∧ crowded.crewPri r < crowded.queuePri 3) ∧
    crowded.cores.Nodup ∧ crowd.reverse.Pairwise (Rules.givesBefore crowded) := by
  refine ⟨by decide +kernel, ?_, by decide +kernel, ?_⟩
  · have H : ∀ c ∈ crowd, c.isSteward = false ∧ c.id.cell = cellKey 0 0 ∧ 1 < (c.target.getD c.grant).toNat ∧
        (c.crewRef?.any fun r => decide (crowded.crewPri r < crowded.queuePri 3)) = true := by decide +kernel
    intro c h
    obtain ⟨a, b, d, e⟩ := H c h
    cases hr : c.crewRef? with
    | none => rw [hr] at e; cases e
    | some r => rw [hr] at e; exact ⟨a, b, d, r, rfl, of_decide_eq_true e⟩
  · refine List.pairwise_cons.2 ⟨fun b h => ?_, List.pairwise_cons.2 ⟨fun b h => ?_, List.pairwise_singleton ..⟩⟩
    · refine ⟨⟨⟨1, 0, 0⟩, 0⟩, 0, ⟨placeMember, 0⟩, ?_⟩
      simp only [List.mem_cons, List.not_mem_nil, or_false] at h
      rcases h with rfl | rfl
      · exact ⟨1, rfl, rfl, by decide +kernel⟩
      · exact ⟨0, rfl, rfl, by decide +kernel⟩
    · simp only [List.mem_cons, List.not_mem_nil, or_false] at h
      subst h
      exact ⟨⟨placeMember, 0⟩, 1, ⟨placeMember, 0⟩, 0, rfl, rfl, by decide +kernel⟩

/-- A train of two crews of two cells and two harts each, with save areas 2^20 apart, all harts stopped; a hold byte of each cell. -/
def gangHart (d p r k : Nat) : Core :=
  { hart with id := .hart d p 0, crew := some (⟨placeMember, r⟩, k), stopAsked := true, stopped := true, pc := BitVec.ofNat 64 (0x100 + d) }
def gangCrew (r : Nat) : Crew := { placeCrew with ref := ⟨placeMember, r⟩, die := r, cells := [(0, 0), (1, 1)], save := 0x40000000 + 0x100000 * r }
def gang : State :=
  { memberState .stopping saving hart with
    cores := [gangHart 0 0 0 0, gangHart 0 1 0 1, gangHart 1 0 1 0, gangHart 1 1 1 1]
    members := [{ memberIn .stopping saving with crews := [gangCrew 0, gangCrew 1] }]
    batches := [{ batchOf 1 with dw := [0x100000000, 0, 0x0004010201020002, 1, 0, 0, 0, 0, 0, 0, 0x100000000000] }]
    hold := memWrites (cellKey 1 1 * 2 ^ 19 + 0x10000) [7] (memWrites 5 [9] []) }
theorem witness_Gang_sealed (a : Nat) : gang.sealedAt a = false := by
  have h : ∀ d, (gang.die d).sealt = 0 := fun d => rfl
  simp [State.sealedAt, h]
theorem witness_Gang : let x := { memberIn .stopping saving with crews := [gangCrew 0, gangCrew 1] }
    let area := 0x40000 + 0x7000 * recHarts (gang.recordOf x.id)
    let size := area + recDiscard (gang.recordOf x.id) * recCells (gang.recordOf x.id);
    (gang.member? x.id = some x ∧ x.state = .stopping ∧ (∀ w ∈ x.crews, w.ref.mem = x.id) ∧ (x.crews.map Crew.ref).Nodup ∧ x.moves = [] ∧
      (∀ y ∈ gang.cells, y.2.queue = []) ∧ gang.outbound = [] ∧ gang.areaHeld x = false ∧ gang.Canonical) ∧
    (∀ w ∈ x.crews, w.cells.length = recCells (gang.recordOf x.id) ∧ w.save + size ≤ 2 ^ 42 ∧
      ∀ v ∈ x.crews, v.ref ≠ w.ref → w.save + size ≤ v.save ∨ v.save + size ≤ w.save) ∧
    ∀ w ∈ x.crews, (∀ c ∈ gang.hartsOf w.ref, c.stopped = true ∧ (gang.die c.id.die).nonHome = [] ∧ c.crew = some (w.ref, c.hartRank) ∧
      c.hartRank < 256 ∧ c.hartRank < recHarts (gang.recordOf x.id)) ∧ ((gang.hartsOf w.ref).map Core.hartRank).Nodup ∧ gang.hartsOf w.ref ≠ [] := by
  decide +kernel

/-- Applied part data in which dies 1 and 9 are logical dies. -/
def mapped : PartData := { State.reset.part with ldie := [(1, 1), (9, 9)] }

/-- The crew saved, and a state in which it fits on die 1. -/
def savedCrew : Crew := { saving with resident := false, stops := [⟨0, 4, 4, none, 0, 0, .wfe, none, 0, 0, 0, 0, false, false, ⟨none, none, false⟩, []⟩] }
def savedState : State := { memberState .saved savedCrew hart with
  cores := []
  part := mapped
  homeCache := [(0x40040020, 3), (0x400400FC, 1)] }
def resumePlace : CrewPlace := ⟨1, [(2, 3, [1])]⟩
theorem witness_Resume : savedState.member? placeMember = some (memberIn .saved savedCrew) ∧ savedState.boot.overheated = false ∧ savedState.switchHeld (memberIn .saved savedCrew) = false ∧
    savedState.resumeFits (memberIn .saved savedCrew) savedCrew resumePlace = true ∧ savedState.areaHeld (memberIn .saved savedCrew) = false ∧
    savedCrew.ref = ⟨placeMember, 0⟩ ∧ savedCrew.save + 2 ^ 24 ≤ 2 ^ 42 ∧
    (memberIn .saved savedCrew).energyHeld = false ∧ savedState.crewClaims savedCrew.ref = [] ∧
    (let n := recDiscard (savedState.recordOf placeMember);
      n ≤ recBlocks (savedState.recordOf placeMember) * 2 ^ 16 ∧
        savedCrew.save + 0x40000 + 0x7000 * recHarts (savedState.recordOf placeMember) + n * recCells (savedState.recordOf placeMember) ≤ 2 ^ 42) ∧
    (∀ h ∈ savedCrew.stops, h.rank < 256) ∧ savedState.hartsOf savedCrew.ref = [] ∧ 1 ≤ recCells (savedState.recordOf placeMember) := by
  decide +kernel
theorem witness_Resume_parked : let w := { savedCrew with stops := savedCrew.stops.map fun h => { h with parked := some ⟨{ cause := .page, addr := 5 }, true, 0x100000000, 0x100000004, 3, false⟩ } };
    ({ savedState with members := [memberIn .saved w] } : State).resumeFits (memberIn .saved w) w resumePlace = true ∧ (∃ h ∈ w.stops, h.parked.isSome = true) ∧
      resumePlace.die ≠ w.die := by decide +kernel
theorem witness_Resume_copies (d : Nat) : (savedState.die d).nonHome = [] := rfl

/-- Queue 3 of two slots, enabled, with a record of two members in slot 1. -/
def slots (reserve head : Nat) : State :=
  { State.reset with
    boot := { State.reset.boot with stage := 9 }
    queues := [(3, ⟨0xC001000000000000, 0, 0, 0⟩)]
    time := 77
    homeCache := memWrites 0x100 (recordWords.flatMap natBytes8) ([(0, reserve), (8, reserve), (16, head)].filterMap fun p =>
      if p.2 = 0 then none else some (p.1, BitVec.ofNat 8 p.2)) }
  where natBytes8 (n : Nat) : List Byte := natBytes 8 n
theorem witness_SlotRead : let s := slots 3 1
    s.boot.stage = 9 ∧ s.controlBlock 3 = 0 ∧ s.heldAt 0 = false ∧ s.heldAt 0x100 = false ∧ s.sealedAt 0x20 = false ∧
    (quadAt 3 s.queues).d0.getLsbD 63 = true ∧ (s.readWord 0x20).getLsbD 63 = false ∧ s.batches = [] ∧ s.binds = [] ∧
    0 < (s.readWord 0 - s.readWord 0x10).toNat ∧ (s.readWord 0 - s.readWord 0x10).toNat ≤ 2 ^ bits (quadAt 3 s.queues).d0 51 48 ∧
    2 ^ bits (quadAt 3 s.queues).d0 51 48 < ((slots 4 1).readWord 0 - (slots 4 1).readWord 0x10).toNat ∧
    let r := (List.range 16).map fun j => s.readWord (0x80 + 128 * (1 % 2) + 8 * j)
    badRecord r true = false ∧ recTrain r = false ∧ 1 ≤ recCount r := by decide +kernel
theorem witness_QueueEnable : (0x8000000000000000 : Word).getLsbD 63 = true ∧ (quadAt 5 State.reset.queues).d0.getLsbD 63 = false := by decide

/-- A record of one member, and a die with a pool of save areas. -/
def admitting : State :=
  { State.reset with
    boot := { State.reset.boot with stage := 9 }
    part := mapped
    batches := [⟨0, 0, [0x100000000, 0, 0x0004010000010001, 1], [], none, [], 0, 0, 0, 0, 0, false⟩]
    queues := [(0, ⟨0x8000000000000000, 0, 0, 0⟩)]
    dies := [(9, { Die.reset with spbase := 0x10000, spsize := 0x1000000 })] }
theorem witness_Admission : admitting.boot.overheated = false ∧ (∀ q, q < 64 → admitting.checkOverflow q = admitting) ∧ admitting.members = [] ∧ admitting.nextCandidate [] = some placeMember ∧
    admitting.placement placeMember = some [⟨9, [(0, 0, [0])]⟩] ∧
    ((admitting.place placeMember [⟨9, [(0, 0, [0])]⟩]).advance 0).nextCandidate [] = none := by decide +kernel
theorem witness_Placing : let s := memberState .placing placeCrew { hart with stopped := true }
    s.member? placeMember = some (memberIn .placing placeCrew) ∧ s.crewClaims placeCrew.ref = [] ∧ recImage (s.recordOf placeMember) = 0 ∧
    (∀ c ∈ s.cores, (s.die c.id.die).nonHome = []) ∧
    (memberIn .placing placeCrew).energyHeld = false ∧ (∀ y ∈ placeCrew.cells, (s.die placeCrew.die).retire.getLsbD y.1 = false) ∧ ∀ y ∈ placeCrew.cells, y.2 + recBlocks (s.recordOf placeMember) ≤ 8 := by decide +kernel
theorem witness_MemberComplete : let s := { memberState .resident placeCrew hart with cores := [] }
    s.member? placeMember = some (memberIn .resident placeCrew) ∧ s.crewDone placeCrew = true ∧ (s.die 0).nonHome = [] ∧
    s.heldAt (s.controlBlock 0) = false ∧ (batchOf 3).ok + (batchOf 3).killed + 1 < recCount (batchOf 3).dw ∧ (batchOf 3).finished = false := by decide +kernel


/-! What the statements on the steward's registers assume. -/

/-- A table at 0x8000 whose entry 0 points to itself, and leaf entries: a huge page of stack 0 at index 1 of level 2, a base page at
index 2 of level 3. -/
def tables : State :=
  { State.reset with
    dies := [(0, { Die.reset with ptroot := 0x8000 })]
    homeCache := [(0x8000, 0x01), (0x8001, 0x80), (0x8008, 0x37), (0x800B, 0x10), (0x8010, 0x37), (0x8012, 0x10)] }
theorem witness_Walk : tlbFind 0x10000000 (tables.cell (cellKey 0 3)).tlb = none ∧ tlbFind 0x10000000 (tables.die 0).tlb = none ∧
    (tables.die 0).residents 0x10000000 = [] ∧ Rules.walksTo tables 0 0x10000000 true 0x10000037 ∧ Rules.walksTo tables 0 0x20000 false 0x100037 := by
  unfold Rules.walksTo Rules.tablePointer; decide +kernel
theorem witness_Walk_homes (d a : Nat) : tables.homeWait d a = none := rfl

/-- A shoot-down in progress on die 0, of the page of one entry. -/
def shooting : State := { panelOf stew with
  dies := [(0, { Die.reset with tlbBusy := true, tlbFrom := 0x100000000, tlbCount := 1, tlb := [⟨false, 0x10000, 0x107F⟩, ⟨false, 0x10001, 0x107F⟩] })] }
theorem witness_Shootdown : (shooting.die 0).tlbBusy = true ∧ shooting.core? (.steward 0) = some stew ∧
    (∀ k ∈ shooting.cores, ∀ e ∈ k.strip.buf, e.leaf = none) ∧ shooting.outbound = [] ∧ (State.reset.die 0).tlbBusy = false := by decide +kernel

/-- A side-log entry of the hart, whose page a cacheable entry of the TLB now maps to strong memory of stack 0. -/
def logged : LogEntry := ⟨hart.id, some (⟨placeMember, 0⟩, 0), 0x100000010, 0x100000000, [(7, 0xF0), (8, 0xFF)], none, 0, 1, false, false, false⟩
def replaying : State := { panelOf hart with cells := [(cellKey 0 0, { Cell.reset with log := [logged], tlb := [⟨false, 0x10000, 0x100037⟩] })] }
theorem witness_Replay : (match replaying.replayPlace logged with
      | some (u, .ok q) => decide (q.loc = 0x100010 ∧ q.strong = true) && decide (q.replicated = false ∧ isRemote q.loc = false) &&
          decide (u.accessWait logged.core.die q (!u.hartThere logged) = none)
      | _ => false) = true := by decide +kernel
theorem witness_Replay_logs : replaying.Canonical ∧ (replaying.cell (cellKey 0 0)).log = [logged] ∧ logged.va.toNat < 2 ^ 52 ∧
    0x100010 + logged.data.length ≤ 2 ^ 42 ∧ (∀ k, k ≠ cellKey 0 0 → (replaying.cell k).log = []) ∧
    ∀ m ∈ replaying.members, ∀ k ∈ m.crews, k.log = [] := by
  refine ⟨by decide +kernel, by decide +kernel, by decide +kernel, by decide +kernel, ?_, by decide +kernel⟩
  intro k h
  unfold State.cell; rw [show replaying.cells = [(cellKey 0 0, _)] from rfl, tblGet, tblGet?_cons, if_neg (Ne.symm h)]; rfl

/-- The steward of die 0, and a parked hart of cell 0 with a user handler. -/
def parkedAt : Parked := ⟨{ cause := .page, addr := 0x123456789 }, true, 0x100000000, 0x100000004, 0, false⟩
def parkedHart : Core := { handled with parked := some parkedAt }
def parkedState : State := { panelOf stew with cores := [stew, parkedHart] }
theorem witness_Parked : parkedState.core? (.steward 0) = some stew ∧
    parkedHart.id = .hart 0 (stew.st.hsel.toNat / 4) (stew.st.hsel.toNat % 4) ∧ parkedState.core? parkedHart.id = some parkedHart ∧
    parkedState.recordWaits parkedHart = false ∧ parkedHart.cause.active = false ∧ parkedHart.tvec &&& ~~~3 ≠ 0 ∧ parkedHart.crewRef? = some ⟨placeMember, 0⟩ ∧
    (∃ k ∈ [placeCrew], k.ref = ⟨placeMember, 0⟩) ∧
    parkedState.member? placeMember = some ⟨placeMember, .resident, [placeCrew], 0, false, [], 0, [], [], 0, false⟩ := by decide +kernel
/-- A full fault ring with one record waiting. -/
def ringFull : State := { panelOf stew with dies := [(0, { Die.reset with fqbase := 0x4000, fqhead := 256, faultWait := [[1, 2, 3, 4, 5, 6, 7, 8]] })] }
theorem witness_Fqtail : (ringFull.die 0).faultWait = [[1, 2, 3, 4, 5, 6, 7, 8]] ∧ ((ringFull.die 0).fqhead - BitVec.ofNat 32 (1 : Word).toNat).toNat < 256 ∧
    ringFull.Canonical ∧ ringFull.homeWait 0 (Rules.ringSlot ringFull 0) = none ∧ ringFull.sealedAt (Rules.ringSlot ringFull 0) = false ∧
    ((State.reset.die 0).faultWait = []) := by decide +kernel
theorem witness_RegWrite : (0xA0048, 0xFFFFFFFFFFFFFFFF) ∈ Rules.controlFields ∧ (0x00, 0x0000FFFFFFFF8000) ∈ Rules.controlFields ∧
    (0x70000 ≤ 0x71FF8 ∧ 0x71FF8 < 0x72000 ∧ 0x71FF8 % 8 = 0) ∧ (0x71FF8 - 0x70000) / 32 = 255 ∧ 0x71FF8 % 32 / 8 = 3 := by
  unfold Rules.controlFields; simp
/-- A read of region 5 that waits at the I/O die. -/
def heldRequest : State := { panelOf stew with
  regions := [(5, ⟨0xF000000000000700, 0x10000, 0x20000, 0x10000⟩)]
  qps := [(9, ⟨.established, false, 7, 7, 1024, 5000, 100, none, [⟨⟨0, 9, 0x705, 0x10000, false⟩, .read 8⟩]⟩)] }
theorem witness_RegWrite_held : (∃ y ∈ heldRequest.qps, ∃ x ∈ y.2.held, x.head.rkey.toNat % 256 = 5) ∧ (quadAt 5 heldRequest.regions).d0.getLsbD 63 = true ∧
    ¬ (0x7000000000000700 : Word).getLsbD 63 = true ∧ (∀ y ∈ heldRequest.qps, ∀ x ∈ y.2.held, x.head.rkey.toNat % 256 ≠ 6) := by decide +kernel



/-! What the statements on firmware, heat and errors assume. -/

/-- Doublewords at places of the management page. -/
def pageWords (ps : List (Nat × Nat)) : Tbl Byte := ps.flatMap fun p => (natBytes 8 p.2).zipIdx.map fun e => (p.1 + e.2, e.1)
def paged (ps : List (Nat × Nat)) (m : Member) : State :=
  { panelOf hart with
    boot := { State.reset.boot with stage := 9 }
    members := [m]
    budget := 18000
    homeCache := (pageWords ps).map fun e => (mgmtPage + e.1, e.2) }
theorem tbl_shift (p k : Nat) (t : Tbl Byte) : tblGet? (p + k) (t.map fun e => (p + e.1, e.2)) = tblGet? k t := by
  induction t with
  | nil => rfl
  | cons e t ih =>
    rw [List.map_cons, tblGet?_cons, ih]
    obtain ⟨a, b⟩ := e
    rw [tblGet?_cons]; simp
theorem page_bound : mgmtPage ≤ 4398046445568 := by unfold mgmtPage; omega
theorem memRead_nil (a : Nat) : memRead [] a = 0 := rfl
theorem paged_byte (ps : List (Nat × Nat)) (m : Member) (k : Nat) (h : k < 2 ^ 15) :
    (paged ps m).locByte (mgmtPage + k) = (tblGet? k (pageWords ps)).getD 0 := by
  have hp := page_bound
  have h1 : isHold (mgmtPage + k) = false := decide_eq_false (by omega)
  have h2 : isMailbox (mgmtPage + k) = false := by
    unfold isMailbox; rw [decide_eq_false (show ¬ (mgmtPage + k) / 2 ^ 42 % 2 = 1 by omega), Bool.and_false]
  unfold State.locByte State.homeByte
  rw [h1, h2]
  have e : tblGet? (mgmtPage + k) (paged ps m).homeCache = tblGet? k (pageWords ps) := tbl_shift _ _ _
  rw [e]
  cases tblGet? k (pageWords ps) with
  | some b => rfl
  | none => exact memRead_nil ((paged ps m).dramKey (mgmtPage + k))
theorem paged_word (ps : List (Nat × Nat)) (m : Member) (off : Nat) (h : off < 2 ^ 14) :
    (paged ps m).readWord (mgmtPage + off) = bytesWord ((List.range 8).map fun i => (tblGet? (off + i) (pageWords ps)).getD 0) := by
  refine congrArg bytesWord (List.map_congr_left fun i hi => ?_)
  have hi := List.mem_range.1 hi
  rw [Nat.add_assoc, paged_byte _ _ _ (by omega)]

theorem paged_free (ps : List (Nat × Nat)) (m : Member) : (paged ps m).heldAt mgmtPage = false ∧ (paged ps m).sealedAt mgmtPage = false := by
  have h (k : Nat) : (paged ps m).stack k = Stack.reset := rfl
  have d (k : Nat) : (paged ps m).die k = Die.reset := rfl
  constructor
  · simp only [State.heldAt, State.homeWait, h]; rfl
  · unfold State.sealedAt; rw [d, show Die.reset.sealt = 0#16384 from rfl, BitVec.getLsbD_zero, Bool.and_false]

/-- A member held by its energy ceiling, with 4 µJ used. -/
def heldMember : Member := { memberIn .resident { placeCrew with energy := 4999 } with energyHeld := true, ceiling := 3 }
theorem witness_Firmware (m : Member) : (paged [(0, 1200)] m).boot.stage = 9 ∧ ((paged [(0, 1200)] m).readWord (mgmtPage + 0)).toNat % 2 ^ 32 = 1200 ∧
    1200 ≠ (paged [(0, 1200)] m).budget ∧ ((paged [(0, 1200)] m).readWord (mgmtPage + 8)).getLsbD 63 = false ∧
    (paged [(8, 2 ^ 63 + 5)] m).idSet = false ∧ ((paged [(8, 2 ^ 63 + 5)] m).readWord (mgmtPage + 8)).getLsbD 63 = true ∧
    (paged [(8, 2 ^ 63 + 5)] m).wantedBudget = (paged [(8, 2 ^ 63 + 5)] m).budget := by
  refine ⟨rfl, ?_, by show 1200 ≠ 18000; decide, ?_, rfl, ?_, ?_⟩
  · rw [paged_word _ _ _ (by decide)]; decide +kernel
  · rw [paged_word _ _ _ (by decide)]; decide +kernel
  · rw [paged_word _ _ _ (by decide)]; decide +kernel
  · unfold State.wantedBudget State.page; rw [paged_word _ _ _ (by decide)]
    have e : bits (bytesWord ((List.range 8).map fun i => (tblGet? (0 + i) (pageWords [(8, 2 ^ 63 + 5)])).getD 0)) 31 0 = 0 := by decide +kernel
    rw [e]; rfl
theorem witness_Ceiling : let s := paged [(0x18, 5), (0x20, 1)] heldMember
    s.readWord (mgmtPage + 0x28) ≠ s.readWord (mgmtPage + 0x20) ∧ s.members = [heldMember] ∧ memberWord heldMember.id = s.readWord (mgmtPage + 0x10) ∧
    (heldMember.crews.map Crew.energy).foldr (· + ·) 0 / 1000 < (s.readWord (mgmtPage + 0x18)).toNat := by
  refine ⟨?_, rfl, ?_, ?_⟩
  · rw [paged_word _ _ _ (by decide), paged_word _ _ _ (by decide)]; decide +kernel
  · rw [paged_word _ _ _ (by decide)]; decide +kernel
  · rw [paged_word _ _ _ (by decide)]; decide +kernel
theorem witness_Firmware_default (m : Member) : (18000 = if ((paged [] m).readWord (mgmtPage + 0)).toNat % 2 ^ 32 = 0 then 18000 else
      ((paged [] m).readWord (mgmtPage + 0)).toNat % 2 ^ 32) ∧ 18000 = (paged [] m).budget ∧
    (paged [] m).readWord (mgmtPage + 0x28) = (paged [] m).readWord (mgmtPage + 0x20) ∧
    (paged [] m).readWord (mgmtPage + 0x70) = (paged [] m).readWord (mgmtPage + 0x68) := by
  refine ⟨?_, rfl, ?_, ?_⟩ <;> rw [paged_word _ _ _ (by decide)] <;> (try rw [paged_word _ _ _ (by decide)]) <;> decide +kernel
theorem witness_Ceiling_kill : let s := paged [(0x18, 4), (0x20, 1)] heldMember
    s.readWord (mgmtPage + 0x28) ≠ s.readWord (mgmtPage + 0x20) ∧ memberWord heldMember.id = s.readWord (mgmtPage + 0x10) ∧
    (s.readWord (mgmtPage + 0x18)).toNat ≤ (heldMember.crews.map Crew.energy).foldr (· + ·) 0 / 1000 ∧
    heldMember.energyHeld = true ∧ heldMember.state ≠ .done ∧ heldMember.state ≠ .killed := by
  refine ⟨?_, ?_, ?_, rfl, by decide, by decide⟩
  · rw [paged_word _ _ _ (by decide), paged_word _ _ _ (by decide)]; decide +kernel
  · rw [paged_word _ _ _ (by decide)]; decide +kernel
  · rw [paged_word _ _ _ (by decide)]; decide +kernel
theorem witness_Ceiling_other : let s := paged [(0x20, 1)] (memberIn .resident placeCrew)
    s.readWord (mgmtPage + 0x28) ≠ s.readWord (mgmtPage + 0x20) ∧
    ∀ m ∈ s.members, m.energyHeld = true → memberWord m.id ≠ s.readWord (mgmtPage + 0x10) := by
  refine ⟨?_, ?_⟩
  · rw [paged_word _ _ _ (by decide), paged_word _ _ _ (by decide)]; decide +kernel
  · intro m hm he
    rcases List.mem_cons.1 hm with rfl | hm
    · cases he
    · cases hm
/-- Configuration requests for a region of die 127, read and written, and a write of SPBASE that the panel refuses. -/
theorem witness_Config_region (m : Member) :
    (∀ a : Nat, a = 2 ^ 31 + 127 * 2 ^ 24 + 0x100000 + 32 * 255 ∨ a = 127 * 2 ^ 24 + 0x100000 + 32 * 255 ∨ a = 127 * 2 ^ 24 + 0x48 →
      let s := paged [(0x40, a), (0x48, 0x7000000000000700), (0x68, 1)] m
      s.readWord (mgmtPage + 0x70) ≠ s.readWord (mgmtPage + 0x68) ∧ (s.readWord (mgmtPage + 0x40)).toNat = a ∧
      (s.readWord (mgmtPage + 0x48)).getLsbD 63 = false ∧ (s.readWord (mgmtPage + 0x48)).toNat % 2 ^ 16 ≠ 0 ∧
      ∀ j, j < 4 → regionMask j (s.readWord (mgmtPage + (0x48 + 8 * j))) = s.readWord (mgmtPage + (0x48 + 8 * j))) ∧
    ∀ y ∈ (paged [] m).qps, ∀ x ∈ y.2.held, x.head.rkey.toNat % 256 ≠ 255 := by
  refine ⟨?_, by intro y hy; cases hy⟩
  rintro a (rfl | rfl | rfl) <;> refine ⟨?_, ?_, ?_, ?_, ?_⟩
  all_goals first
    | (rw [paged_word _ _ _ (by decide), paged_word _ _ _ (by decide)]; decide +kernel)
    | (rw [paged_word _ _ _ (by decide)]; decide +kernel)
    | (intro j hj
       rw [paged_word _ _ _ (by omega)]
       revert j; decide +kernel)
/-- A configuration request for SPBASE of die 127: read, then write above the save area of the member; and one for no register. -/
theorem witness_Config (m : Member) :
    (∀ a : Nat, a = 2 ^ 31 + 127 * 2 ^ 24 + 0x48 ∨ a = 127 * 2 ^ 24 + 0x48 ∨ a = 127 * 2 ^ 24 →
      let s := paged [(0x40, a), (0x48, 0x7FFFFFFF0000), (0x68, 1)] m
      s.readWord (mgmtPage + 0x70) ≠ s.readWord (mgmtPage + 0x68) ∧ (s.readWord (mgmtPage + 0x40)).toNat = a ∧
      (s.readWord (mgmtPage + 0x48)).toNat % 2 ^ 16 = 0 ∧ (s.readWord (mgmtPage + 0x48)).toNat < 2 ^ 48) ∧
    let s := { paged [] heldMember with dies := [(127, { Die.reset with spbase := 0x10000 })] }
    s.saves ≠ [] ∧ ∀ y ∈ s.saves, y.1 < (s.die 127).spbase.toNat := by
  refine ⟨?_, by decide +kernel⟩
  rintro a (rfl | rfl | rfl) <;>
    refine ⟨?_, ?_, ?_, ?_⟩ <;> (try rw [paged_word _ _ _ (by decide), paged_word _ _ _ (by decide)]) <;>
    (try rw [paged_word _ _ _ (by decide)]) <;> decide +kernel
theorem witness_EnergyCharge : let m := memberIn .resident placeCrew
    [m] = [m] ∧ m.crews = [placeCrew] ∧ placeCrew.resident = true ∧ placeCrew.cells ≠ [] ∧ m.ceiling = 0 := by decide
theorem witness_EnergyCharge_past : let k := { placeCrew with energy := 4999 }
    let m := { memberIn .resident k with ceiling := 3 }
    m.ceiling ≠ 0 ∧ m.ceiling.toNat < (k.energy + 0) / 1000 ∧ m.energyHeld = false ∧ m.state = .resident ∧ k.ref.mem = m.id ∧
    (panelOf hart).core? hart.id = some hart ∧ hart.crew = some (k.ref, 0) := by decide +kernel
theorem witness_Enrg_ceiling : let m := { memberIn .resident { placeCrew with energy := 5000 } with ceiling := 3 }
    let s : State := { panelOf hart with members := [m] }
    s.Calm hart ∧ hart.crew = some (⟨placeMember, 0⟩, 0) ∧ ∃ x, (s.postShare hart).member? placeMember = some x ∧
      x.pastCeiling = true ∧ x.energyHeld = false ∧ x.state = .resident ∧ ∃ y ∈ x.crews, y.ref = ⟨placeMember, 0⟩ := by
  refine ⟨⟨⟨rfl, rfl, rfl, rfl, rfl⟩, rfl, rfl⟩, rfl, _, rfl, ?_, rfl, rfl, _, .head _, rfl⟩
  have h : ∀ u : Nat, 3 < (0 + (5000 + u)) / 1000 := by omega
  exact (Bool.and_eq_true _ _).mpr ⟨by decide, decide_eq_true (h _)⟩
theorem witness_Enrg : ∀ m ∈ ((panelOf hart).postShare hart).members, m.pastCeiling = true → m.energyHeld = true := by
  intro m hm h; cases hm with
  | head => exact absurd h (by simp [Member.pastCeiling])
  | tail _ h => cases h

/-- 256 sites at one temperature, and die 0 with a power or a budget. -/
def atTemp (x : Int) : List Int := List.replicate 256 x
def dieWith (d : Die) : State := { State.reset with dies := [(0, d)], budget := 18000, boot := { State.reset.boot with stage := 9 } }
theorem witness_Drain : (dieWith { Die.reset with dpower := 9, dbudget := 8 }).die 0 = { Die.reset with dpower := 9, dbudget := 8 } ∧ (8 : BitVec 32) < 9 ∧
    10 * (9 : BitVec 32).toNat ≤ 9 * (10 : BitVec 32).toNat ∧ 1 ≤ Die.reset.drain.toNat ∧ Die.reset.drain.toNat ≤ 65536 ∧ Die.reset.coolDrain = none :=
  ⟨rfl, by decide, by decide, by decide, by decide, rfl⟩
theorem witness_mild : ∀ x ∈ [(1680 : Int), 1440, 1599, -81, 0, 1361], Rules.mild (atTemp x) := by unfold Rules.mild; decide +kernel
theorem witness_Thermal : (atTemp 1680).length = 256 ∧ Rules.hotter (dieWith Die.reset) (atTemp 1680) 0 (16 * Die.reset.thot.toNat) ∧
    Rules.hotter (dieWith Die.reset) (atTemp 1680) 0 1680 ∧ Die.reset.coolDrain = none ∧
    Rules.cooler (dieWith Die.reset) (atTemp 1440) 0 (16 * Die.reset.thot.toNat - 80) ∧ (∀ t ∈ atTemp 1599, t < 1600) ∧
    (atTemp (-81)).getD (16 * (dieSite 0).1 + (dieSite 0).2) 0 < -80 ∧ (∀ t ∈ atTemp 0, 0 ≤ t) ∧
    Rules.hotter (dieWith Die.reset) (atTemp 1361) 0 1361 ∧ Rules.cooler (dieWith Die.reset) (atTemp 1361) 0 1361 := by
  unfold Rules.hotter Rules.cooler; decide +kernel
theorem witness_ThermalBudget : let full := (75000 + 55000 * ((stacksOf 0).filter fun k => decide ((dieWith Die.reset).owner k = 0)).length) * (18000 - 600) / 16640
    (dieWith Die.reset).members = [] ∧ 3 * full / 10 ≤ Die.reset.dbudget.toNat ∧ ({ Die.reset with dbudget := 1 }).dbudget.toNat < full := by decide +kernel

/-- A crew that claims stack 0 and may migrate, on the hot one of the stack's dies for 50 ms. -/
def hotCrew : State :=
  { memberState .resident placeCrew hart with
    part := { State.reset.part with ldie := [(0, 0), (1, 1)] }
    time := 50000000
    batches := [⟨0, 0, [0x100000000, 0, 0x0004010000010001, 2, 0x1000001], [], none, [], 1, 0, 0, 0, 0, false⟩] }
def oneHot : List Int := (List.range 256).map fun i => if i = 16 * (dieSite 0).1 + (dieSite 0).2 then 1600 else 0
theorem witness_HeatMove : hotCrew.members = [memberIn .resident placeCrew] ∧
    hotCrew.movable oneHot (memberIn .resident placeCrew) placeCrew = some (otherCandidate 0 0) := by decide +kernel
theorem witness_Retrain : let s := { State.reset with temps := atTemp 160 }
    let t := { s with stackTbl := [(5, { Stack.reset with retrain := [63] })] }
    (s.stack 5).retrain = [] ∧ (t.stack 5).retrain = [63] ∧ (63 : Nat) < 64 ∧
    160 ≤ s.temps.getD (16 * (stackSite 5).1 + (stackSite 5).2) 0 - s.groupTrained 5 63 ∧
    (3 : Nat) < 4 ∧ (7 : Nat) < 8 ∧ (s.die 0).modules.count (3, 7) < 4 ∧
    160 ≤ s.temps.getD (16 * (dieSite 0).1 + (dieSite 0).2) 0 - s.moduleTrained 0 3 7 := by decide +kernel
theorem witness_Ecc : let e : EccError := { die := 0, dram := true, corrected := false, addr := 5, consumer := some hart.id, cell := none, bank := none }
    e.corrected = false ∧ e.cell = none ∧ e.consumer = some hart.id ∧ (panelOf hart).core? hart.id = some hart := by decide +kernel

/-- The steward of die 1 beside the hart of die 0, whose crew is there. -/
def twoDies : State := { panelOf hart with cores := [hart, Core.start (.steward 1) none .machine 0x8000 0 0] }
theorem witness_DieDead : (twoDies.die 0).dead = false ∧ twoDies.owner 0 = 0 ∧ twoDies.member? placeMember = some (memberIn .resident placeCrew) ∧
    (∃ k ∈ (memberIn .resident placeCrew).crews, k.resident = true ∧ k.die = 0) ∧
    (∃ c ∈ twoDies.cores, c.id ≠ .steward 0 ∧ ∀ k ∈ twoDies.cores, k.id = c.id → ∀ m ∈ twoDies.members, ∀ w ∈ m.crews, k.crewRef? = some w.ref →
      ∀ v ∈ m.crews, v.resident = false ∨ v.die ≠ 0) := by decide +kernel
/-- A die that holds a non-home copy of a line of a stack it is about to take over, and of one it does not. -/
theorem witness_DieDead_copies : let x : NonHome := ⟨2 ^ 29, 7, 1, [hart.id], false⟩; let e := otherCandidate 0 (stackOf (64 * 2 ^ 29))
    twoDies.owner (stackOf (64 * 2 ^ 29)) ≠ 0 ∧ twoDies.owner (stackOf (64 * 0)) = 0 ∧ otherCandidate 0 (stackOf (64 * 0)) = 1 ∧ e ≠ 0 ∧
    ∃ s : State, (s.die 1).nonHome = [{ x with line := 0 }, x] ∧ (s.die 0).dead = false := by
  refine ⟨by decide, by decide, by decide, by decide, ?_⟩
  exact ⟨{ twoDies with dies := [(1, { Die.reset with nonHome := [⟨0, 7, 1, [hart.id], false⟩, ⟨2 ^ 29, 7, 1, [hart.id], false⟩] })] }, rfl, rfl⟩


/-! What the statements on links and bring-up assume. -/

/-- Region 5 with every right over 64 KiB at 0x20000, queue pair 9 connected through it, and what is on its way. -/
def linked (q : Qp) (o : List Outbound) : State :=
  { panelOf hart with
    regions := [(5, ⟨0xF000000000000700, 0x10000, 0x20000, 0x10000⟩)]
    qps := [(9, q)]
    windows := [(1, ⟨0x8000000000000009, 0, 0, 0⟩)]
    time := 60000
    boot := { State.reset.boot with stage := 9 }
    paused := [(3, 1)]
    outbound := o }
def live : Qp := ⟨.established, false, 7, 7, 1024, 5000, 100, none, []⟩
def head (va : Word) : RdmaHead := ⟨0, 9, 0x705, va, false⟩
theorem witness_Rdma : Rules.granted (linked live []) (head 0x1FFFE) 61 [(7 : Byte), 8].length 0x2FFFE ∧
    Rules.unsealed (linked live []) 0x2FFFE ∧ Rules.granted (linked live []) (head 0x10000) 62 8 0x20000 ∧
    Rules.granted (linked live []) (head 0x1FFF8) 60 8 0x2FFF8 ∧ Rules.unsealed (linked live []) 0x2FFF8 ∧ (head 0x1FFF8).va.toNat % 8 = 0 ∧
    Rules.fld ((linked live []).region { head 0 with rkey := 0x605 }).d0 31 8 ≠ (0x605 : BitVec 32).toNat / 256 ∧
    (linked live []).eventRing.d0.getLsbD 63 = false :=
  ⟨⟨⟨live, rfl, rfl, rfl, rfl⟩, by decide +kernel⟩, by unfold Rules.unsealed; decide +kernel,
    ⟨⟨live, rfl, rfl, rfl, rfl⟩, by decide +kernel⟩,
    ⟨⟨live, rfl, rfl, rfl, rfl⟩, by decide +kernel⟩, by unfold Rules.unsealed; decide +kernel,
    by decide, by decide, by decide⟩
theorem witness_Connections : tblGet? 9 (linked live []).qps = some live ∧ live.cnpAt = none ∧ 10000 + 50000 ≤ (linked live []).time ∧ live.held = [] ∧ ({ live with cm := .reqReceived } : Qp).cm ≠ .established ∧
    (linked live []).time < 10001 + 50000 ∧ 0 < live.rate ∧ Rules.unconnected (linked live []) 4095 ∧
    (∀ y ∈ (linked live []).paused, y.1 ≠ 35) := by
  unfold Rules.unconnected; decide +kernel

/-- A read and a posted store that the hart has outside through window 1. -/
def reading : Outbound := ⟨4, some hart.id, none, 55000, 0, none, true, 1, 3, 9, 0, 0, 0x800100000000, 5, 0, [], [], 8, none, true⟩
theorem witness_Outbound : (linked live [reading]).outbound = [reading] ∧ reading.valid = true ∧ reading.core = some hart.id ∧
    (linked live [reading]).core? hart.id = some hart ∧ reading.waits = true ∧ reading.write = [] ∧ reading.atomic = none ∧
    reading.qp = 9 ∧ isControl reading.pa = false ∧ tblGet? 9 (linked live [reading]).qps = some live ∧ 0 < live.retries ∧ { live with retries := 0 }.retries = 0 ∧
    0 < live.rnr ∧ { live with rnr := 0 }.rnr = 0 ∧ reading.sentAt + live.timeout ≤ (linked live [reading]).time ∧ reading.merge = [] ∧
    (linked live [reading]).time < { reading with sentAt := 55001 }.sentAt + live.timeout := by
  decide +kernel

/-- A boot block at a stage, and a frame for every panel. -/
def booting (b : Boot) : State := { State.reset with boot := b }
def atStage (n : Nat) : Boot := { State.reset.boot with stage := n }
def frame (op : BitVec 8) (offset : BitVec 32) (payload : List Byte) : BootFrame :=
  ⟨0x020000000001, 0xFFFFFFFFFFFF, op, 0, 7, offset, BitVec.ofNat 16 payload.length, 0, payload⟩
theorem frame_heard (b : Boot) (op : BitVec 8) (offset : BitVec 32) (p : List Byte) (h : b.powered = true) (h2 : 2 ≤ b.stage) (h8 : b.stage ≤ 8)
    (ho : op = 3 ∨ offset = 0) (hp : p.length ≤ 1024) : Rules.heard (booting b) (frame op offset p) op := by
  have e : (BitVec.ofNat 16 p.length).toNat = p.length := by rw [BitVec.toNat_ofNat]; exact Nat.mod_eq_of_lt (by omega)
  exact ⟨rfl, h, h2, h8, .inr rfl, rfl, rfl, ho, by show (BitVec.ofNat 16 p.length).toNat ≤ 1024; omega, e⟩
def beginPayload (kind total : Nat) : List Byte := Rules.leBytes 4 kind ++ Rules.leBytes 4 total
def partOpened : Boot := { atStage 2 with opened := 1, part := ⟨true, 0x344, [], 0, false⟩ }
def verified : Image := ⟨false, 0x344, [], 0, true⟩
def opened : Boot := { atStage 2 with opened := 2, fw := ⟨true, 0x344, [], 0, false⟩ }
theorem witness_BootStages : (atStage 1).powered = true ∧ (∀ x ∈ atTemp (-160), -160 ≤ x ∧ x < 1920) ∧ Rules.mild (atTemp (-161)) ∧ Rules.mild (atTemp (-193)) ∧
    (∀ n ∈ [2, 4, 5, 6, 7], (atStage n).powered = true ∧ (atStage n).stage = n) ∧ (panelOf stew).cores ≠ [] ∧ (∃ x ∈ atTemp (-161), x < -160) ∧
    (∃ x ∈ atTemp (-193), x < -192) ∧ { atStage 3 with heating := true }.heating = true ∧ { State.reset.boot with powered := false }.powered = false ∧
    (booting { atStage 6 with fw := verified }).cores = [] ∧ { atStage 6 with fw := verified }.fw.body.length = 4 := by unfold Rules.mild; decide +kernel
theorem witness_BootFrames : Rules.heard (booting (atStage 2)) (frame 1 0 []) 1 ∧
    Rules.heard (booting (atStage 3)) (frame 2 0 (beginPayload 1 (0x340 + 2 ^ 20))) 2 ∧
    Rules.heard (booting { atStage 3 with part := verified }) (frame 2 0 (beginPayload 2 (0x340 + 12 * 2 ^ 20))) 2 ∧
    Rules.heard (booting (atStage 4)) (frame 2 0 (beginPayload 1 5)) 2 ∧
    Rules.heard (booting opened) (frame 3 0x343 [9]) 3 ∧ Memory.wf opened.fw.bytes = true ∧ 0x343 + 1 ≤ opened.fw.total ∧
    Rules.heard (booting opened) (frame 4 0 (Rules.leBytes 4 2)) 4 ∧ opened.fw.field 0 4 ≠ 0x4458494D ∧
    Rules.heard (booting partOpened) (frame 3 0x343 [9]) 3 ∧ Memory.wf partOpened.part.bytes = true ∧ 0x343 + 1 ≤ partOpened.part.total ∧
    Rules.heard (booting partOpened) (frame 4 0 (Rules.leBytes 4 1)) 4 ∧ partOpened.part.field 0 4 ≠ 0x4458494D ∧
    Rules.heard (booting (atStage 8)) (frame 5 0 []) 5 ∧ Rules.heard (booting (atStage 8)) (frame 7 0 []) 7 := by
  refine ⟨frame_heard _ _ _ _ rfl ?_ ?_ ?_ ?_, frame_heard _ _ _ _ rfl ?_ ?_ ?_ ?_, frame_heard _ _ _ _ rfl ?_ ?_ ?_ ?_,
    frame_heard _ _ _ _ rfl ?_ ?_ ?_ ?_, frame_heard _ _ _ _ rfl ?_ ?_ ?_ ?_, ?_, ?_, frame_heard _ _ _ _ rfl ?_ ?_ ?_ ?_, ?_,
    frame_heard _ _ _ _ rfl ?_ ?_ ?_ ?_, ?_, ?_, frame_heard _ _ _ _ rfl ?_ ?_ ?_ ?_, ?_,
    frame_heard _ _ _ _ rfl ?_ ?_ ?_ ?_, frame_heard _ _ _ _ rfl ?_ ?_ ?_ ?_⟩ <;> decide +kernel
theorem witness_Status_released : let s : State := { booting (atStage 9) with dies := [(4, { Die.reset with heater := true })] }
    s.boot.stage = 9 ∧ Rules.heard { s with boot := { s.boot with stage := 8 } } (frame 5 0 []) 5 ∧ s.boot.heating = false ∧
    ∃ y ∈ s.dies, y.2.heater = true :=
  ⟨rfl, ⟨rfl, rfl, by decide, by decide, .inr rfl, rfl, rfl, .inr rfl, by decide, rfl⟩, rfl, ⟨_, List.mem_cons_self, rfl⟩⟩
def proven : Boot := { atStage 8 with part := verified, fw := verified, idkey := some 5, secret := some 6 }
theorem witness_Attest : Rules.heard (booting proven) (frame 6 0 (List.replicate 32 9)) 6 ∧ (List.replicate 32 (9 : Byte)).length = 32 ∧
    proven.alarm = false ∧ proven.idkey = some 5 ∧ proven.secret = some 6 ∧ proven.part.verified = true ∧ proven.fw.verified = true ∧
    Rules.heard (booting { atStage 8 with alarm := true }) (frame 6 0 (List.replicate 32 9)) 6 :=
  ⟨frame_heard _ _ _ _ rfl (by decide) (by decide) (by decide) (by decide), rfl, rfl, rfl, rfl, rfl, rfl,
    frame_heard _ _ _ _ rfl (by decide) (by decide) (by decide) (by decide)⟩
theorem witness_Alarm : Rules.mild (atTemp 0) ∧ (7 : BitVec 3) ≠ 0 ∧ (atStage 9).powered = true ∧ (atStage 9).alarm = false ∧
    (atStage 8).stage ≠ 9 ∧ (∃ y ∈ atTemp (-801), y < -800) ∧ (∀ y ∈ atTemp (-801), y < 1920) ∧ (∃ y ∈ atTemp 1920, 1920 ≤ y) ∧
    (atStage 9).overheated = false ∧ ([memberIn .resident placeCrew].map Member.id).Nodup := by unfold Rules.mild; decide +kernel

/-! A step from reset runs a word placed where it fetches (R105, log 8). -/

theorem test_step_after_reset : (match step (State.reset.withFetchWord 32 0x03FFF801) with
    | .next t => decide (t.me.g.get 31 = 0 ∧ t.me.pc = 0x100000004)
    | _ => false) = true := by decide +kernel


/-! What the statements on translated memory assume. -/

/-- The hart with a page of its cell's TLB at 0x200020000 and g5 there: strong, relaxed and cacheable, or unordered and cacheable,
each at base page 0x10 of stack 0, with every right. -/
def pager : Core := withG hart 5 0x200020000
def isLeaf (w : Word) : Prop := w = 0x10003F#64 ∨ w = 0x10107F#64 ∨ w = 0x1010BF#64
def pageState (w : Word) : State := { panelOf pager with cells := [(cellKey 0 0, { Cell.reset with tlb := [⟨false, 0x20002, w⟩] })] }
theorem pageState_open (w : Word) : Rules.stacksOpen (pageState w) := by intro k h; cases h
theorem leaf_grants (w : Word) (h : isLeaf w) : ∀ r ∈ [1, 2], Rules.grants false w 0x200020000#64 8 r := by
  unfold Rules.grants; rcases h with rfl | rfl | rfl <;> decide +kernel
theorem leaf_kind : Rules.strongPage 0x10003F#64 ∧ ¬ Rules.strongPage 0x10107F#64 ∧ ¬ Rules.strongPage 0x1010BF#64 := by
  unfold Rules.strongPage; decide +kernel
theorem leaf_unsealed (w : Word) (h : isLeaf w) : Rules.unsealedFor (pageState w) 0 (Rules.pageAddr false w 0x200020000#64) := by
  unfold Rules.unsealedFor; rcases h with rfl | rfl | rfl <;> decide +kernel
theorem witness_Page (w : Word) (h : isLeaf w) : (pageState w).Calm pager ∧ (pageState w).NoCommands pager ∧ Rules.quiet (pageState w) pager ∧
    (pageState w).Canonical ∧ pager.rg 5 = 0x200020000#64 ∧ (∀ r ∈ [1, 2], Rules.pageReady (pageState w) pager 0x200020000#64 8 r false w) ∧
    Rules.unsealedFor (pageState w) 0 (Rules.pageAddr false w 0x200020000#64) := by
  have m : (((tlbFind 0x200020000#64 ((pageState w).cell pager.id.cell).tlb).map fun e => (e.huge, e.leaf)) = some (false, w)) := by
    rcases h with rfl | rfl | rfl <;> decide +kernel
  refine ⟨⟨⟨rfl, rfl, rfl, rfl, rfl⟩, rfl, rfl⟩, ⟨rfl, rfl, ?_⟩, ⟨rfl, by intro o h; cases h⟩, ⟨rfl, rfl, rfl, List.Pairwise.nil, by intro x h; cases h⟩,
    rfl, ?_, leaf_unsealed w h⟩
  · intro k hk; cases hk
  · exact fun r hr => ⟨rfl, rfl, pageState_open w, .inl m, leaf_grants w h r hr⟩

/-- The hart with eight elements at 0x200000000, a resident huge page of its die, of each kind. -/
def paging : Core := withG hart 5 0x200000000
def residentState (w : Word) : State := { panelOf paging with dies := [(0, { Die.reset with rt := [(0, (0x200000000, w))] })] }
def isHuge (w : Word) : Prop := w = 0x1000003F#64 ∨ w = 0x1000107F#64 ∨ w = 0x100010BF#64
theorem huge_grants (w : Word) (h : isHuge w) (r : Nat) (hr : r = 1 ∨ r = 2) (e : Nat) (he : e < 8) :
    Rules.grants true w (Rules.packedAt paging 5 0 0 e).1 1 r ∧ 0x10000000 + e = Rules.pageAddr true w (Rules.packedAt paging 5 0 0 e).1 := by
  have H : ∀ e, e < 8 → (Rules.packedAt paging 5 0 0 e).1 = 0x200000000#64 + BitVec.ofNat 64 e := by decide +kernel
  rw [H e he]
  unfold Rules.grants
  rcases h with rfl | rfl | rfl <;> rcases hr with rfl | rfl <;> revert e <;> decide +kernel
theorem huge_resident (w : Word) (h : isHuge w) (e : Nat) (he : e < 8) : ((residentState w).die 0).residents (Rules.packedAt paging 5 0 0 e).1 = [w] := by
  have H : ∀ e, e < 8 → (Rules.packedAt paging 5 0 0 e).1 = 0x200000000#64 + BitVec.ofNat 64 e := by decide +kernel
  rw [H e he]
  rcases h with rfl | rfl | rfl <;> revert e <;> decide +kernel
theorem witness_VectorPage (w : Word) (h : isHuge w) : Rules.windowReady (residentState w) paging ∧ Rules.stacksOpen (residentState w) ∧
    ((residentState w).die 0).nonHome = [] ∧ (residentState w).Canonical ∧ Rules.holdFits paging ∧ fits 63 1 1 = true ∧
    (∀ r, r = 1 ∨ r = 2 → ∀ i e, Rules.active paging 0 false i e = true →
      Rules.vectorAt (residentState w) paging (Rules.packedAt paging 5 0 i e).1 1 r (0x10000000 + e)) ∧
    ∀ e, e < 8 → Rules.unsealedFor (residentState w) 0 (0x10000000 + e) := by
  refine ⟨⟨⟨⟨rfl, rfl, rfl, rfl, rfl⟩, rfl, rfl⟩, rfl, by unfold Rules.vectorLegal; decide +kernel, .inr (show 0 < Die.reset.level.toNat by decide),
    rfl, rfl, (by intro k h; cases h)⟩, (by intro k h; cases h), rfl, ⟨rfl, rfl, rfl, List.Pairwise.nil, ?_⟩,
    by unfold Rules.holdFits; decide +kernel, by decide, ?_, ?_⟩
  · intro x hx
    rcases List.mem_cons.1 hx with rfl | hx
    · exact List.nodup_nil
    · cases hx
  · intro r hr i e ha
    have hb := active_below paging 0 i e ha
    obtain rfl : i = 0 := Nat.lt_one_iff.1 hb.1
    have g := huge_grants w h r hr e hb.2
    exact .inr ⟨w, huge_resident w h e hb.2, g.1, g.2⟩
  · intro e he
    refine .inr ?_
    have H : ∀ e, e < 8 → (0#16384).getLsbD ((0x10000000 + e) / 2 ^ 28 % 2 ^ 14) = false := by decide +kernel
    exact H e he


/-! What the statements on repeat frames and coded chunks assume. -/

/-- The hart with its code page in its cell's TLB, a base page of stack 0 whose first words are the two of `framed`. -/
def coded : State := { panelOf hart with
  cells := [(cellKey 0 0, { Cell.reset with tlb := [⟨false, 0x10000, 0x10107F⟩] })]
  homeCache := memWrites 0x100004 (natBytes 4 0x00A73801 ++ natBytes 4 0xA8610503 ++ natBytes 4 0x20006000) [] }
def coder : Core := { hart with code := coded.codeView }
def coding : State := { coded with cores := [coder] }
theorem coded_word (n : Nat) (a : Word) (x : BitVec 32) (hn : n < 3) (ha : a = 0x100000004#64 + BitVec.ofNat 64 (4 * n))
    (hx : [0x00A73801#32, 0xA8610503#32, 0x20006000#32][n]? = some x) : Rules.codeWord coding coder a x := by
  have H : ∀ n, n < 3 → let a := 0x100000004#64 + BitVec.ofNat 64 (4 * n)
      a.toNat % 4 = 0 ∧ coding.fenceCovers coder.id a 4 = false ∧ tlbFind a (coding.cell coder.id.cell).tlb = some ⟨false, 0x10000, 0x10107F#64⟩ ∧
      0x100004 + 4 * n = Rules.pageAddr false 0x10107F#64 a ∧
      [0x00A73801#32, 0xA8610503#32, 0x20006000#32][n]? =
        some (BitVec.ofNat 32 (bytesNat ((coding.asOf coder.code).peek coder.id.die ⟨0x100004 + 4 * n, some 0x10107F#64⟩ 4))) := by
    decide +kernel
  have G : ∀ n, n < 3 → Rules.grants false 0x10107F#64 (0x100000004#64 + BitVec.ofNat 64 (4 * n)) 4 3 := by
    unfold Rules.grants; decide +kernel
  obtain ⟨h1, h0, h2, h3, h4⟩ := H n hn
  rw [h4] at hx; cases hx; subst ha
  exact ⟨(by intro k h; cases h), h1, h0, 0x100004 + 4 * n, 0x10107F#64, rfl, (if_neg (show ¬ coder.isSteward = true by decide)).mpr
    ⟨rfl, ⟨false, 0x10000, 0x10107F#64⟩, h2, rfl, G n hn, h3⟩⟩
theorem witness_Repf_words : coding.Calm coder ∧ coder.pc = 0x100000000#64 ∧ (∀ w ∈ [0x00A73801, 0xA8610503], Rules.capturable w = true ∧
    (decode w).toOption.isSome = true) ∧ Rules.capturable 0x20006000 = false ∧ Rules.capturable 0x00000021 = false ∧
    Rules.capturable 0xDC000007 = false ∧ (decode 0xFC000000).toOption = none :=
  ⟨⟨⟨rfl, rfl, rfl, rfl, rfl⟩, rfl, rfl⟩, rfl, by decide +kernel, by decide +kernel, by decide +kernel, by decide +kernel, by decide +kernel⟩
theorem witness_Frame_bare : ({ panelOf framed with cores := [{ framed with frame := none }] } : State).Calm { framed with frame := none } ∧
    (panelOf framed).GateOpen framed := ⟨⟨⟨rfl, rfl, rfl, rfl, rfl⟩, rfl, rfl⟩, by decide +kernel⟩

/-- R82's table: VFADD of v2, v4 and v6 under m3 with vstride 4, on its replays 1 and 2. -/
def addWord (d a b : Nat) : Nat := ((encode (.vfaddVv (BitVec.ofNat 6 d) (BitVec.ofNat 6 a) (BitVec.ofNat 6 b) 3 0 0)).getD 0)
theorem test_stagger_table : Rules.staggered 4 0 (addWord 2 4 6) = addWord 6 8 10 ∧ Rules.staggered 8 0 (addWord 2 4 6) = addWord 10 12 14 := by
  decide +kernel
/-- R82's special kinds: VMVX names a scalar register as its destination, VBCAST as its source, VIDX as its base and stride. -/
theorem test_stagger_kinds : ∀ p ∈ [(Instr.vmvx 5 6 0, Instr.vmvx 8 8 0), (.vmvx 0 6 0, .vmvx 0 8 0), (.vbcast 6 5 3 0, .vbcast 8 8 3 0),
      (.vidx 2 5 6 3 0, .vidx 4 8 9 3 0), (.vmacVs 8 2 4 1 1 0, .vmacVs 10 4 7 1 1 0), (.vfsqrt 63 3 3 0 0, .vfsqrt 1 5 3 0 0),
      (.add 5 7 0, .add 8 10 0)],
    ((encode p.1).map (Rules.staggered 2 3)) = encode p.2 := by decide +kernel

/-- The coded bytes of "123456789" in one lane of R298, no bit of payload: entry i of the table gives symbol i and goes to i + 1. -/
def chunkBytes (crc : List Nat) : List Byte :=
  ([0xA5, 0xC3, 9, 0, 5, 1] ++ crc ++ [0, 0, 0, 0, 0, 0] : List Nat).map (BitVec.ofNat 8)
def chunkTable : Tbl (BitVec 32) := (List.range 9).map fun i => (i, BitVec.ofNat 32 (0x31 + i + (i + 1) * 2 ^ 12))
def decoder : Core := { withG (withG hart 5 0x100) 6 14 with dtab := chunkTable, tvec := 0x200000000 }
def chunked (crc : List Nat) : State := { panelOf decoder with hold := memWrites 0x100 (chunkBytes crc) [] }
def chunkOf (crc : List Nat) (limit : Nat) : Except Nat (List Nat) :=
  Rules.chunkDecoded (fun j => ((chunked crc).windowByte decoder (0x100 + j)).toNat) limit fun j => tblGet (0 : BitVec 32) j chunkTable
/-- R297's check value of the CRC: the chunk verifies with it, and no other value does; a limit below its marker fails it at once. -/
theorem witness_Chunk : (match chunkOf [0xB1, 0x29] 14 with | .ok xs => some xs | .error _ => none) = some [0x31, 0x32, 0x33, 0x34, 0x35, 0x36, 0x37, 0x38, 0x39] ∧
    (match chunkOf [0xB2, 0x29] 14 with | .ok _ => none | .error n => some n) = some 9 ∧
    (match chunkOf [0xB1, 0x29] 13 with | .ok _ => none | .error n => some n) = some 0 := by decide +kernel
theorem witness_Chunk_ready : (chunked [0xB1, 0x29]).Calm decoder ∧ (chunked [0xB1, 0x29]).NoCommands decoder ∧ (chunked [0xB1, 0x29]).GateOpen decoder ∧
    (∀ j, j < (decoder.rg 6).toNat → decoder.InWindow (decoder.rg 5 + BitVec.ofNat 64 j) 1) ∧ decoder.tvec &&& ~~~3 ≠ 0 ∧ decoder.cause.active = false :=
  ⟨⟨⟨rfl, rfl, rfl, rfl, rfl⟩, rfl, rfl⟩, ⟨rfl, rfl, by intro k h; cases h⟩, by decide +kernel, by decide +kernel, by decide, rfl⟩
theorem test_chunk : (match after (exec (.tldc 3 5 6) (chunked [0xB1, 0x29])) with
      | some t => decide ((List.range 10).map (fun j => getBits (t.me.yreg 3) (8 * j) 8) = [0x31, 0x32, 0x33, 0x34, 0x35, 0x36, 0x37, 0x38, 0x39, 0])
      | none => false) = true ∧
    (match after (exec (.tldc 3 5 6) (chunked [0xB2, 0x29])) with
      | some t => decide (t.me.cause.code = 0x20 ∧ t.me.eelem = 9 ∧ t.me.epc = decoder.pc)
      | none => false) = true := by decide +kernel

end Sys2Proof.Tests
end

section
/-! SUPPORT. Bit fields: what a read of one field finds after a write of another. -/

namespace Sys2Proof.Machine

/-- The bits of a field that is read. -/
theorem testBit_getBits {w : Nat} (x : BitVec w) (lo n i : Nat) :
    (getBits x lo n).testBit i = (decide (i < n) && x.getLsbD (i + lo)) := by
  rw [getBits, Nat.testBit_mod_two_pow, Nat.testBit_div_two_pow, BitVec.testBit_toNat]

/-- The bits of a word with a field replaced. -/
theorem getLsbD_putBits {w : Nat} (x : BitVec w) (lo n y i : Nat) :
    (putBits x lo n y).getLsbD i = if i < w ∧ lo ≤ i ∧ i < lo + n then y.testBit (i - lo) else x.getLsbD i := by
  by_cases hw : i < w
  · simp only [putBits, BitVec.getLsbD_or, BitVec.getLsbD_and, BitVec.getLsbD_not, BitVec.getLsbD_ofNat,
      Nat.testBit_mul_two_pow, Nat.testBit_two_pow_sub_one, Nat.testBit_mod_two_pow, hw]
    by_cases hlo : lo ≤ i
    · have hhi : i - lo < n ↔ i < lo + n := by omega
      by_cases h : i < lo + n <;> simp [hlo, hhi, h]
    · simp [hlo]
  · simp [BitVec.getLsbD_of_ge _ _ (Nat.le_of_not_lt hw), hw]

/-- A field that lies within the word reads what was written to it. -/
theorem getBits_putBits_same {w : Nat} (x : BitVec w) (lo n y : Nat) (h : lo + n ≤ w) :
    getBits (putBits x lo n y) lo n = y % 2 ^ n := by
  refine Nat.eq_of_testBit_eq fun i => ?_
  rw [testBit_getBits, getLsbD_putBits, Nat.testBit_mod_two_pow]
  by_cases hi : i < n
  · rw [if_pos (by omega), Nat.add_sub_cancel]
  · simp [hi]

/-- A field apart from the one written reads as before. -/
theorem getBits_putBits_other {w : Nat} (x : BitVec w) (lo n y lo' n' : Nat) (h : lo + n ≤ lo' ∨ lo' + n' ≤ lo) :
    getBits (putBits x lo n y) lo' n' = getBits x lo' n' := by
  refine Nat.eq_of_testBit_eq fun i => ?_
  rw [testBit_getBits, getLsbD_putBits, testBit_getBits]
  by_cases hi : i < n'
  · rw [if_neg (by omega)]
  · simp [hi]

end Sys2Proof.Machine
end

section
/-! SUPPORT. Scalar registers in a lane thread, the end of an instruction, and what an instruction that only writes a scalar
register and goes on elsewhere has done (R11, R25, R26, R115). -/

namespace Sys2Proof.Machine

/-- A lane thread's part of a vector register lies within it, and apart from every other lane's. -/
theorem getBits_putBits_lane (x : BitVec 1024) (l : Fin 16) (y : Word) (j : Nat) (hj : j < 16) :
    getBits (putBits x (64 * l) 64 y.toNat) (64 * j) 64 = if j = l.val then y.toNat else getBits x (64 * j) 64 := by
  split
  case isTrue h => rw [h, getBits_putBits_same _ _ _ _ (by omega), Nat.mod_eq_of_lt y.isLt]
  case isFalse h => exact getBits_putBits_other _ _ _ _ _ _ (by omega)

/-- A scalar write leaves the choice of lane registers as it was. -/
@[simp] theorem Core.wg_lnum (c : Core) (r q : BitVec 5) (x : Word) : (c.wg r x).lnum q = c.lnum q := by
  simp [Core.lnum]

/-- A field names one of the vector registers that hold lane registers (R26). -/
theorem Core.lnum_lt (c : Core) (r : BitVec 5) : c.lnum r < 64 := by
  have := r.isLt
  unfold Core.lnum; split <;> omega

/-- Two fields name one lane register only when they are equal. -/
theorem Core.lnum_inj (c : Core) {q r : BitVec 5} : c.lnum q = c.lnum r ↔ q = r := by
  simp [Core.lnum, BitVec.toNat_inj]

/-- A lane thread's scalar write changes the vector register of that field. -/
theorem Core.wg_vreg_lane (c : Core) (hs : c.split.on = true) (r : BitVec 5) (x : Word) (n : Nat) :
    (c.wg r x).vreg n = if n = c.lnum r ∧ r ≠ 0#5 then putBits (c.vreg (c.lnum r)) (64 * c.split.lane) 64 x.toNat
      else c.vreg n := by
  by_cases hr : r = 0#5
  · simp [hr]
  · have hw : c.wg r x = c.setV (c.lnum r) (putBits (c.vreg (c.lnum r)) (64 * c.split.lane) 64 x.toNat) := by
      simp [Core.wg, hr, hs]
    rw [hw, Core.vreg_setV]
    simp [hr, c.lnum_lt r]

/-- A scalar register read after one is written, in a lane thread. -/
theorem Core.rg_wg_lane (c : Core) (hs : c.split.on = true) (r q : BitVec 5) (x : Word) :
    (c.wg r x).rg q = if q = r ∧ r ≠ 0#5 then x else c.rg q := by
  by_cases hq : q = 0#5
  · rw [hq, Core.rg_zero, Core.rg_zero, if_neg fun h => h.2 h.1.symm]
  · have hrg (k : Core) (hk : k.split.on = true) :
        k.rg q = BitVec.ofNat 64 (getBits (k.vreg (k.lnum q)) (64 * k.split.lane) 64) := by
      simp [Core.rg, hq, hk]
    rw [hrg c hs, hrg (c.wg r x) (by simpa using hs), Core.wg_vreg_lane c hs, Core.wg_lnum, Core.wg_split]
    simp only [Core.lnum_inj]
    split
    · simp [getBits_putBits_lane]
    · rfl

/-- A scalar register read after one is written (R11, R26). -/
theorem Core.rg_wg_any (c : Core) (r q : BitVec 5) (x : Word) :
    (c.wg r x).rg q = if q = r ∧ r ≠ 0#5 then x else c.rg q := by
  cases hs : c.split.on
  · exact Core.rg_wg c hs r q x
  · exact Core.rg_wg_lane c hs r q x

/-- Outside split mode a scalar write leaves the vector registers. -/
theorem Core.wg_v (c : Core) (hs : c.split.on = false) (r : BitVec 5) (x : Word) : (c.wg r x).v = c.v := by
  simp only [Core.wg, hs]; split <;> rfl

/-- In split mode it leaves the hart's scalar registers. -/
theorem Core.wg_g_lane (c : Core) (hs : c.split.on = true) (r : BitVec 5) (x : Word) : (c.wg r x).g = c.g := by
  simp only [Core.wg, hs]; split <;> simp

/-- The program counter set: reads of scalar registers are as before. -/
@[simp] theorem Core.setPc_rg (c : Core) (a : Word) (r : BitVec 5) : (c.setPc a).rg r = c.rg r := by
  unfold Core.setPc; split <;> rfl

@[simp] theorem Core.setPc_curPc (c : Core) (a : Word) : (c.setPc a).curPc = a := by
  unfold Core.setPc Core.curPc
  cases h : c.split.on
  · simp [h]
  · simp [h, vector_get_set]

/-- What ends with an instruction besides its program counter (R250, R402). -/
def Core.ended (c : Core) : Core :=
  { c with wait := .none, released := false, share := c.share + (!c.released).toNat }.clearRemote.clearLane

/-- Outside a repeat frame and a checkpoint around it, an instruction ends with nothing else changed. -/
theorem Core.retireTo_eq (c : Core) (a : Word) (hf : c.frame = none) (ha : c.around = false) :
    c.retireTo a = c.ended.setPc a := by
  simp [Core.retireTo, Core.ended, hf, ha]

@[simp] theorem Core.ended_rg (c : Core) (r : BitVec 5) : c.ended.rg r = c.rg r := by
  unfold Core.ended Core.clearLane; split <;> rfl

/-- It stands at `a` (R25). -/
theorem Core.retireTo_curPc (c : Core) (a : Word) (hf : c.frame = none) (ha : c.around = false) :
    (c.retireTo a).curPc = a := by
  rw [Core.retireTo_eq c a hf ha, Core.setPc_curPc]

/-- The special registers, cr.ckpt and the rest are as an instruction that only goes on elsewhere found them. -/
theorem Core.retireTo_frame (c : Core) (a : Word) (hf : c.frame = none) (ha : c.around = false) :
    (c.retireTo a).g = c.g ∧ c.SameVector (c.retireTo a) ∧ c.SameSpecial (c.retireTo a) ∧
      (c.retireTo a).fflags = c.fflags ∧ (c.retireTo a).ckpt = c.ckpt ∧ (c.retireTo a).lq = c.lq ∧
      (c.retireTo a).latch = c.latch := by
  rw [Core.retireTo_eq c a hf ha]
  simp [Core.ended, Core.SameVector, Core.SameSpecial]

/-- All that the end of an instruction that writes `x` to `d` and goes on at `a` leaves behind. -/
theorem Core.afterScalar_retireTo (c : Core) (hf : c.frame = none) (ha : c.around = false) (d : BitVec 5) (x a : Word) :
    c.AfterScalar ((c.wg d x).retireTo a) d x a := by
  have hf' : (c.wg d x).frame = none := by simpa using hf
  have ha' : (c.wg d x).around = false := by simpa using ha
  obtain ⟨hg, ⟨hv, hm, hy⟩, hsp, hff, hck, hlq, hla⟩ := (c.wg d x).retireTo_frame a hf' ha'
  have hvreg (n : Nat) : ((c.wg d x).retireTo a).vreg n = (c.wg d x).vreg n := by unfold Core.vreg; rw [hv]
  refine ⟨Core.retireTo_curPc _ a hf' ha', fun r => ?_, ?_, ?_, ?_, ?_, ?_, ?_, ?_, ?_⟩
  · rw [Core.retireTo_eq _ a hf' ha', Core.setPc_rg, Core.ended_rg, Core.rg_wg_any]
  · simpa using hm
  · simpa using hy
  · simpa using hff
  · simpa using hck
  · simpa using hlq
  · simpa using hla
  · simpa [Core.SameSpecial] using hsp
  · split
    case isTrue hs =>
      refine ⟨hg.trans (Core.wg_g_lane c hs d x), fun n hn => ?_, fun n j hj hne => ?_⟩
      · rw [hvreg, Core.wg_vreg_lane c hs, if_neg fun h => hn h.1]
      · rw [hvreg, Core.wg_vreg_lane c hs]
        split
        case isTrue h => exact h.1 ▸ (getBits_putBits_lane _ _ _ _ hj).trans (if_neg hne)
        case isFalse => rfl
    case isFalse hs => exact hv.trans (Core.wg_v c (by simpa using hs) d x)

/-- The same of one that writes nothing. -/
theorem Core.afterScalar_retireTo_zero (c : Core) (hf : c.frame = none) (ha : c.around = false) (a : Word) :
    c.AfterScalar (c.retireTo a) 0#5 0 a := by
  simpa using c.afterScalar_retireTo hf ha 0#5 0 a

@[simp] theorem Core.wg_curPc (c : Core) (r : BitVec 5) (x : Word) : (c.wg r x).curPc = c.curPc := by
  simp [Core.curPc]

/-- The same of one that goes on at the next instruction. -/
theorem Core.afterScalar_retire (c : Core) (hf : c.frame = none) (ha : c.around = false) (d : BitVec 5) (x : Word) :
    c.AfterScalar (c.wg d x).retire d x (c.curPc + 4) := by
  rw [Core.retire, Core.wg_curPc]; exact c.afterScalar_retireTo hf ha d x _

/-- What a core at the start of an encoded instruction needs for nothing to stand around it: it has the turn, no checkpoint is
taken at it or around it (R115, R166), and it stands in no repeat frame. -/
structure State.AtInstr (s : State) (c : Core) : Prop where
  core : s.core? s.cur = some c
  stepwise : c.stepwise = false
  frame : c.frame = none
  around : c.around = false

/-- Plain code and lane threads stand so. -/
theorem State.atInstr_of_plain_or_inLane {s : State} {c : Core} (h : s.Plain c ∨ s.InLane c) : s.AtInstr c := by
  rcases h with ⟨hc, _, hw, hf, ha⟩ | ⟨hc, _, hw, hf, ha⟩ <;> exact ⟨hc, hw, hf, ha⟩

/-- An instruction of the lane-thread subset is its body there. -/
theorem State.AtInstr.run_eq {s : State} {c : Core} (h : s.AtInstr c) (body : State → Except Halt State) :
    s.run true body = .next (settle (body s)) := by
  rw [State.run_next s c h.core, State.enter_true s c h.core h.stepwise]; rfl

/-- A precise trap at the instruction (R117). -/
theorem State.settle_precise {s : State} {c : Core} (h : s.core? s.cur = some c) (t : TrapInfo) :
    settle (s.precise t) = s.takeTrap t c.curPc false := by
  rw [← State.me_of_core? s c h]; rfl

/-- What a change of the core whose turn it is amounts to. -/
theorem State.onlyCore_upd (s : State) (f : Core → Core) (hf : ∀ c, (f c).id = c.id) : s.OnlyCore (s.upd f) :=
  ⟨rfl, fun id h => State.core?_upd_other s f hf id h⟩

/-- Two changes of the core whose turn it is are one. -/
theorem State.upd_upd (s : State) (f g : Core → Core) (hf : ∀ c, (f c).id = c.id) :
    (s.upd f).upd g = s.upd fun c => g (f c) := by
  simp only [State.upd, State.modCore, List.map_map]
  congr 2
  funext k
  by_cases hk : k.id = s.cur <;> simp [hk, hf]

theorem State.upd_self (s : State) : (s.upd fun c => c) = s := by
  simp [State.upd, State.modCore]

/-- An instruction that changes its core by `f`. -/
theorem State.runsTo_of_upd {s : State} {c : Core} {i : Instr} (h : s.core? s.cur = some c) (f : Core → Core)
    (hf : ∀ c, (f c).id = c.id) (hi : exec i s = .next (s.upd f)) {p : Core → Prop} (hp : p (f c)) : s.RunsTo i p :=
  ⟨s.upd f, f c, hi, s.onlyCore_upd f hf, State.core?_upd s f hf c h, hp⟩

/-- An instruction of the lane-thread subset that changes its core by `f`. -/
theorem State.AtInstr.runsTo_upd {s : State} {c : Core} {i : Instr} (h : s.AtInstr c) (f : Core → Core)
    (hf : ∀ c, (f c).id = c.id) (hi : exec i s = s.run true fun s => .ok (s.upd f)) {p : Core → Prop} (hp : p (f c)) :
    s.RunsTo i p :=
  State.runsTo_of_upd h.core f hf (by rw [hi, h.run_eq]; rfl) hp

/-- What an instruction is shown to do may be weakened. -/
theorem State.RunsTo.mono {s : State} {i : Instr} {p q : Core → Prop} (h : s.RunsTo i p) (hpq : ∀ k, p k → q k) :
    s.RunsTo i q := by
  obtain ⟨t, k, hi, ho, hk, hp⟩ := h
  exact ⟨t, k, hi, ho, hk, hpq k hp⟩

/-- An instruction that only writes a scalar register from the core's own registers. -/
theorem State.AtInstr.runsTo_alu {s : State} {c : Core} {i : Instr} (h : s.AtInstr c) (d : BitVec 5) (f : Core → Word)
    (hi : exec i s = s.alu d f) : s.RunsTo i fun k => c.AfterScalar k d (f c) (c.curPc + 4) :=
  h.runsTo_upd (fun c => (c.wg d (f c)).retire) (fun c => by simp [Core.retire_id]) hi
    (c.afterScalar_retire h.frame h.around d (f c))

/-- The core with another memory of its strip. -/
def Core.withStrip (x : Strip) (c : Core) : Core := { c with strip := x }

/-- An instruction that writes no vector, mask or tile register takes no checkpoint for R116: only the strip's memory of what has
been read changes. -/
theorem State.touch_reads (s : State) (rd : Tbl Nat) :
    ∃ x : Core → Strip, s.touch rd [] = .ok (s.upd fun c => c.withStrip (x c)) := by
  unfold State.touch
  dsimp only [List.filter_nil, List.any_nil, List.foldl_nil]
  split
  · exact ⟨Core.strip, congrArg _ s.upd_self.symm⟩
  · exact ⟨_, rfl⟩

end Sys2Proof.Machine
end

section
/-! PROOFS. Division by zero and of the most negative number by minus one (R97). -/

namespace Sys2Proof.Machine

/-- A scalar result reads as the value its row gives, where the destination is not field 0. -/
theorem State.AtInstr.alu_reads {s : State} {c : Core} {i : Instr} (h : s.AtInstr c) {d : BitVec 5} (hd : d ≠ 0#5)
    (f : Core → Word) (hi : exec i s = s.alu d f) {x : Word} (hx : f c = x) : s.RunsTo i fun k => k.rg d = x :=
  (h.runsTo_alu d f hi).mono fun k ⟨_, hw, _⟩ => by rw [hw d, if_pos ⟨rfl, hd⟩, hx]

theorem divs_zero (a : Word) : divs a 0 = BitVec.ofInt 64 (-1) := by
  simp only [divs, if_true]; decide

theorem divu64_zero (a : Word) : divu64 a 0 = BitVec.ofNat 64 (2 ^ 64 - 1) := by
  simp only [divu64, if_true]; decide

theorem rems_zero (a : Word) : rems a 0 = a := if_pos rfl

theorem remu64_zero (a : Word) : remu64 a 0 = a := if_pos rfl

/-- The quotient 2^63 is no signed word and wraps. -/
theorem divs_intMin_neg_one : divs (BitVec.ofInt 64 (-(2 ^ 63))) (BitVec.ofInt 64 (-1)) = BitVec.ofInt 64 (-(2 ^ 63)) := by
  decide

theorem rems_intMin_neg_one : rems (BitVec.ofInt 64 (-(2 ^ 63))) (BitVec.ofInt 64 (-1)) = 0 := by
  decide

/-- Settles O10: each of DIV, DIVU, REM and REMU writes the value of its division function, whose special cases stand above. -/
theorem divisionSpecialCases : Obligations.DivisionSpecialCases := by
  unfold Obligations.DivisionSpecialCases
  intro s c d a b hs hd
  have h := State.atInstr_of_plain_or_inLane hs
  refine ⟨fun hb => ⟨?_, ?_, ?_, ?_⟩, fun ha hb => ⟨?_, ?_⟩⟩
  · exact h.alu_reads hd (fun c => divs (c.rg a) (c.rg b)) rfl (by rw [hb, divs_zero])
  · exact h.alu_reads hd (fun c => divu64 (c.rg a) (c.rg b)) rfl (by rw [hb, divu64_zero])
  · exact h.alu_reads hd (fun c => rems (c.rg a) (c.rg b)) rfl (by rw [hb, rems_zero])
  · exact h.alu_reads hd (fun c => remu64 (c.rg a) (c.rg b)) rfl (by rw [hb, remu64_zero])
  · exact h.alu_reads hd (fun c => divs (c.rg a) (c.rg b)) rfl (by rw [ha, hb, divs_intMin_neg_one])
  · exact h.alu_reads hd (fun c => rems (c.rg a) (c.rg b)) rfl (by rw [ha, hb, rems_intMin_neg_one])

end Sys2Proof.Machine
end

section
/-! PROOFS. RETT at each level (R122, R361, R364). -/

namespace Sys2Proof.Machine

/-- RETT from a user handler makes of a core this: active is cleared, and it goes on where the trap tells it to. -/
def Core.rett (c : Core) : Core :=
  { c with cause := { c.cause with active := false }, ckptKept := false }.retireTo (if c.cause.restart then c.ckpt else c.epc)

/-- RETT of a steward core above user level makes of it this. -/
def Core.rettSteward (c : Core) : Core := { c with wait := .none, remote := [] }.stewardReturn

/-- RETT where no steward's handler returns: from the user handler that is active, and ILLEGAL with none. -/
theorem exec_rett_user {s : State} {c : Core} (h : s.AtInstr c) (hl : c.isSteward = false ∨ c.level = .user) :
    exec .rett s = .next (if c.cause.active then s.upd Core.rett else s.takeTrap { cause := .illegal } c.curPc false) := by
  have hlevel : (c.isSteward && decide (c.level ≠ .user)) = false := by rcases hl with hl | hl <;> simp [hl]
  change execRett s = _
  rw [execRett, h.run_eq]
  simp only [State.me_of_core? s c h.core, hlevel, Bool.false_eq_true, if_false]
  split
  · rfl
  · rw [State.settle_precise h.core]

/-- RETT of a steward core above user level returns from its own trap (R361, R364). -/
theorem exec_rett_steward {s : State} {c : Core} (h : s.AtInstr c) (hs : c.isSteward = true) (hl : c.level ≠ .user) :
    exec .rett s = .next (s.upd Core.rettSteward) := by
  have hlevel : (c.isSteward && decide (c.level ≠ .user)) = true := by simp [hs, hl]
  change execRett s = _
  rw [execRett, h.run_eq]
  simp only [State.me_of_core? s c h.core, hlevel, if_true]
  rfl

theorem Core.stewardReturn_id (c : Core) : c.stewardReturn.id = c.id := by
  unfold Core.stewardReturn; split <;> rfl

/-- The level and the address a steward core returns to, and what it keeps. -/
theorem Core.stewardReturn_spec (c : Core) :
    c.stewardReturn.g = c.g ∧ c.stewardReturn.st = c.st ∧ c.SameVector c.stewardReturn ∧
      if c.level = .machine then
        c.stewardReturn.pc = c.st.mepc ∧
          c.stewardReturn.level = (if c.st.mpp = 0 then .user else if c.st.mpp = 2 then .machine else .supervisor)
      else c.stewardReturn.pc = c.st.sepc ∧ c.stewardReturn.level = if c.st.spp then .supervisor else .user := by
  unfold Core.stewardReturn
  split <;> simp [Core.SameVector]

/-- Settles O19: the two forms of `exec .rett`, and what each makes of the core. -/
theorem returnFromTrap : Obligations.ReturnFromTrap := by
  unfold Obligations.ReturnFromTrap
  refine ⟨fun s c hs hl => ?_, fun s c hs hst hl => ?_⟩
  · have h := State.atInstr_of_plain_or_inLane hs
    have hexec := exec_rett_user h hl
    refine ⟨fun hact => ?_, fun hact => ?_⟩
    · rw [hact] at hexec
      exact State.runsTo_of_upd h.core Core.rett (fun c => Core.retireTo_id _ _) hexec
        (Core.afterScalar_retireTo_zero { c with cause := { c.cause with active := false }, ckptKept := false }
          h.frame h.around _)
    · rw [hexec, hact]; rfl
  · have h := State.atInstr_of_plain_or_inLane (.inl hs)
    exact State.runsTo_of_upd h.core Core.rettSteward (fun c => Core.stewardReturn_id _) (exec_rett_steward h hst hl)
      (Core.stewardReturn_spec { c with wait := .none, remote := [] })

end Sys2Proof.Machine
end

section
/-! PROOFS. Branches, jumps, LOOP, BANY and BALL (R106 to R109). -/

namespace Sys2Proof.Machine

/-- An offset in words is four times itself in bytes, in a word's arithmetic (R66). -/
theorem wordOffset_eq {n : Nat} (o : BitVec n) : wordOffset o = o.signExtend 64 * 4 := by
  rw [wordOffset, BitVec.ofInt_mul]; rfl

/-- An address is a multiple of 4 when its low two bits are clear. -/
theorem and_three_eq_zero_iff (a : Word) : a &&& 3 = 0 ↔ a.toNat % 4 = 0 := by
  rw [← BitVec.toNat_inj, BitVec.toNat_and]
  exact Nat.and_two_pow_sub_one_eq_mod a.toNat 2 ▸ Iff.rfl

theorem not_slt_iff_toInt_le (x y : Word) : (!x.slt y) = true ↔ y.toInt ≤ x.toInt := by
  simp [BitVec.slt_eq_decide]

theorem not_ult_iff_toNat_le (x y : Word) : (!x.ult y) = true ↔ y.toNat ≤ x.toNat := by
  simp [BitVec.ult_eq_decide]

/-- What a conditional branch makes of its core (R106). -/
def Core.branchTo {n : Nat} (p : Core → Bool) (o : BitVec n) (c : Core) : Core :=
  if p c then c.retireTo (c.curPc + wordOffset o) else c.retire

theorem Core.branchTo_id {n : Nat} (c : Core) (p : Core → Bool) (o : BitVec n) : (c.branchTo p o).id = c.id := by
  unfold Core.branchTo; split
  · exact c.retireTo_id _
  · exact c.retire_id

/-- A conditional branch goes on at its target or at the next instruction, in either case as an instruction that writes nothing. -/
theorem Core.branchTo_eq {n : Nat} (p : Core → Bool) (o : BitVec n) (c : Core) :
    c.branchTo p o = c.retireTo (if p c then c.curPc + o.signExtend 64 * 4 else c.curPc + 4) := by
  rw [Core.branchTo, wordOffset_eq, Core.retire]; split <;> rfl

/-- What a LOOP makes of its core (R109). -/
def Core.loopTo (r : BitVec 5) (o : BitVec 16) (c : Core) : Core :=
  let t := (c.rg r).toNat % 2 ^ 32
  if t = 0 then (c.wg r 0).retire else (c.wg r (BitVec.ofNat 64 (t - 1))).retireTo (c.curPc + wordOffset o)

theorem Core.loopTo_id (r : BitVec 5) (o : BitVec 16) (c : Core) : (c.loopTo r o).id = c.id := by
  simp only [Core.loopTo]; split <;> simp [Core.retire_id, Core.retireTo_id]

section
variable {s : State} {c : Core}

/-- A branch of R106 whose condition reads as `q`. -/
theorem State.AtInstr.runsTo_branch {i : Instr} (h : s.AtInstr c) (p : Core → Bool) (o : BitVec 16) {q : Prop} [Decidable q]
    (hi : exec i s = s.branch p o) (hq : p c = true ↔ q) :
    s.RunsTo i fun k => c.AfterScalar k 0#5 0 (if q then c.curPc + o.signExtend 64 * 4 else c.curPc + 4) := by
  refine h.runsTo_upd (Core.branchTo p o) (fun c => c.branchTo_id p o) hi ?_
  rw [Core.branchTo_eq]
  simp only [hq]
  exact c.afterScalar_retireTo_zero h.frame h.around _

theorem State.AtInstr.runsTo_jal (h : s.AtInstr c) (d : BitVec 5) (o : BitVec 21) :
    s.RunsTo (.jal d o) fun k => c.AfterScalar k d (c.curPc + 4) (c.curPc + o.signExtend 64 * 4) := by
  refine h.runsTo_upd (fun c => (c.wg d (c.curPc + 4)).retireTo (c.curPc + wordOffset o))
    (fun c => by simp [Core.retireTo_id]) rfl ?_
  rw [← wordOffset_eq]
  exact c.afterScalar_retireTo h.frame h.around _ _ _

theorem State.AtInstr.runsTo_loop_taken (h : s.AtInstr c) (r : BitVec 5) (o : BitVec 16)
    (ht : (c.rg r).toNat % 2 ^ 32 ≠ 0) : s.RunsTo (.loop r o) fun k =>
      c.AfterScalar k r (BitVec.ofNat 64 ((c.rg r).toNat % 2 ^ 32 - 1)) (c.curPc + o.signExtend 64 * 4) := by
  refine h.runsTo_upd (Core.loopTo r o) (Core.loopTo_id r o) rfl ?_
  rw [Core.loopTo, if_neg ht, wordOffset_eq]
  exact c.afterScalar_retireTo h.frame h.around _ _ _

theorem State.AtInstr.runsTo_loop_done (h : s.AtInstr c) (r : BitVec 5) (o : BitVec 16)
    (ht : (c.rg r).toNat % 2 ^ 32 = 0) : s.RunsTo (.loop r o) fun k => c.AfterScalar k r 0 (c.curPc + 4) := by
  refine h.runsTo_upd (Core.loopTo r o) (Core.loopTo_id r o) rfl ?_
  rw [Core.loopTo, if_pos ht]
  exact c.afterScalar_retire h.frame h.around r 0

/-- JALR, at a target that is aligned and at one that is not (R108). -/
theorem State.AtInstr.exec_jalr (h : s.AtInstr c) (d a : BitVec 5) (i : BitVec 16) :
    exec (.jalr d a i) s = .next (if (c.rg a + i.signExtend 64).toNat % 4 = 0
      then s.upd fun k => (k.wg d (k.curPc + 4)).retireTo (c.rg a + i.signExtend 64)
      else s.takeTrap { cause := .align, addr := c.rg a + i.signExtend 64 } c.curPc false) := by
  change execJalr d a i s = _
  rw [execJalr, h.run_eq]
  simp only [State.me_of_core? s c h.core, and_three_eq_zero_iff]
  split
  · rfl
  · rw [State.settle_precise h.core]; rfl

theorem State.AtInstr.runsTo_jalr (h : s.AtInstr c) (d a : BitVec 5) (i : BitVec 16)
    (ht : (c.rg a + i.signExtend 64).toNat % 4 = 0) :
    s.RunsTo (.jalr d a i) fun k => c.AfterScalar k d (c.curPc + 4) (c.rg a + i.signExtend 64) :=
  State.runsTo_of_upd h.core (fun k => (k.wg d (k.curPc + 4)).retireTo (c.rg a + i.signExtend 64))
    (fun k => by simp [Core.retireTo_id]) ((h.exec_jalr d a i).trans (by rw [if_pos ht]))
    (c.afterScalar_retireTo h.frame h.around _ _ _)

/-- JALR to an address that is not aligned. -/
theorem State.AtInstr.exec_jalr_align (h : s.AtInstr c) (d a : BitVec 5) (i : BitVec 16)
    (ht : (c.rg a + i.signExtend 64).toNat % 4 ≠ 0) : exec (.jalr d a i) s =
      .next (s.takeTrap { cause := .align, addr := c.rg a + i.signExtend 64 } c.curPc false) := by
  rw [h.exec_jalr d a i, if_neg ht]

/-- Every branch and jump that completes does as its row says. -/
theorem State.AtInstr.runsTo_jumpTarget (h : s.AtInstr c) {i : Instr} {d : BitVec 5} {x a : Word}
    (hi : Rules.jumpTarget c i = some (d, x, a)) : s.RunsTo i fun k => c.AfterScalar k d x a := by
  unfold Rules.jumpTarget at hi
  -- the rows of `jumpTarget` in its order: BEQ, BNE, BLT, BGE, BLTU, BGEU, JAL, JALR, LOOP, and no other instruction
  split at hi
  case h_1 => cases hi; exact h.runsTo_branch (fun c => c.rg _ = c.rg _) _ rfl decide_eq_true_iff
  case h_2 => cases hi; exact h.runsTo_branch (fun c => c.rg _ ≠ c.rg _) _ rfl decide_eq_true_iff
  case h_3 => cases hi; exact h.runsTo_branch (fun c => (c.rg _).slt (c.rg _)) _ rfl BitVec.slt_iff_toInt_lt
  case h_4 => cases hi; exact h.runsTo_branch (fun c => !(c.rg _).slt (c.rg _)) _ rfl (not_slt_iff_toInt_le _ _)
  case h_5 => cases hi; exact h.runsTo_branch (fun c => (c.rg _).ult (c.rg _)) _ rfl BitVec.ult_iff_lt
  case h_6 => cases hi; exact h.runsTo_branch (fun c => !(c.rg _).ult (c.rg _)) _ rfl (not_ult_iff_toNat_le _ _)
  case h_7 d o => cases hi; exact h.runsTo_jal d o
  case h_8 d a i =>
    dsimp only at hi
    split at hi
    case isTrue ht => cases hi; exact h.runsTo_jalr d a i ht
    case isFalse => cases hi
  case h_9 _ o =>
    dsimp only at hi
    split at hi
    case isTrue ht => cases hi; exact h.runsTo_loop_taken _ o ht
    case isFalse ht => cases hi; exact h.runsTo_loop_done _ o (Decidable.not_not.1 ht)
  case h_10 => cases hi

/-- BANY and BALL while VTYPE is well or in split mode, whose condition reads as `q` (R107). -/
theorem State.AtInstr.runsTo_maskBranch {i : Instr} (h : s.AtInstr c) (hill : (!c.split.on && c.ill) = false)
    (m : BitVec 6) (o : BitVec 16) (p : List Bool → Bool) {q : Prop} [Decidable q]
    (hi : exec i s = s.maskBranch m o p) (hq : p (c.examined m) = true ↔ q) :
    s.RunsTo i fun k => c.AfterScalar k 0#5 0 (if q then c.curPc + o.signExtend 64 * 4 else c.curPc + 4) ∧ k.g = c.g := by
  obtain ⟨x, hx⟩ := s.touch_reads [(regM m.toNat, c.predBits)]
  have hexec : exec i s = .next (s.upd fun c => (c.withStrip (x c)).branchTo (fun c => p (c.examined m)) o) := by
    rw [hi, State.maskBranch, h.run_eq, ← State.upd_upd s (fun c => c.withStrip (x c))
      (Core.branchTo (fun c => p (c.examined m)) o) fun _ => rfl]
    simp only [State.me_of_core? s c h.core, hill, hx]
    rfl
  refine State.runsTo_of_upd h.core _ (fun c => (c.withStrip (x c)).branchTo_id _ o) hexec ?_
  have hq' : p ((c.withStrip (x c)).examined m) = true ↔ q := hq
  simp only [Core.branchTo_eq, hq']
  exact ⟨(c.withStrip (x c)).afterScalar_retireTo_zero h.frame h.around _,
    ((c.withStrip (x c)).retireTo_frame _ h.frame h.around).1⟩

/-- BANY and BALL outside split mode while VTYPE is ill (R107). -/
theorem State.AtInstr.maskBranch_vtype (h : s.AtInstr c) (hill : (!c.split.on && c.ill) = true) (m : BitVec 6)
    (o : BitVec 16) (p : List Bool → Bool) : s.maskBranch m o p = .next (s.takeTrap { cause := .vtype } c.curPc false) := by
  rw [State.maskBranch, h.run_eq, ← State.settle_precise h.core]
  simp only [State.me_of_core? s c h.core, hill, if_true, State.vtypeTrap, h.frame]

/-- Some examined bit is one, outside split mode, when the bit of an element below VL is. -/
theorem any_examined (hs : c.split.on = false) (m : BitVec 6) : (c.examined m).any id = true ↔
    ∃ e, e < c.vl.toNat ∧ (c.mreg m.toNat).getLsbD (e * (fmtWidth c.fmt / (2 * 2 ^ c.glog.toNat))) = true := by
  simp [Core.examined, hs, Core.vln, Core.sigma, Core.w, Core.grp]

/-- All examined bits are one, outside split mode, when the bit of each element below VL is. -/
theorem all_examined (hs : c.split.on = false) (m : BitVec 6) : (c.examined m).all id = true ↔
    ∀ e, e < c.vl.toNat → (c.mreg m.toNat).getLsbD (e * (fmtWidth c.fmt / (2 * 2 ^ c.glog.toNat))) = true := by
  simp [Core.examined, hs, Core.vln, Core.sigma, Core.w, Core.grp]

/-- A lane thread examines the one bit of its own predicate. -/
theorem examined_of_lane (hs : c.split.on = true) (m : BitVec 6) :
    c.examined m = [(c.mreg m.toNat).getLsbD (32 * c.split.lane)] := by
  simp [Core.examined, hs]

/-- What a branch outside split mode leaves as it was. -/
theorem Core.AfterScalar.branch_frame {k : Core} {a : Word} (hs : c.split.on = false) (hk : c.AfterScalar k 0#5 0 a)
    (hg : k.g = c.g) : k.curPc = a ∧ k.g = c.g ∧ c.SameVector k ∧ c.SameSpecial k ∧ k.fflags = c.fflags := by
  obtain ⟨hpc, -, hm, hy, hff, -, -, -, hsp, hv⟩ := hk
  rw [hs] at hv
  exact ⟨hpc, hg, ⟨hv, hm, hy⟩, hsp, hff⟩

end

theorem branchAndJumpResult : Rules.branchAndJumpResult :=
  ⟨fun _ _ _ _ _ _ hs hi => (State.atInstr_of_plain_or_inLane hs).runsTo_jumpTarget hi,
    fun _ _ d a i hs ht => (State.atInstr_of_plain_or_inLane hs).exec_jalr_align d a i ht⟩

theorem exec_bany (s : State) (m : BitVec 6) (o : BitVec 16) :
    exec (.bany m o) s = s.maskBranch m o fun xs => xs.any id := rfl

theorem exec_ball (s : State) (m : BitVec 6) (o : BitVec 16) :
    exec (.ball m o) s = s.maskBranch m o fun xs => xs.all id := rfl

theorem maskBranchResult : Rules.maskBranchResult := by
  refine ⟨fun s c m o hc hill => ?_, fun s c m o hl => ?_, fun s c m o hp hill => ?_⟩
  · obtain ⟨hp, -, -⟩ := hc
    have h := State.atInstr_of_plain_or_inLane (.inl hp)
    obtain ⟨-, hs, -⟩ := hp
    have hw : (!c.split.on && c.ill) = false := by simp [hill]
    exact ⟨(h.runsTo_maskBranch hw m o _ (exec_bany s m o) (any_examined hs m)).mono fun k ⟨hk, hg⟩ => hk.branch_frame hs hg,
      (h.runsTo_maskBranch hw m o _ (exec_ball s m o) (all_examined hs m)).mono fun k ⟨hk, hg⟩ => hk.branch_frame hs hg⟩
  · have h := State.atInstr_of_plain_or_inLane (.inr hl)
    obtain ⟨-, hs, -⟩ := hl
    have hw : (!c.split.on && c.ill) = false := by simp [hs]
    exact ⟨(h.runsTo_maskBranch hw m o _ (exec_bany s m o) (by simp [examined_of_lane hs])).mono fun k hk => hk.1,
      (h.runsTo_maskBranch hw m o _ (exec_ball s m o) (by simp [examined_of_lane hs])).mono fun k hk => hk.1⟩
  · have h := State.atInstr_of_plain_or_inLane (.inl hp)
    obtain ⟨-, hs, -⟩ := hp
    have hw : (!c.split.on && c.ill) = true := by simp [hill, hs]
    exact ⟨(exec_bany s m o).trans (h.maskBranch_vtype hw m o _), (exec_ball s m o).trans (h.maskBranch_vtype hw m o _)⟩

/-- Settles O11: the branches and jumps by the rows of `Rules.jumpTarget`, BANY and BALL by the bits they examine. -/
theorem branchResult : Obligations.BranchResult := by
  unfold Obligations.BranchResult
  exact ⟨branchAndJumpResult, maskBranchResult⟩

end Sys2Proof.Machine
end
